-- ==== Sys2Proof/Word.lean ====
section
/-! DEFINITION. Word types of the Todeus T416 and the plainest arithmetic on them. -/
namespace Sys2Proof

/-- A scalar register value (R58). -/
abbrev Word := BitVec 64
/-- A byte of any memory. -/
abbrev Byte := BitVec 8
/-- A vector register or a 64-byte memory word (R58, R59). -/
abbrev Vec := BitVec 512
/-- A core-local address (R56). -/
abbrev CAddr := BitVec 32

/-- A natural number as a bit. -/
def bit (b : Bool) : Nat := if b then 1 else 0

end Sys2Proof
end

