-- ==== Sys2Proof/Syntax.lean ====
section
/-! DEFINITION. The commands of the block: one constructor per row of the opcode table. Field commands of a core's
bundle carry the bundle they belong to as a Slot. Facts of the outside world that a command brings with it (what a
sensor read, what an error-correcting code found, what the host or a peer sent) are operands. -/
namespace Sys2Proof

/-- Lane type of a vector operation (R104). -/
inductive VTy where
  | f32 | bf16 | f16
deriving DecidableEq, Repr

/-- The bundle a field command belongs to: the core, whether it is the first field of its bundle in this cycle, and
whether it is the last (R93). -/
structure Slot where
  core : Nat
  first : Bool
  last : Bool
deriving DecidableEq, Repr

/-- A hardware upset of a drain read: columns with the bits that flipped in the accumulator (R83, R84). -/
abbrev Upset := List (Nat × BitVec 32)

/-- What the code of a memory finds in a line it reads (R320 to R322): nothing wrong, a corrected error, an error it
cannot correct, or a stored piece whose line check does not match. -/
inductive Ecc where
  | ok | corrected | uncorrectable | mismatch (piece : Nat)
deriving DecidableEq, Repr

/-- Findings by device line number; a line that is not listed is read without error. -/
abbrev Eccs := List (Nat × Ecc)

/-- Header of a service request (Table 5-9): source node, tag, device address, hint, class, partition, key slot, PASID
and imm. -/
structure Req where
  src : Nat
  tag : Nat
  addr : Nat
  hint : Nat
  cls : Nat
  part : Nat
  key : Nat
  pasid : Nat
  imm : BitVec 64
deriving DecidableEq, Repr

/-- Data flits of a service packet: how many, their 32-byte payloads from the lowest, one poison mark and two line-check
bits for each (R121, R141). -/
structure Flits where
  n : Nat
  data : BitVec 2048
  psn : BitVec 8
  chk : BitVec 16
deriving DecidableEq, Repr

/-- A service packet (R141): operation code of Table 5-10, header, destination node, data flits. -/
structure Pkt where
  op : Nat
  rq : Req
  dst : Nat
  fl : Flits
deriving DecidableEq, Repr

/-- A lane-flit in a slot of a link frame (R263). -/
structure LFlit where
  psn : Bool
  chk : BitVec 2
  data : BitVec 256
deriving DecidableEq, Repr

/-- Messages of the marker field: READY(p, k) of a position, GO(p, k, T), the master's DEVTIME, an abort of partition p
(R274, R275, R289). -/
inductive Mark where
  | ready (p k pos : Nat)
  | go (p k t : Nat)
  | devtime (t : Nat)
  | abort (p : Nat)
deriving DecidableEq, Repr

/-- Messages of the control field: pause and resume of a gateway lane (R281), credits of n flits of a service VC (R264). -/
inductive LCtl where
  | pause (lane : Nat)
  | resume (lane : Nat)
  | credits (vc n : Nat)
deriving DecidableEq, Repr

/-- Frame types of the sync field (Table 10-2). -/
inductive Sync where
  | data | training | idle
deriving DecidableEq, Repr

/-- A link frame as a port receives it (R263 to R266): its type and number, the codewords found uncorrectable, how many were
corrected, whether its tag holds, lane-flits of gateway lanes 0 to 3 in slot order, whether a control flit reports the link
down, control and marker messages each with the number of the first frame that carried it, and service packets; and, of a frame that is
sent, its nonce and its tag (R311). -/
structure Frame where
  sync : Sync := .data
  fnum : Nat
  nonce : BitVec 96 := 0
  tag : BitVec 128 := 0
  ucw : BitVec 6
  corr : Nat
  tagOk : Bool
  lanes : List (List LFlit)
  down : Bool
  ctl : List (Nat × LCtl)
  marks : List (Nat × Mark)
  pkts : List Pkt
deriving DecidableEq, Repr

/-- How a training went (R268 to R272, R275, R276, R384): clock lock and deskew, FEC and frame lock, the peer's position,
role, port, topology and ndev, mutual authentication, whether the peer's measurement blocks 2 to 4 differ, the
one-way time in ps, the peer's DEVTIME in the offset exchange, whether its cascade has joined, whether the master
broadcasts its images, the longest marker path from the master in ns as now measured, the flits of each service VC that the
peer's receive buffers hold (R264), and the secret agreed by ECDHE (R310). -/
structure Train where
  lanes : Bool
  frames : Bool
  pos : Nat
  master : Bool
  port : Nat
  topo : Nat
  ndev : Nat
  auth : Bool
  differs : Bool
  oneWay : Nat
  time : Option Nat
  joined : Bool
  bcast : Bool
  path : Nat
  bufs : List Nat := []
  secret : BitVec 384 := 0
deriving DecidableEq, Repr

/-- An element of a detour list (R290, R291): position, address and entry count of a LOAD_SCHEDULE router list on that
device, and its 64 LNK_ROUTE values. -/
structure DetourElem where
  pos : Nat
  addr : Nat
  count : Nat
  routes : List (BitVec 32)
deriving DecidableEq, Repr, Inhabited

/-- A firmware image (R295, R296): the fields of its header, whether each of its two signatures verifies under the key whose hash is
fused for its kind, and its bytes as copied into the target's memory. Kinds: 0 Rind, 1 command processor, 2 to 5 the microcode of
near-tier, HBM, link and copy-engine controllers (Table 11-1). -/
structure Image where
  kind : Nat
  svn : Nat
  len : Nat
  digest : BitVec 384
  ecdsa : Bool
  mldsa : Bool
  commit : Bool
  copy : List (BitVec 8)
deriving DecidableEq, Repr

/-- What a start stage found (R369 to R380): a start failure of Table 14-3 or 0; units that failed their training, gate or
test, each with its unit number, defect-list kind and location (Tables 12-6, 14-7); for each image to be authenticated, in the order
of their kinds, the flash copies that can be read, the active one first (R295); the measurement of the Starter ROM (Table 11-2); at
FAR, the far-tier channels tested, each with the
spare data lanes its stack provides and the lanes that fail (R166); and, at PLAN, the guard bands that the Cave's
sweep found for the power domains with the slack each leaves, in mV and ps. -/
structure StageRep where
  err : Nat := 0
  units : List (Nat × Nat × Nat) := []
  images : List (List Image) := []
  rom : BitVec 384 := 0
  guards : List (Nat × Nat) := []
  lanes : List (Nat × Nat × Nat) := []
deriving DecidableEq, Repr

/-- A request that the hardware responder answers from its own state (R231, R261): a read or a write of configuration space, a read of
BAR0 or BAR2 of one or of two 32-bit words, or a request of a kind that Table 9-1 does not list: an AtomicOp, an I/O request, a
message. -/
inductive HostReq where
  | config
  | configWrite
  | bar0 (two : Bool)
  | bar2 (two : Bool)
  | unlisted
deriving DecidableEq, Repr

/-- KEY_EXCHANGE (R298): the session to open and the digest of the messages exchanged. -/
structure KeyEx where
  sid : Nat
  transcript : BitVec 384
deriving DecidableEq, Repr

/-- The sender of a mailbox transfer (R287): the role bit, set for the master, and the source position. -/
structure MbxFrom where
  master : Bool
  pos : Nat
deriving DecidableEq, Repr

/-- A request to Rind on the DOE mailbox that has no row of its own (Table 11-3, R297, R301): measurement blocks by index, a CHALLENGE
with its nonce, the certificates of a slot, the negotiation of version, capabilities and algorithms, a key update of the session, part n
of a large answer, the interface report or the state of the TDI of VFn, and a TDISP message that Table 11-4 does not list. -/
inductive SpdmReq where
  | measurements (idx : Nat)
  | challenge (slot : Nat) (nonce : BitVec 256)
  | certificate (slot : Nat)
  | version
  | capabilities
  | algorithms
  | keyUpdate
  | chunk (n : Nat)
  | interfaceReport (n : Nat)
  | interfaceState (n : Nat)
  | tdisp (n code : Nat)
deriving DecidableEq, Repr

/-- The one instruction type. -/
inductive Instr where
  /-- CMD_NOP (R244). NOP command completes at its start with detail and result zero. -/
  | cmdNop (q : Nat) (seq : Nat)
  /-- COPY (R247). Copy engine moves a linear range tile by tile from source to destination. -/
  | copy (q : Nat) (seq : Nat)
  /-- COPY2D (R247). Copy engine moves rows with pitches, optionally transposing elements. -/
  | copy2d (q : Nat) (seq : Nat)
  /-- FILL (R247). Copy engine fills a range with a repeated pattern of 1, 2, 4 or 8 bytes. -/
  | fill (q : Nat) (seq : Nat)
  /-- ZERO (R248). Copy engine zeroes a range with ZERO_LINE for whole lines and partial writes at the ends. -/
  | zero (q : Nat) (seq : Nat)
  /-- PREFETCH (R259). Copy engine issues one shared-buffer prefetch for each line of the range. -/
  | prefetch (q : Nat) (seq : Nat)
  /-- ADVISE_WRITEBACK (R259). Runs FLUSH on a host-window range so device writes reach host memory. -/
  | adviseWriteback (q : Nat) (seq : Nat)
  /-- ADVISE_DROP (R259). Runs CLEAN_INV on a host-window range so later reads see host writes. -/
  | adviseDrop (q : Nat) (seq : Nat)
  /-- ADVISE_TRANSLATE (R259). Fills the translation cache for a range, raising page requests where needed, and moves no data. -/
  | adviseTranslate (q : Nat) (seq : Nat)
  /-- LOAD_PROGRAM (R114). Writes a program image into target cores' instruction stores, immediately or queued for a step boundary. -/
  | loadProgram (q : Nat) (seq : Nat)
  /-- LOAD_SCHEDULE (R134). Simulates and then writes router schedule tables and delivery generators of a partition. -/
  | loadSchedule (q : Nat) (seq : Nat)
  /-- LOAD_CODEBOOK (R183). Acts on each target cluster as a CBLOAD, followed by a CBSWAP when the swap flag is set, on stopped partitions. -/
  | loadCodebook (q : Nat) (seq : Nat)
  /-- RUN_STEPS (R246). Starts steps on a stopped partition and ends after the given number of steps. -/
  | runSteps (q : Nat) (seq : Nat)
  /-- HOLD (R246). Pauses the partition's RUN_STEPS at its next step boundary. -/
  | hold (q : Nat) (seq : Nat)
  /-- RELEASE (R246). Resumes a paused partition at its next boundary. -/
  | release (q : Nat) (seq : Nat)
  /-- FENCE (R251). Completes once earlier entries of its queue or partition are reported and visible, with an optional flush. -/
  | fence (q : Nat) (seq : Nat)
  /-- ABORT (R253). Ends a range of entries of a queue according to each target's state. -/
  | abort (q : Nat) (seq : Nat)
  /-- KV_COMMIT (R190). Performs a COMMIT for one cluster through its service attachment, at once or at the next step boundary. -/
  | kvCommit (q : Nat) (seq : Nat)
  /-- DIGEST (R323). Computes the XOR of CRC-64 values over the lines of a region. -/
  | digest (q : Nat) (seq : Nat)
  /-- SELF_TEST (R326). Runs a field test on one unit against stored answers. -/
  | selfTest (q : Nat) (seq : Nat)
  /-- SET_CLASS (R223). Writes a class-table entry after checking the guarantee sum. -/
  | setClass (q : Nat) (seq : Nat)
  /-- PARTITION_ASSIGN (R88). Assigns clusters, link ports and scratch blocks to a partition, cluster-resetting clusters whose owner changes. -/
  | partitionAssign (q : Nat) (seq : Nat)
  /-- PARTITION_DISSOLVE (R88). Dissolves a partition and releases its resources. -/
  | partitionDissolve (q : Nat) (seq : Nat)
  /-- KEY_GENERATE (R305). Rind draws a new key, installs it over the key bus and binds the slot to a partition. -/
  | keyGenerate (q : Nat) (seq : Nat)
  /-- KEY_DESTROY (R306). Marks a key slot dying, waits, purges its lines, zeroes the key and frees the slot. -/
  | keyDestroy (q : Nat) (seq : Nat)
  /-- READ_TELEMETRY (R366). Writes a header and the telemetry entries that a selector names to a destination. -/
  | readTelemetry (q : Nat) (seq : Nat)
  /-- RESET_UNIT_CORE (R387). Resets one core after draining its DMA descriptors. -/
  | resetUnitCore (q : Nat) (seq : Nat)
  /-- RESET_UNIT_CLUSTER (R387). Resets one cluster and writes back its CLU_CFG assignment. -/
  | resetUnitCluster (q : Nat) (seq : Nat)
  /-- RESET_UNIT_PARTITION (R387). Resets every cluster of a partition and aborts its RUN_STEPS. -/
  | resetUnitPartition (q : Nat) (seq : Nat)
  /-- RESET_UNIT_COPY_ENGINE (R387). Resets a copy engine and aborts its command. -/
  | resetUnitCopyEngine (q : Nat) (seq : Nat)
  /-- RESET_UNIT_FABRIC_SEGMENT (R387). Drains and resets the slice logic of four slices, leaving them uncached. -/
  | resetUnitFabricSegment (q : Nat) (seq : Nat)
  /-- RESET_UNIT_LINK_PORT (R387). Takes a link port down and starts its retraining. -/
  | resetUnitLinkPort (q : Nat) (seq : Nat)
  /-- UNIT_RESET_COMPLETE (R89). A core or cluster finishes clearing its memories and leaves reset. -/
  | unitResetComplete (kind : Nat) (idx : Nat)
  /-- SEGMENT_DRAIN_TIMEOUT (R388). A segment drain that has not ended in 10 ms is absorbed with timeouts and poison writes. -/
  | segmentDrainTimeout (idx : Nat)
  /-- ENTRY_FETCH (R238). The command processor fetches and starts the next submission entry of a queue in round-robin order. -/
  | entryFetch (q : Nat) (pkt : BitVec 512)
  /-- REPLY_WRITE (R240). Writes an entry's reply in sequence order once earlier replies are written and the reply ring has room. -/
  | replyWrite (q : Nat)
  /-- TILE_COMPLETE (R247). Once every write of a tile has been accepted, the engine starts the next tile. -/
  | tileComplete (e : Nat) (ecc : Eccs)
  /-- CTRL_NOP (R95). Control NOP has no effect. -/
  | ctrlNop (sl : Slot) (g : Nat)
  /-- LOOPI (R97). Opens a loop level over the next n bundles with an immediate count. -/
  | loopi (sl : Slot) (g : Nat) (n : Nat) (count : Nat)
  /-- LOOPR (R97). Opens a loop level with its count taken from a scalar register, or skips the body when the count is zero. -/
  | loopr (sl : Slot) (g : Nat) (n : Nat) (sa : Nat)
  /-- BR (R96). Branches to an immediate bundle index. -/
  | br (sl : Slot) (g : Nat) (target : Nat)
  /-- JR (R96). Branches to the bundle index held in a scalar register. -/
  | jr (sl : Slot) (g : Nat) (sa : Nat)
  /-- WAITF (R112). Consumes a set flag, or raises hold when the flag is clear. -/
  | waitf (sl : Slot) (g : Nat) (keep : Bool) (f : Nat)
  /-- ENDSTEP (R90). Ends the core's step so that it issues nothing more until the next step. -/
  | endstep (sl : Slot) (g : Nat)
  /-- BRK (R118). Raises a debug hold for the partition. -/
  | brk (sl : Slot) (g : Nat)
  /-- SETP (R95). Sets a predicate from a comparison of two scalar registers. -/
  | setp (sl : Slot) (g : Nat) (pd : Nat) (cmp : Nat) (sa : Nat) (sb : Nat)
  /-- PLOG (R95). Sets a predicate from a logical function of two predicates. -/
  | plog (sl : Slot) (g : Nat) (pd : Nat) (fn : Nat) (pa : Nat) (pb : Nat)
  /-- MOVI (R95). Loads a sign-extended immediate into a scalar register. -/
  | movi (sl : Slot) (g : Nat) (sd : Nat) (imm : BitVec 10)
  /-- ADDI (R95). Adds a sign-extended immediate to a scalar register. -/
  | addi (sl : Slot) (g : Nat) (sd : Nat) (imm : BitVec 10)
  /-- ADD (R95). Scalar add, wrapping modulo 2^64. -/
  | add (sl : Slot) (g : Nat) (sd : Nat) (sa : Nat) (sb : Nat)
  /-- SUB (R95). Scalar subtract. -/
  | sub (sl : Slot) (g : Nat) (sd : Nat) (sa : Nat) (sb : Nat)
  /-- MUL (R95). Scalar multiply giving the low 64 bits of the product. -/
  | mul (sl : Slot) (g : Nat) (sd : Nat) (sa : Nat) (sb : Nat)
  /-- AND (R95). Scalar bitwise and. -/
  | and (sl : Slot) (g : Nat) (sd : Nat) (sa : Nat) (sb : Nat)
  /-- OR (R95). Scalar bitwise or. -/
  | or (sl : Slot) (g : Nat) (sd : Nat) (sa : Nat) (sb : Nat)
  /-- XOR (R95). Scalar bitwise xor. -/
  | xor (sl : Slot) (g : Nat) (sd : Nat) (sa : Nat) (sb : Nat)
  /-- SHL (R95). Scalar shift left by sb[5:0]. -/
  | shl (sl : Slot) (g : Nat) (sd : Nat) (sa : Nat) (sb : Nat)
  /-- SHR (R95). Scalar logical shift right. -/
  | shr (sl : Slot) (g : Nat) (sd : Nat) (sa : Nat) (sb : Nat)
  /-- SRA (R95). Scalar arithmetic shift right. -/
  | sra (sl : Slot) (g : Nat) (sd : Nat) (sa : Nat) (sb : Nat)
  /-- MIN (R95). Signed scalar minimum. -/
  | min (sl : Slot) (g : Nat) (sd : Nat) (sa : Nat) (sb : Nat)
  /-- MAX (R95). Signed scalar maximum. -/
  | max (sl : Slot) (g : Nat) (sd : Nat) (sa : Nat) (sb : Nat)
  /-- AADDI (R95). Adds 64 times a sign-extended immediate to an address register. -/
  | aaddi (sl : Slot) (g : Nat) (ad : Nat) (imm : BitVec 12)
  /-- AMOV (R95). Moves the low 32 bits of a scalar register into an address register. -/
  | amov (sl : Slot) (g : Nat) (ad : Nat) (sa : Nat)
  /-- SMOVA (R95). Moves an address register, zero-extended, into a scalar register. -/
  | smova (sl : Slot) (g : Nat) (sd : Nat) (aa : Nat)
  /-- RDS (R95). Reads the step count, cycle count, loop counts, core number or DEVTIME into a scalar register. -/
  | rds (sl : Slot) (g : Nat) (sd : Nat) (sel : Nat)
  /-- FEED_CM (R99). Queues a stream descriptor that feeds words of cluster memory into an array feeder. -/
  | feedCm (sl : Slot) (arr : Nat) (a : Nat) (words : Nat) (inc : Bool) (fmt : Nat)
  /-- FEED_LS (R99). Queues a stream descriptor that feeds words of local scratch into an array feeder. -/
  | feedLs (sl : Slot) (arr : Nat) (a : Nat) (words : Nat) (inc : Bool) (fmt : Nat)
  /-- FEED_V (R99). Queues a stream descriptor that feeds vector registers into an array feeder. -/
  | feedV (sl : Slot) (arr : Nat) (vbase : Nat) (n : Nat) (fmt : Nat)
  /-- FEED_MESH (R101). Queues a descriptor that accepts mesh deliveries into an array feeder. -/
  | feedMesh (sl : Slot) (arr : Nat) (n : Nat) (fmt : Nat)
  /-- LOADS_CM (R100). Loads a stationary set from cluster memory into the shadow bank. -/
  | loadsCm (sl : Slot) (arr : Nat) (a : Nat) (inc : Bool) (sf : Nat) (tf : Nat)
  /-- LOADS_LS (R100). Loads a stationary set from local scratch into the shadow bank. -/
  | loadsLs (sl : Slot) (arr : Nat) (a : Nat) (inc : Bool) (sf : Nat) (tf : Nat)
  /-- LOADS_V (R100). Loads a stationary set from vector registers into the shadow bank. -/
  | loadsV (sl : Slot) (arr : Nat) (vbase : Nat) (sf : Nat) (tf : Nat)
  /-- STATIONARY_LOAD_START (R77). A stationary load starts once earlier swap markers have passed row 15. -/
  | stationaryLoadStart (core : Nat) (arr : Nat)
  /-- ISS (R102). Requests n vectors in the pass in force. -/
  | iss (sl : Slot) (arr : Nat) (n : Nat)
  /-- PASS (R102). Requests n vectors, the first carrying the swap marker of the next pass. -/
  | pass (sl : Slot) (arr : Nat) (n : Nat)
  /-- PRE (R103). Makes the next accumulation start in preload mode from a register. -/
  | pre (sl : Slot) (arr : Nat) (v : Nat)
  /-- DRAIN (R79). Requests that the current accumulation be drained to a vector register. -/
  | drain (sl : Slot) (arr : Nat) (v : Nat)
  /-- DISCARD (R79). Ends the current accumulation without reading it. -/
  | discard (sl : Slot) (arr : Nat)
  /-- ARRAY_VECTOR_ISSUE (R70). An array issues a streamed vector once all the issue conditions hold. -/
  | arrayVectorIssue (core : Nat) (arr : Nat)
  /-- DRAIN_FIRE (R79). A drain reads the accumulators into the destination register and applies the accumulation's flags. -/
  | drainFire (core : Nat) (arr : Nat) (upset : Upset)
  /-- VNOP (R104). Vector no-operation. -/
  | vnop (sl : Slot) (p : Nat)
  /-- VADD (R104). Lane-wise vector add. -/
  | vadd (sl : Slot) (p : Nat) (ty : VTy) (vd : Nat) (va : Nat) (vb : Nat)
  /-- VSUB (R104). Lane-wise vector subtract. -/
  | vsub (sl : Slot) (p : Nat) (ty : VTy) (vd : Nat) (va : Nat) (vb : Nat)
  /-- VMUL (R104). Lane-wise vector multiply. -/
  | vmul (sl : Slot) (p : Nat) (ty : VTy) (vd : Nat) (va : Nat) (vb : Nat)
  /-- VFMA (R104). Lane-wise fused multiply-add into vd. -/
  | vfma (sl : Slot) (p : Nat) (ty : VTy) (vd : Nat) (va : Nat) (vb : Nat)
  /-- VMAX (R104). Lane-wise maximum. -/
  | vmax (sl : Slot) (p : Nat) (ty : VTy) (vd : Nat) (va : Nat) (vb : Nat)
  /-- VMIN (R104). Lane-wise minimum. -/
  | vmin (sl : Slot) (p : Nat) (ty : VTy) (vd : Nat) (va : Nat) (vb : Nat)
  /-- VABS (R104). Lane-wise magnitude. -/
  | vabs (sl : Slot) (p : Nat) (ty : VTy) (vd : Nat) (va : Nat)
  /-- VNEG (R104). Lane-wise negation. -/
  | vneg (sl : Slot) (p : Nat) (ty : VTy) (vd : Nat) (va : Nat)
  /-- VEXP (R104). Lane-wise exponential. -/
  | vexp (sl : Slot) (p : Nat) (ty : VTy) (vd : Nat) (va : Nat)
  /-- VRCP (R104). Lane-wise reciprocal. -/
  | vrcp (sl : Slot) (p : Nat) (ty : VTy) (vd : Nat) (va : Nat)
  /-- VRSQ (R104). Lane-wise reciprocal square root. -/
  | vrsq (sl : Slot) (p : Nat) (ty : VTy) (vd : Nat) (va : Nat)
  /-- VTAB (R105). Interpolates each lane from the core's table store. -/
  | vtab (sl : Slot) (p : Nat) (ty : VTy) (vd : Nat) (va : Nat) (vb : Nat)
  /-- VTWR (R104). Writes eight base and slope pairs into the table store. -/
  | vtwr (sl : Slot) (p : Nat) (va : Nat) (grp : Nat)
  /-- VRSUM (R104). Sums the lanes into lane 0. -/
  | vrsum (sl : Slot) (p : Nat) (ty : VTy) (vd : Nat) (va : Nat)
  /-- VRMAX (R104). Places the maximum of the lanes in lane 0. -/
  | vrmax (sl : Slot) (p : Nat) (ty : VTy) (vd : Nat) (va : Nat)
  /-- VAND (R104). Bitwise and on 512 bits. -/
  | vand (sl : Slot) (p : Nat) (vd : Nat) (va : Nat) (vb : Nat)
  /-- VOR (R104). Bitwise or on 512 bits. -/
  | vor (sl : Slot) (p : Nat) (vd : Nat) (va : Nat) (vb : Nat)
  /-- VXOR (R104). Bitwise xor on 512 bits. -/
  | vxor (sl : Slot) (p : Nat) (vd : Nat) (va : Nat) (vb : Nat)
  /-- VMOV (R104). Copies a vector register. -/
  | vmov (sl : Slot) (p : Nat) (vd : Nat) (va : Nat)
  /-- VCMPLT (R104). Lane-wise less-than comparison giving masks. -/
  | vcmplt (sl : Slot) (p : Nat) (ty : VTy) (vd : Nat) (va : Nat) (vb : Nat)
  /-- VSEL (R104). Selects lanes of va where the mask in vb is non-zero. -/
  | vsel (sl : Slot) (p : Nat) (ty : VTy) (vd : Nat) (va : Nat) (vb : Nat)
  /-- VBC (R104). Broadcasts one lane to every lane. -/
  | vbc (sl : Slot) (p : Nat) (ty : VTy) (vd : Nat) (va : Nat) (l : Nat)
  /-- VBCS (R104). Broadcasts a scalar register to every lane. -/
  | vbcs (sl : Slot) (p : Nat) (ty : VTy) (vd : Nat) (sa : Nat)
  /-- CVT_F32 (R42). Converts from FP32 lanes to the named destination format. -/
  | cvtF32 (sl : Slot) (p : Nat) (vd : Nat) (va : Nat) (dst : Nat) (rnd : Nat)
  /-- CVT_BF16 (R42). Converts from BF16 lanes to the named destination format. -/
  | cvtBf16 (sl : Slot) (p : Nat) (vd : Nat) (va : Nat) (dst : Nat) (rnd : Nat)
  /-- CVT_F16 (R42). Converts from FP16 lanes to the named destination format. -/
  | cvtF16 (sl : Slot) (p : Nat) (vd : Nat) (va : Nat) (dst : Nat) (rnd : Nat)
  /-- CVT_I32 (R45). Converts INT32 lanes to FP32. -/
  | cvtI32 (sl : Slot) (p : Nat) (vd : Nat) (va : Nat)
  /-- UNPK (R105). Widens narrow elements to the lane type. -/
  | unpk (sl : Slot) (p : Nat) (q : Nat) (vd : Nat) (va : Nat) (src : Nat) (ty : VTy)
  /-- MXP_F32 (R34). Packs an MX block from a pair of FP32 registers. -/
  | mxpF32 (sl : Slot) (p : Nat) (vd : Nat) (va : Nat) (code : Nat) (rnd : Nat)
  /-- MXP_F16 (R34). Packs an MX block from an FP16 register. -/
  | mxpF16 (sl : Slot) (p : Nat) (vd : Nat) (va : Nat) (code : Nat) (rnd : Nat)
  /-- MXP_BF16 (R34). Packs an MX block from a BF16 register. -/
  | mxpBf16 (sl : Slot) (p : Nat) (vd : Nat) (va : Nat) (code : Nat) (rnd : Nat)
  /-- MXU (R41). Unpacks an MX block into FP32, FP16 or BF16 lanes. -/
  | mxu (sl : Slot) (p : Nat) (vd : Nat) (va : Nat) (code : Nat) (ty : VTy)
  /-- VTMASK (R184). Builds a tree attention mask from a parent vector. -/
  | vtmask (sl : Slot) (p : Nat) (vd : Nat) (va : Nat) (vb : Nat) (ty : VTy)
  /-- VLD (R106). Loads a 64-byte word into a vector register. -/
  | vld (sl : Slot) (p : Nat) (v : Nat) (a : Nat) (inc : Bool) (off : BitVec 10)
  /-- VST (R106). Stores a vector register to a 64-byte word. -/
  | vst (sl : Slot) (p : Nat) (v : Nat) (a : Nat) (inc : Bool) (off : BitVec 10)
  /-- SLD (R106). Loads 8 bytes into a scalar register. -/
  | sld (sl : Slot) (p : Nat) (r : Nat) (a : Nat) (off : BitVec 10)
  /-- SST (R106). Stores a scalar register to 8 bytes. -/
  | sst (sl : Slot) (p : Nat) (r : Nat) (a : Nat) (off : BitVec 10)
  /-- SEND (R107). Places a vector register into a mesh injection channel. -/
  | send (sl : Slot) (p : Nat) (v : Nat) (ch : Nat)
  /-- SIGF (R110). Sets a signal flag of a core in the same cluster. -/
  | sigf (sl : Slot) (p : Nat) (k : Nat) (f : Nat)
  /-- REQ (R111). Hands a DMA descriptor to the cluster DMA, consuming a credit and naming a request flag. -/
  | req (sl : Slot) (p : Nat) (v : Nat) (f : Nat)
  /-- CREDIT_RETURN (R111). A consuming WAITF returns its request credits at its issue cycle plus the hold lead. -/
  | creditReturn (core : Nat)
  /-- PARTITION_HOLD_START (R112). A raised hold reaches every core and router of the partition after the hold lead. -/
  | partitionHoldStart (p : Nat)
  /-- PARTITION_HOLD_END (R112). The partition resumes a hold lead after the last outstanding hold is released. -/
  | partitionHoldEnd (p : Nat)
  /-- STEP_BOUNDARY (R91). A step ends once the schedule is complete and every core has issued ENDSTEP. -/
  | stepBoundary (p : Nat)
  /-- BOUNDARY_LOADS_DONE (R115). The last queued boundary load is written and the next step may begin. -/
  | boundaryLoadsDone (p : Nat)
  /-- SCHEDULE_ENTRY_END (R126). The run of a schedule entry expires and the sequencer acts on its seq field. -/
  | scheduleEntryEnd (cl : Nat)
  /-- LANE_FLIT_ARRIVAL (R138). A lane-flit arrives on an input lane and is presented or enters the skid buffer. -/
  | laneFlitArrival (cl : Nat) (lane : Nat) (err : BitVec 256)
  /-- MESH_DELIVERY (R131). A delivery lane writes through a generator into memory or a feeder. -/
  | meshDelivery (cl : Nat) (d : Nat)
  /-- DESCRIPTOR_START (R173). The cluster DMA starts an accepted descriptor in order, up to 8 at once. -/
  | descriptorStart (cl : Nat) (ecc : Eccs)
  /-- DMA_COPY (R177). Moves rows between a device address and cluster memory. -/
  | dmaCopy (cl : Nat) (id : Nat) (ecc : Eccs)
  /-- TCOPY (R177). Reads rows from a device address and writes them transposed into cluster memory. -/
  | tcopy (cl : Nat) (id : Nat) (ecc : Eccs)
  /-- DECODE (R178). Decodes storage-only blocks into arithmetic operands in cluster memory. -/
  | decode (cl : Nat) (id : Nat) (ecc : Eccs)
  /-- GATHER (R187). Moves pages named by a page-index table into cluster memory. -/
  | gather (cl : Nat) (id : Nat) (ecc : Eccs)
  /-- SCATTER (R187). Moves cluster memory out to pages named by a page-index table. -/
  | scatter (cl : Nat) (id : Nat) (ecc : Eccs)
  /-- CBLOAD (R182). Barrier that copies a codebook set into a slot of the inactive half. -/
  | cbload (cl : Nat) (id : Nat) (ecc : Eccs)
  /-- CBSWAP (R182). Barrier that exchanges the roles of the codebook halves. -/
  | cbswap (cl : Nat) (id : Nat)
  /-- COMMIT (R189). Barrier that moves accepted tree pages into the table and returns rejected pages to the free ring. -/
  | commit (cl : Nat) (id : Nat)
  /-- REQUEST_COMPLETE (R110). A request completes, decrementing its flag's count and setting the flag at zero. -/
  | requestComplete (cl : Nat) (id : Nat)
  /-- READ (R199). Service read request served by the unit that owns the address. -/
  | read (rq : Req) (ecc : Eccs)
  /-- WRITE (R202). Service write of whole data flits. -/
  | write (rq : Req) (fl : Flits) (ecc : Eccs)
  /-- WRITE_MASKED (R202). Service write of one flit under a byte mask. -/
  | writeMasked (rq : Req) (fl : Flits) (ecc : Eccs)
  /-- ZERO_LINE (R208). Fills a line with zeros without fetching it. -/
  | zeroLine (rq : Req) (ecc : Eccs)
  /-- ATOMIC_ADD (R209). Atomic add at a shared-buffer slice. -/
  | atomicAdd (rq : Req) (fl : Flits) (ecc : Eccs)
  /-- ATOMIC_MIN (R209). Atomic minimum. -/
  | atomicMin (rq : Req) (fl : Flits) (ecc : Eccs)
  /-- ATOMIC_MAX (R209). Atomic maximum. -/
  | atomicMax (rq : Req) (fl : Flits) (ecc : Eccs)
  /-- ATOMIC_SWAP (R209). Atomic swap. -/
  | atomicSwap (rq : Req) (fl : Flits) (ecc : Eccs)
  /-- ATOMIC_CAS (R209). Atomic compare and swap. -/
  | atomicCas (rq : Req) (fl : Flits) (ecc : Eccs)
  /-- LINEADD (R209). Adds a whole line of data element-wise to a line. -/
  | lineadd (rq : Req) (fl : Flits) (ecc : Eccs)
  /-- SB_PREFETCH (R204). A READ with bit 8 set requests a line into the side buffer. -/
  | sbPrefetch (rq : Req)
  /-- READ_DATA (R201). Response packet carrying read bytes to the requester. -/
  | readData (src : Nat) (dst : Nat) (tag : Nat) (off : Nat) (n : Nat) (last : Bool) (fl : Flits)
  /-- WRITE_ACK (R202). Response acknowledging a write. -/
  | writeAck (dst : Nat) (tag : Nat)
  /-- ATOMIC_RESULT (R209). Response carrying the value before an atomic. -/
  | atomicResult (dst : Nat) (tag : Nat) (imm : BitVec 64)
  /-- ERROR_RESPONSE (R110). An ERROR response completes a request in error. -/
  | errorResponse (dst : Nat) (tag : Nat) (addr : Nat) (code : Nat)
  /-- CONTROL (R144). A control packet enters an endpoint's control queue. -/
  | control (src : Nat) (dst : Nat) (imm : BitVec 64)
  /-- MISS_SECTOR_ARRIVAL (R201). A sector of a missed line arrives and is sent on, the line being filled once whole. -/
  | missSectorArrival (sl : Nat) (line : Nat) (pasid : Nat) (sector : Nat) (ecc : Eccs)
  /-- WRITEBACK_ACCEPTED (R203). A dirty victim leaves once its writeback has been accepted. -/
  | writebackAccepted (sl : Nat) (line : Nat) (pasid : Nat) (ecc : Eccs)
  /-- SIDE_BUFFER_EXPIRY (R205). A side-buffer line unused for pfage microseconds is dropped. -/
  | sideBufferExpiry (sl : Nat) (line : Nat) (pasid : Nat)
  /-- NEAR_REFRESH (R172). A near-tier refresh operation falls due. -/
  | nearRefresh (e : Nat) (c : Nat) (bank : Nat) (busy : Bool)
  /-- NEAR_SCRUB (R172). A near-tier scrub read falls due. -/
  | nearScrub (e : Nat) (c : Nat) (busy : Bool) (ecc : Ecc)
  /-- NEAR_CALIBRATION (R172). All near-tier channels calibrate together. -/
  | nearCalibration (on : Bool)
  /-- FAR_REFRESH (R172). A far-tier refresh falls due. -/
  | farRefresh (pc : Nat) (busy : Bool)
  /-- FAR_SCRUB (R172). A far-tier scrub read falls due. -/
  | farScrub (pc : Nat) (busy : Bool) (ecc : Ecc)
  /-- FAR_CALIBRATION (R172). All far-tier channels calibrate together. -/
  | farCalibration (on : Bool)
  /-- SLICE_SCRUB (R221). A shared-buffer slice scrubs its next line. -/
  | sliceScrub (sl : Nat) (busy : Bool) (ecc : Ecc)
  /-- DEFERRAL_BUDGET_EXPIRY (R171). A background operation that has waited its whole budget goes ahead of foreground requests. -/
  | deferralBudgetExpiry (unit : Nat) (bank : Nat) (scrub : Bool) (ecc : Ecc)
  /-- INHIBIT_TIMEOUT (R159). A write waiting in an inhibited queue for winh is discarded with later writes and entered as poisoned. -/
  | inhibitTimeout (e : Nat) (c : Nat) (seq : Nat)
  /-- DEFERRED_DISCARD (R159). A deferred discard takes place once the poisoned-line table has room. -/
  | deferredDiscard (e : Nat) (c : Nat)
  /-- HOUSEKEEPING_ROUND (R170). The 10 ms round reads stack temperatures and board sensors and sets throttle levels. -/
  | housekeepingRound (temps : List (Option Nat)) (inlet : Option Int)
  /-- REGULATOR_WINDOW_END (R230). At a window's end each regulator checks guarantees and writes miss records. -/
  | regulatorWindowEnd
  /-- RING_READ (R146). Maintenance-ring read request taken by the owning station. -/
  | ringRead (tag : Nat) (off : Nat) (crc : BitVec 16)
  /-- RING_WRITE (R146). Maintenance-ring write request. -/
  | ringWrite (tag : Nat) (off : Nat) (data : BitVec 32) (crc : BitVec 16)
  /-- RING_READ_RESPONSE (R146). Maintenance-ring read response. -/
  | ringReadResponse (tag : Nat) (data : BitVec 32) (crc : BitVec 16)
  /-- RING_WRITE_ACKNOWLEDGE (R146). Maintenance-ring write acknowledge. -/
  | ringWriteAcknowledge (tag : Nat) (crc : BitVec 16)
  /-- RING_ALERT (R146). A station's alert message, removed by the master. -/
  | ringAlert (station : Nat) (cause : Nat) (crc : BitVec 16)
  /-- RING_BROADCAST_WRITE (R146). A write taken by every station that owns the offset. -/
  | ringBroadcastWrite (tag : Nat) (off : Nat) (data : BitVec 32) (crc : BitVec 16)
  /-- RING_ERROR (R146). Error message from a station. -/
  | ringError (tag : Nat) (station : Nat) (crc : BitVec 16)
  /-- RING_REQUEST_RETRY (R147). A request without a good response within two circuits is repeated, and after three attempts the ring fault is recorded. -/
  | ringRequestRetry (tag : Nat)
  /-- BAR4_READ (R234). Host read through the movable BAR4 window. -/
  | bar4Read (id : Nat) (off : Nat) (n : Nat) (ecc : Eccs)
  /-- BAR4_WRITE (R234). Host write through the BAR4 window. -/
  | bar4Write (id : Nat) (off : Nat) (bytes : List (BitVec 8)) (psn : Bool) (ecc : Eccs)
  /-- ATS_INVALIDATION (R258). Drops translations, waits for their users and cleans lines before completing. -/
  | atsInvalidation (id : Nat) (pasid : Nat) (va : Nat) (lg : Nat)
  /-- PRG_RESPONSE (R256). A page request group response lets translation retry or fail. -/
  | prgResponse (idx : Nat) (ok : Bool)
  /-- PRI_TIMEOUT (R256). No PRG response within CMD_PRITO ends the command TRANSLATION_FAULT. -/
  | priTimeout (idx : Nat)
  /-- FLR (R254). Function-level reset aborts the function's started entries and discards their replies. -/
  | flr (fn : Nat)
  /-- ABORT_MARKER (R289). A received abort marker aborts the named partition. -/
  | abortMarker (p : Nat)
  /-- DETOUR (R290). After collecting abort acknowledgements the master detours or ends the RUN_STEPS. -/
  | detour (p : Nat) (order : Bool) (entry : Option Nat) (elems : List DetourElem)
  /-- PORT_RETRAIN (R292). A failed port retrains every 100 ms. -/
  | portRetrain (p : Nat)
  /-- READY_MARKER (R274). A READY marker reaches the master or is forwarded towards it. -/
  | readyMarker (p : Nat) (k : Nat) (pos : Nat)
  /-- GO_MARKER (R274). A GO marker sets the start time of the next cascade step. -/
  | goMarker (p : Nat) (k : Nat) (t : Nat)
  /-- CASCADE_STEP_START (R274). A device starts the step when its DEVTIME reaches T. -/
  | cascadeStepStart (p : Nat)
  /-- DEVTIME_BROADCAST (R275). The master sends its DEVTIME every 1 ms. -/
  | devtimeBroadcast
  /-- DEVTIME_MESSAGE (R275). A member compares the master's DEVTIME and slews or records drift. -/
  | devtimeMessage (t : Nat)
  /-- LINK_WAIT_HOLD (R280). Missing cross-device lane-flits raise a link-wait hold. -/
  | linkWaitHold (b : Nat) (j : Nat)
  /-- LINK_WAIT_TIMEOUT (R280). A 10 ms link-wait ends the cascade RUN_STEPS with TIMEOUT. -/
  | linkWaitTimeout (b : Nat) (j : Nat)
  /-- LINK_PAUSE (R281). A pause from the receiver raises a link-pause hold on the sender. -/
  | linkPause (b : Nat) (j : Nat)
  /-- LINK_RESUME (R281). A resume from the receiver ends the link-pause hold. -/
  | linkResume (b : Nat) (j : Nat)
  /-- SERVICE_REQUEST_TIMEOUT (R265). A request dropped on a link receives ERROR TIMEOUT after 10 us. -/
  | serviceRequestTimeout (src : Nat) (tag : Nat)
  /-- SELF_RESTART (R385). A provisioned member activates its new images and performs a device reset. -/
  | selfRestart
  /-- MAILBOX_RETRY (R288). A member retries its transfer 32 bit times after the winner's stop. -/
  | mailboxRetry
  /-- POWER_CAP_CHECK (R352). Every 100 us firmware compares package input with the cap and lowers or restores clocks. -/
  | powerCapCheck
  /-- FLOOR_REACHED (R353). The floor reaches load plus prediction and the start, resume or clock rise proceeds. -/
  | floorReached (p : Nat)
  /-- DOMAIN_WAKE (R348). A demand on an idle or off domain wakes it. -/
  | domainWake (d : Nat)
  /-- DOMAIN_WAKE_COMPLETE (R348). A woken domain serves its waiting demand. -/
  | domainWakeComplete (d : Nat)
  /-- DOMAIN_AUTO_IDLE (R347). A domain with auto set enters IDLE after idle us without demand. -/
  | domainAutoIdle (d : Nat)
  /-- TRACE_FLUSH (R364). A cluster writes buffered trace records to its scratch ring at 512 records. -/
  | traceFlush (cl : Nat)
  /-- PATH_MONITOR_SAMPLE (R342). Once a second each domain's monitors measure slack. -/
  | pathMonitorSample (slacks : List Nat)
  /-- CAVE_REPLAN (R343). Daily or on demand the Cave recomputes each domain's guard band. -/
  | caveReplan (slacks : List Nat)
  /-- VERTICAL_PORT_RETRAIN (R340). A vertical port at its threshold retrains and drops to half width or fails. -/
  | verticalPortRetrain (cl : Nat) (spin : Nat) (spout : Nat) (width : Nat) (lanes : Nat)
  /-- FIELD_TEST_BLOCK (R327). A field-test block starts on a core once it fits after ENDSTEP. -/
  | fieldTestBlock (kind : Nat) (idx : Nat) (fail : Bool)
  /-- FIELD_TEST_TIMEOUT (R326). A test not finished in 1 s ends TIMEOUT. -/
  | fieldTestTimeout (kind : Nat) (idx : Nat)
  /-- CHECKPOINT_SEAL (R316). Every 4,096 entries Rind seals a signed checkpoint to flash. -/
  | checkpointSeal (k : Nat) (ok : Bool)
  /-- PFAIL_DECIDE (R360). Both PFAIL inputs or a long discrepancy make the device treat power as failing. -/
  | pfailDecide (a : Bool) (b : Bool)
  /-- RELAY_SEEN (R362). Another device's relay for 1,000 samples aborts cascade partitions. -/
  | relaySeen
  /-- REFCLK_LOSS (R397). REFCLK absent for 1 us is treated as power failing. -/
  | refclkLoss
  /-- STAGE_ADVANCE (R369). A start stage completes and the next begins, raising vector 70. -/
  | stageAdvance (rep : StageRep)
  /-- STEP_MARKER_INPUT (R402). A rising edge on the step-marker input releases a withheld GO. -/
  | stepMarkerInput
  /-- TELEMETRY_STREAM (R402). Every 10 ms the telemetry blocks are sent on the sideband pins. -/
  | telemetryStream
  /-- PHASE_CHANGE_COMPLETE (R403). The guard interval ends and the new sideband phase takes effect. -/
  | phaseChangeComplete
  /-- REGISTER_WRITE (R4). A write to a register field without behaviour of its own, by its access type. -/
  | registerWrite (fn : Nat) (off : Nat) (w : Nat) (v : BitVec 64)
  /-- MAINT_DONE (R216). Every slice in scope finishes its walk and busy clears. -/
  | maintDone
  /-- SCRATCH_CHANGE_DONE (R214). A change of locked ways completes and busy clears. -/
  | scratchChangeDone
  /-- SCRATCH_ZEROING_DONE (R215). A scratch block finishes zeroing and waiting requests proceed. -/
  | scratchZeroingDone (b : Nat)
  /-- DETOUR_REGISTER (R291). Writing valid to a detour entry simulates its images and records their digest. -/
  | detourRegister (e : Nat) (v : BitVec 256) (elems : List DetourElem)
  /-- PHASE_REQUEST (R382). A write of BSE_PHASE.req starts an allowed sideband phase change. -/
  | phaseRequest (req : Nat) (casc : Bool)
  /-- DOMAIN_STATE_REQUEST (R347). Writing PWR_DOMCTL.req moves a domain to an allowed state. -/
  | domainStateRequest (d : Nat) (st : Nat)
  /-- FRAME_TRANSMIT (R264). Every 16 ns frame period the port assembles and sends a frame of scheduled lane-flits, control flits and service packets. -/
  | frameTransmit (p : Nat)
  /-- FEEDER_PUSH (R73). A feeder starts its next stream descriptor, presents its reads and pushes one unpacked vector per core cycle into its queues. -/
  | feederPush (core : Nat) (arr : Nat)
  /-- ATS_TRANSLATION_COMPLETION (R255). The host's ATS translation completion arrives and installs a translation-cache entry. -/
  | atsTranslationCompletion (pasid : Nat) (va : Nat) (lg : Nat) (r : Bool) (w : Bool)
  /-- PCIE_LINK_UP (R371). The host port's PCIe link comes up and the hardware responder starts serving configuration space and BAR0. -/
  | pcieLinkUp
  /-- PFAIL_DISCREPANCY_END (R360). A PFAIL discrepancy shorter than 1,000 samples ends and is counted in PWR_PFSTAT.disc. -/
  | pfailDiscrepancyEnd
  /-- DOMAIN_ENTRY_COMPLETE (R348). A domain finishes entering IDLE or OFF, and any wake demand that waited is then started. -/
  | domainEntryComplete (d : Nat)
  /-- FAR_GRANT_CHANGE_DONE (R308). The CLEAN_INV of a far-tier block whose owner changed completes, busy clears and the new owner takes effect. -/
  | farGrantChangeDone (b : Nat)
  /-- DEVTIME_LOW_READ (R276). A 32-bit read of the low half of BSE_TIME latches the high half for the next 32-bit read. -/
  | devtimeLowRead
  /-- DOORBELL_SQ_TAIL (R236). A doorbell write of the submission tail adds entries to the ring. -/
  | doorbellSqTail (fn : Nat) (j : Nat) (v : Nat)
  /-- DOORBELL_CQ_HEAD (R236). A doorbell write of the reply head releases replies. -/
  | doorbellCqHead (fn : Nat) (j : Nat) (v : Nat)
  /-- BAR4_TIMEOUT (R261). A BAR4 access unanswered in 20 us completes poisoned or is discarded, with a TIMEOUT record. -/
  | bar4Timeout (id : Nat)
  /-- CONFIG_ACCESS (R261). Configuration read or write served by the hardware responder. -/
  | configAccess (fn : Nat) (off : Nat) (rq : HostReq) (v : BitVec 32)
  /-- KEY_EXCHANGE (R298). SPDM key exchange opens a secured session with Rind. -/
  | keyExchange (x : KeyEx)
  /-- END_SESSION (R301). Ends a secured session, ending the owner it carries. -/
  | endSession (sid : Nat)
  /-- HEARTBEAT_LOSS (R298). A session missing three heartbeats is ended. -/
  | heartbeatLoss (sid : Nat)
  /-- PQ_QUOTE (R299). Returns ML-DSA certificates and a signed quote of measurements. -/
  | pqQuote (sid : Nat)
  /-- SET_POLICY (R304). The owner sets the debug and trace permissions of its partition. -/
  | setPolicy (sid : Nat) (p : Nat) (dbg : Bool) (trc : Bool)
  /-- IDE_KM (R300). Programs IDE keys inside a secured session. -/
  | ideKm (sid : Nat) (stream : Nat)
  /-- LOCK_INTERFACE_REQUEST (R301). Locks a VF's TDI, clearing keys, clusters and scratch of its partition. -/
  | lockInterfaceRequest (sid : Nat) (n : Nat)
  /-- START_INTERFACE_REQUEST (R301). Moves a locked TDI to RUN. -/
  | startInterfaceRequest (sid : Nat) (n : Nat)
  /-- STOP_INTERFACE_REQUEST (R301). Unlocks a TDI and ends its owner. -/
  | stopInterfaceRequest (sid : Nat) (n : Nat)
  /-- PORT_TRAINING (R268). A link port trains through lanes, frames, identity, authentication, latency and DEVTIME. -/
  | portTraining (p : Nat) (t : Train)
  /-- ERROR_RATE_GATE (R377). A trained port passes or fails its test-frame window before carrying traffic. -/
  | errorRateGate (p : Nat) (pass : Bool)
  /-- FRAME_RECEIVE (R264). A link frame is decoded and its lane-flits, packets and control delivered. -/
  | frameReceive (p : Nat) (x : Frame)
  /-- SIGNAL_LOSS (R267). Loss of signal or lock for 1 us takes the port down. -/
  | signalLoss (p : Nat)
  /-- FIRMWARE_TRANSFER (R385). A provisioning member authenticates a received image and writes it to flash. -/
  | firmwareTransfer (p : Nat) (img : Image) (last : Bool)
  /-- MAILBOX_TRANSFER (R287). A sideband mailbox transfer is received and acknowledged. -/
  | mailboxTransfer (src : MbxFrom) (dst : Nat) (bytes : List (BitVec 8)) (crc : BitVec 16) (ok : Bool)
  /-- THERMAL_MODEL_TICK (R354). Every 10 us the thermal model advances its node estimates. -/
  | thermalModelTick (net : List Int)
  /-- SENSOR_SAMPLE (R355). A node sensor is sampled and the node offset corrected. -/
  | sensorSample (n : Nat) (t : Int) (ok : Bool)
  /-- POWER_MEASURE (R353). Regulators measure domain power each 10 us and flag a step overrun. -/
  | powerMeasure (doms : List Nat) (losses : Nat) (parts : List Nat)
  /-- POWER_ON (R367). Power-on reset of every domain. -/
  | powerOn
  /-- PERST_N_ASSERT (R368). Device reset after an orderly 500 us seal of logs. -/
  | perstNAssert (orderly : Bool)
  /-- PERST_N_RELEASE (R369). Samples straps and begins the start sequence. -/
  | perstNRelease (pos : Nat) (master : Bool) (fast : Bool) (saved : Bool)
  /-- STAGE_TIMEOUT (R370). A stage passing its limit ends the start FAILED. -/
  | stageTimeout
  /-- CLU_CFG_COMMIT (R5). A commit write locks part and en until the next cluster reset. -/
  | cluCfgCommit (cl : Nat) (v : BitVec 32)
  /-- QUEUE_ENABLE (R239). Setting CMD_SQCFG.en restarts sequence numbers, ring indices and phase. -/
  | queueEnable (fn : Nat) (j : Nat) (v : BitVec 64)
  /-- QUEUE_DISABLE (R254). Clearing CMD_SQCFG.en aborts started entries and writes their replies. -/
  | queueDisable (fn : Nat) (j : Nat)
  /-- QUEUE_RELEASE (R250). Writing 1 to CMD_SQSTAT.halt refetches from nextseq. -/
  | queueRelease (fn : Nat) (j : Nat)
  /-- BAR4_WINDOW_WRITE (R234). A write to CMD_BAR4 moves the window for later requests. -/
  | bar4WindowWrite (v : BitVec 64)
  /-- MAINT_INVALIDATE (R216). Slices invalidate lines in scope without writeback. -/
  | maintInvalidate (v : BitVec 32)
  /-- MAINT_FLUSH (R216). Slices write back dirty lines in scope. -/
  | maintFlush (v : BitVec 32)
  /-- MAINT_CLEAN_INV (R216). Slices write back and then invalidate lines in scope. -/
  | maintCleanInv (v : BitVec 32)
  /-- MAINT_PURGE_KEY (R216). Slices invalidate the lines of a key slot. -/
  | maintPurgeKey (v : BitVec 32)
  /-- SCRATCH_WAYS_WRITE (R212). A write of SBF_SCR.ways locks or releases scratch ways. -/
  | scratchWaysWrite (w : Nat)
  /-- SCRATCH_GRANT_WRITE (R215). A change of a scratch block's owner zeroes the block. -/
  | scratchGrantWrite (b : Nat) (v : Nat)
  /-- FAR_GRANT_WRITE (R308). A change of a far-tier block's owner runs CLEAN_INV before taking effect. -/
  | farGrantWrite (b : Nat) (v : Nat)
  /-- SLICE_ENABLE_WRITE (R218). A write of SBF_CTL.en re-enables caching only when the slice is clean. -/
  | sliceEnableWrite (sl : Nat) (v : Nat)
  /-- WAY_DISABLE_WRITE (R220). A write of 1 to a mask bit disables an unlocked way. -/
  | wayDisableWrite (sl : Nat) (w : Nat)
  /-- WAY_ENABLE_WRITE (R220). A write of 0 to a mask bit re-enables an invalidated way. -/
  | wayEnableWrite (sl : Nat) (w : Nat)
  /-- QOS_CLASS_WRITE (R224). A write of a class entry applies, with guar refused beyond the limit. -/
  | qosClassWrite (p : Nat) (c : Nat) (v : BitVec 32)
  /-- QOS_WIN_WRITE (R226). A new window length takes effect at a window boundary. -/
  | qosWinWrite (us : Nat)
  /-- MISS_QUEUE_HEAD_WRITE (R230). Software releases miss records by writing QOS_MISSSTAT.head. -/
  | missQueueHeadWrite (v : Nat)
  /-- ERROR_QUEUE_HEAD_WRITE (R332). Software releases error records by writing ERR_STAT.head. -/
  | errorQueueHeadWrite (v : Nat)
  /-- QUARANTINE_REQUEST (R325). Writing quar = 1 stops the partition's RUN_STEPS and blocks new ones. -/
  | quarantineRequest (p : Nat)
  /-- QUARANTINE_CLEAR (R325). Writing quar = 0 lifts the quarantine. -/
  | quarantineClear (p : Nat)
  /-- CLOCK_REQUEST_WITHDRAW (R337). Writing 1 to clkreq withdraws the clock reduction. -/
  | clockRequestWithdraw (p : Nat)
  /-- TEST_SWEEP_ENABLE (R329). Setting ERR_FTEST.en starts the firmware field-test sweep. -/
  | testSweepEnable
  /-- DEBUG_HALT (R118). Writing halt raises a debug hold. -/
  | debugHalt (c : Nat)
  /-- DEBUG_RESUME (R118). Writing resume releases the core's debug hold. -/
  | debugResume (c : Nat)
  /-- DEBUG_STEP (R118). Writing step runs the debug-held partition one cycle. -/
  | debugStep (c : Nat)
  /-- DEBUG_DATA_WRITE (R119). Writes the register selected by CORE_DBGSEL while stopped or debug-held. -/
  | debugDataWrite (c : Nat) (v : BitVec 64)
  /-- SRSTATE_WRITE (R49). Writes the stochastic rounding generator state, zero storing one. -/
  | srstateWrite (c : Nat) (v : BitVec 32)
  /-- CAVE_REPLAN_REQUEST (R343). Writing MRG_STAT.replan starts a re-plan. -/
  | caveReplanRequest
  /-- MAILBOX_SEND (R287). Writing LNK_MBX.go sends the send buffer over the mailbox. -/
  | mailboxSend
  /-- TRANSIT_CONFIG_WRITE (R283). Writes link transit and Press configuration while the owner is stopped. -/
  | transitConfigWrite (p : Nat) (v : BitVec 32)
  /-- RECOVERY_INSTALL (R386). Writing BSE_RECOV.go authenticates and installs a recovery image. -/
  | recoveryInstall (v : BitVec 32) (imgs : List Image)
  /-- AUDIT_READ_POINTER_WRITE (R315). Writing AUD_RD frees ring slots and can end gap mode. -/
  | auditReadPointerWrite (v : BitVec 64)
  /-- CHECKPOINT_SELECT (R316). Writing AUD_STAT.cksel brings a sealed checkpoint into the read window. -/
  | checkpointSelect (k : Nat)
  /-- HEARTBEAT (R298). An SPDM HEARTBEAT arrives in a secured session and restarts that session's heartbeat count. -/
  | heartbeat (sid : Nat)
  /-- GET_MEASUREMENTS (R297). Rind answers an SPDM measurement request with signed measurement blocks. -/
  | getMeasurements (sid : Nat) (rq : SpdmReq)
deriving DecidableEq, Repr

end Sys2Proof
end

