-- ==== Sys2Proof/Decode.lean ====
section
/-! DEFINITION. The opcode table gives its rows no bits: the block has no instruction encoding of a processor's kind, and
a word spells no command. (The encodings the manual does give, of bundles, schedule entries and command packets, are data
of the commands and are decoded in Machine/Program.lean, Machine/Mesh.lean and Machine/Commands.lean.) -/
namespace Sys2Proof

/-- The command a word of the table's bits spells: none, since no row has bits. -/
def decodeTableWord (_nbits _w : Nat) : Option Instr := none

end Sys2Proof
end

