-- ==== Sys2Proof/Machine/Hash.lean ====
section
/-! DEFINITION. The digests the manual names: SHA-384 (R297, R309, R316), CRC-64/XZ (R323) and CRC-16/CCITT (R147, R287),
computed on numbers of 64 bits. -/
namespace Sys2Proof.Machine

/-! SHA-384 draws its constants from the fractional parts of roots of primes (FIPS 180-4); they are computed here. -/

/-- The whole part of the k-th root of x, bit by bit from bit n - 1 down; r holds the bits found. -/
def rootBits (k x : Nat) : Nat → Nat → Nat
  | 0, r => r
  | n + 1, r => rootBits k x n (if (r + 2 ^ n) ^ k ≤ x then r + 2 ^ n else r)

/-- The first 64 bits behind the point of the k-th root of a number below 512. -/
def rootFraction (k p : Nat) : Nat := rootBits k (p * 2 ^ (64 * k)) 69 0 % 2 ^ 64

/-- The 80 primes up to 409. -/
def shaPrimes : List Nat :=
  (List.range 410).filter fun n => decide (2 ≤ n) && [2, 3, 5, 7, 11, 13, 17, 19].all fun d => decide (n = d ∨ n % d ≠ 0)

/-- Constants of the 80 rounds: cube roots of the primes. -/
def shaK : List Nat := shaPrimes.map (rootFraction 3)

/-- Initial hash value of SHA-384: square roots of the ninth to the sixteenth prime. -/
def shaInit : List Nat := ((shaPrimes.drop 8).take 8).map (rootFraction 2)

def w64 (x : Nat) : Nat := x % 2 ^ 64
/-- Rotation right of a 64-bit number. -/
def ror64 (x n : Nat) : Nat := Nat.lor (x >>> n) (w64 (x <<< (64 - n)))
def sha3x (x a b c : Nat) : Nat := Nat.xor (Nat.xor (ror64 x a) (ror64 x b)) (ror64 x c)
def sha2x (x a b c : Nat) : Nat := Nat.xor (Nat.xor (ror64 x a) (ror64 x b)) (x >>> c)

/-- Message schedule, newest word first: n words are appended to the 16 of a block. -/
def shaSched : Nat → List Nat → List Nat
  | 0, ws => ws
  | n + 1, ws =>
    let g (i : Nat) : Nat := (ws[i]?).getD 0
    shaSched n (w64 (sha2x (g 1) 19 61 6 + g 6 + sha2x (g 14) 1 8 7 + g 15) :: ws)

/-- The rounds of a block over its schedule. -/
def shaRounds : List (Nat × Nat) → List Nat → List Nat
  | [], h => h
  | (k, w) :: r, [a, b, c, d, e, f, g, h] =>
    let ch := Nat.xor (Nat.land e f) (Nat.land (2 ^ 64 - 1 - e) g)
    let t1 := h + sha3x e 14 18 41 + ch + k + w
    let maj := Nat.xor (Nat.xor (Nat.land a b) (Nat.land a c)) (Nat.land b c)
    let t2 := sha3x a 28 34 39 + maj
    shaRounds r [w64 (t1 + t2), a, b, c, w64 (d + t1), e, f, g]
  | _ :: _, h => h

/-- Big-endian number of bytes. -/
def beOf (bs : List Byte) : Nat := bs.foldl (fun n b => 256 * n + b.toNat) 0

/-- 64-bit big-endian words, newest first. -/
def shaWords : Nat → List Byte → List Nat → List Nat
  | 0, _, acc => acc
  | n + 1, bs, acc => shaWords n (bs.drop 8) (beOf (bs.take 8) :: acc)

/-- Blocks of 128 bytes, one after another. -/
def shaBlocks : Nat → List Byte → List Nat → List Nat
  | 0, _, h => h
  | n + 1, bs, h =>
    let ws := (shaSched 64 (shaWords 16 (bs.take 128) [])).reverse
    let h' := shaRounds (shaK.zip ws) h
    shaBlocks n (bs.drop 128) ((h.zip h').map fun e => w64 (e.1 + e.2))

/-- A number as n big-endian bytes. -/
def beBytes : Nat → Nat → List Byte
  | 0, _ => []
  | n + 1, x => beBytes n (x / 256) ++ [BitVec.ofNat 8 x]

/-- SHA-384 of a list of bytes, its first byte most significant. -/
def sha384 (bs : List Byte) : BitVec 384 :=
  let n := bs.length
  let pad := (128 - (n + 17) % 128) % 128
  let msg := bs ++ (0x80 : Byte) :: (List.replicate pad 0 ++ beBytes 16 (8 * n))
  let h := shaBlocks (msg.length / 128) msg shaInit
  BitVec.ofNat 384 ((h.take 6).foldl (fun x w => 2 ^ 64 * x + w) 0)

/-- The 48 bytes of a digest, first byte first. -/
def digestBytes (d : BitVec 384) : List Byte := beBytes 48 d.toNat

/-! Cyclic redundancy checks. -/

/-- One byte into a reflected CRC of any width: poly is the reflected polynomial. -/
def crcRefl (poly : Nat) : Nat → Nat → Nat
  | 0, x => x
  | n + 1, x => crcRefl poly n (if x % 2 = 1 then Nat.xor (x / 2) poly else x / 2)

/-- CRC-64/XZ: polynomial 0x42F0E1EBA9EA3693 reflected, initial value and final XOR all ones (R323). -/
def crc64 (bs : List Byte) : Nat :=
  Nat.xor (2 ^ 64 - 1)
    (bs.foldl (fun c b => crcRefl 0xC96C5795D7870F42 8 (Nat.xor c b.toNat)) (2 ^ 64 - 1))

/-- n steps of CRC-16 with the most significant bit first. -/
def crcFwd : Nat → Nat → Nat
  | 0, x => x
  | n + 1, x => crcFwd n (if x / 2 ^ 15 % 2 = 1 then Nat.xor (2 * x % 2 ^ 16) 0x1021 else 2 * x % 2 ^ 16)

/-- CRC-16/CCITT: polynomial 0x1021, initial value 0xFFFF, most significant bit first (R147). -/
def crc16 (bs : List Byte) : Nat :=
  bs.foldl (fun c b => crcFwd 8 (Nat.xor c (b.toNat * 256))) 0xFFFF

/-- R147 over bits, most significant first: one bit of CRC-16/CCITT. -/
def crc16Bit (c : Nat) (b : Bool) : Nat :=
  let d := 2 * c % 65536
  if (decide (c / 32768 % 2 = 1)) != b then Nat.xor d 0x1021 else d

/-- Bits of a field, most significant first. -/
def bitsBe : Nat → Nat → List Bool
  | 0, _ => []
  | n + 1, x => decide (x / 2 ^ n % 2 = 1) :: bitsBe n x

/-- R287: the check of a mailbox transfer, from its source field on. -/
def mailboxCrc (src dst : Nat) (bs : List Byte) : Nat :=
  (bitsBe 6 src ++ bitsBe 7 dst ++ bitsBe 6 (bs.length - 1) ++ bs.flatMap fun b => bitsBe 8 b.toNat).foldl crc16Bit 65535

end Sys2Proof.Machine
end

