-- ==== Sys2Proof/Config.lean ====
section
/-! DEFINITION. Values the manual leaves open. Each is a constant without a body: nothing can evaluate it, so a claim
that holds of the model holds whatever the value is. Most are applied to State.free, a plain counter the step reads and
advances, so that two open values are unrelated. -/
namespace Sys2Proof.Config

/-- An open value of w bits: the n-th one a run meets (log entry 3). -/
opaque freeBits : (w : Nat) → Nat → BitVec w

/-- What decryption under one key gives of what encryption under another gave (R307, AES-256-XTS; log entry 4). Operands: the
number of the reading and of the writing key, the line number that is the tweak, the data unit of 258 bytes. -/
opaque wrongKey : Nat → Nat → Nat → BitVec 2064 → BitVec 2064

/-- The unique device secret in the fuses of this part (R293, log entry 5). -/
opaque deviceSecret : BitVec 256

/-- The private key of an identity key pair, derived from the device secret, and of an alias key pair, derived from it and the
measurement of Rind's firmware; true for ML-DSA-87, false for ECDSA P-384 (R293, log entry 5). -/
opaque identityKey : Bool → BitVec 256 → BitVec 384
opaque aliasKey : Bool → BitVec 256 → BitVec 384 → BitVec 384

/-- The public key of a private key (log entry 6). -/
opaque publicKey : Bool → BitVec 384 → List (BitVec 8)

/-- The certificate of the device CA over an identity public key, held in flash, and what an identity key certifies over an alias
public key (R293, log entry 6). -/
opaque caCert : Bool → List (BitVec 8) → List (BitVec 8)
opaque aliasCert : Bool → BitVec 384 → List (BitVec 8) → List (BitVec 8)

/-- The ECDSA P-384 and the ML-DSA-87 signature of a text under a private key (log entry 6). -/
opaque ecdsaSign : BitVec 384 → List (BitVec 8) → BitVec 768
opaque mldsaSign : BitVec 384 → List (BitVec 8) → BitVec 37016

/-- Features disabled by the fuses of this part, which block 5 covers with the minimum SVNs (R297, log entry 32). -/
opaque disabledFeatures : BitVec 64

/-- The key of one direction of a link, derived by HKDF-SHA-384 from the secret agreed; the direction is that of the sender of a
position and a port (R310). The key of group g of a direction key, and the tag of a frame under it: nonce, header, slots (R311, log
entry 91). -/
opaque directionKey : BitVec 384 → Nat → Nat → BitVec 256
opaque groupKey : BitVec 256 → Nat → BitVec 256
opaque frameTag : BitVec 256 → BitVec 96 → BitVec 398 → List (BitVec 259) → BitVec 128

/-- The marker field and the control field of a frame header that carries a list of messages; the manual names the messages and prints no
layout (Table 10-2, log entry 90). -/
opaque markField : List (Nat × Mark) → BitVec 64
opaque controlField : List (Nat × LCtl) → BitVec 64

/-- The cascade key that mailbox messages are authenticated under, from the secret of a training (R311, log entry 91). -/
opaque cascadeKey : BitVec 384 → BitVec 384

/-- What the TDISP 1.0 standard has the device answer to a message that Table 11-4 does not list (R301, log entry 91): the message's
code and the TDI's state. -/
opaque tdispAnswer : Nat → Nat → List (BitVec 8)

/-- The digest of a measurement block whose contents the manual names but whose layout it does not give (blocks 5, 6 and
16 + p): the block number and the values it covers (log entry 32). -/
opaque blockDigest : Nat → List Nat → BitVec 384

/-- The published signature of a field test (R326): the manual does not give its value (log entry 33). -/
opaque testSignature : Nat → BitVec 64

/-- Words of PCIe configuration space by function and offset, and what a write of a value over a word leaves; the manual
takes both from the PCIe standard and prints neither (log entry 34). -/
opaque cfgWord : Nat → Nat → BitVec 32
/-- The configuration word at which a capability begins (log entry 34). -/
opaque capWord : Nat → Nat
opaque cfgWrite : Nat → Nat → BitVec 32 → BitVec 32 → BitVec 32

/-- The bytes of an element of a detour list in memory, and the element they spell; the manual gives its contents and no layout (R290,
log entry 64). -/
opaque detourBytes : Nat
opaque detourElem : List (BitVec 8) → DetourElem

/-- The one digest that a LNK_DETOUR entry records of the digests of its listed images (R291). -/
opaque detourDigest : List (BitVec 64) → BitVec 64

/-- The number, from 512, of the base-die ring station that owns a register offset (R145, log entry 39). -/
opaque ringStation : Nat → Nat

/-- The block of register offsets, its base and its size, of base-die ring station 512 + n (R145, R146, log entry 39). -/
opaque stationBlock : Nat → Nat × Nat

end Sys2Proof.Config
end

