-- ==== Sys2Proof/Machine/CoreState.lean ====
section
/-! DEFINITION. State of a core, a router and a partition (chapters "Cores, clusters and matrix arrays", "Stage
programs" and "The scheduled mesh, Press and the service networks"). Plain data. -/
namespace Sys2Proof.Machine

/-- A sparse map from indices to values, kept sorted by index; what an absent index holds is the reader's default. -/
abbrev Tab (α : Type) := List (Nat × α)

/-- What has met in the present cycle of a register's clock (R8, R9, R49): by register offset the bits that the hardware set and
those that software wrote; by 512 × offset + lowest bit the increments of a counter and whether it saturates; by core the
generator state before a write of CORE_SRSTATE. -/
structure Met where
  set : Tab Nat := []
  sw : Tab Nat := []
  inc : Tab (Nat × Bool) := []
  sr : Tab (BitVec 32) := []
deriving DecidableEq, Repr

/-- Status codes (Table 9-6). -/
inductive Status where
  | ok | aborted | abortTooLate | translationFault | accessViolation | checkMismatch | uncorrectable | linkDown
  | timeout | busy | invalid
deriving DecidableEq, Repr

/-- The numeric code of a status (R243). -/
def Status.code : Status → Nat
  | .ok => 0 | .aborted => 1 | .abortTooLate => 2 | .translationFault => 3 | .accessViolation => 4
  | .checkMismatch => 5 | .uncorrectable => 6 | .linkDown => 7 | .timeout => 8 | .busy => 9 | .invalid => 10

/-- A vector in a feeder's queues: 16 elements, one per row, the format of its descriptor, the E8M0 scale its first
row's entry carries for an MX format, and whether a source of it was poisoned (R71, R73, R85, R99). -/
structure FVec where
  fmt : Nat
  elems : List (BitVec 32)
  scale : Option (BitVec 8)
  poison : Bool
deriving DecidableEq, Repr

/-- Source of a stream or a stationary load (Table 4-3). -/
inductive FSrc where
  | cm | ls | v | mesh
deriving DecidableEq, Repr

/-- A stream descriptor (R99): left counts the words or deliveries not yet read, addr is the next word address, total the
vectors that the descriptor yields, vec those pushed. regs are the registers of a FEED.V not yet taken, as they stood at its issue
(R93). buf holds the bytes in the unpack register, each with the poison mark of its piece (R73); fly the words read and on their
way, with the cycle in which they can be pushed (R65, R67). ask is a read that was presented and not served: true for the scale
plane. scaleWord is the newest word of the scale plane with its address, held from cycle scaleDue on; start is the first cycle in
which the descriptor may read. -/
structure Stream where
  src : FSrc
  fmt : Nat
  addr : CAddr
  left : Nat
  sbase : CAddr
  total : Nat := 0
  vec : Nat := 0
  regs : List (Vec × Bool) := []
  buf : List (Byte × Bool) := []
  fly : List (Nat × List (Byte × Bool)) := []
  ask : Option Bool := none
  scaleWord : Option (Nat × Vec × Bool) := none
  scaleDue : Nat := 0
  start : Nat := 0
deriving DecidableEq, Repr

/-- An entry of an array's request queue (R102): left vectors with the swap marker still to issue, or PRE, DRAIN,
DISCARD. -/
inductive AReq where
  | vecs (left : Nat) (mark : Bool)
  | pre (v : Nat)
  | drain (v : Nat)
  | discard
deriving DecidableEq, Repr

/-- A stationary load from memory in progress (R100): the words read so far as one little-endian string, whether a piece of
them was poisoned, the first cycle in which it reads, whether the marker of its pass has issued already (R76), and how
often its scale read was refused. -/
structure LoadReq where
  src : FSrc
  addr : CAddr
  sbase : CAddr
  sf : Nat
  tf : Nat
  start : Nat := 0
  got : Nat := 0
  data : Nat := 0
  poison : Bool := false
  act : Bool := false
  slip : Nat := 0
deriving DecidableEq, Repr

/-- A stationary set: 16 rows of 16 elements, the 16 column scales, the operand pair and a poison mark (R74, R75). -/
structure SSet where
  rows : List (List (BitVec 32))
  scales : List (BitVec 8)
  sf : Nat
  tf : Nat
  poison : Bool
deriving DecidableEq, Repr

/-- A vector that has issued while words of its stationary set are still to be read: the vector, whether it starts a new
accumulation, and the register captured for preload mode (R78). -/
structure Flight where
  vec : FVec
  new : Bool
  pre : Option (Vec × Bool)
deriving DecidableEq, Repr

/-- An accumulation under way or ended: the 16 accumulators, whether they hold INT32, the predicted residues and the
columns whose comparison is skipped (R83), the held flags nv and of (R79), a poison mark, whether it has received a
vector, and its vectors that wait for rows of their set. -/
structure Accum where
  vals : List (BitVec 32)
  int : Bool
  rho : List Nat
  skip : List Bool
  fl : BitVec 5
  poison : Bool
  any : Bool
  pipe : List Flight := []
deriving DecidableEq, Repr

def Accum.zero : Accum :=
  { vals := List.replicate 16 0, int := false, rho := List.replicate 16 0, skip := List.replicate 16 false,
    fl := 0, poison := false, any := false }

def SSet.zero : SSet :=
  { rows := List.replicate 16 (List.replicate 16 0), scales := List.replicate 16 127, sf := 0, tf := 0,
    poison := false }

/-- A drain that has been taken: its destination, the accumulation it reads, and the cycle D in which it fires (R79). -/
structure Drain where
  dst : Nat
  acc : Accum
  fire : Nat
deriving DecidableEq, Repr

/-- A matrix array with its feeder and loader (R67 to R85). Active registers reset to +0 and scales to 127 (R89).
inForce is the V of the pass in force, 0 when none since core reset; accOpen says that an accumulation is under way. Cycles are
non-held core cycles of the partition: loadL is L of the newest load (R100), loadEnd the cycle at whose end its last row or
scale is written, markEnd the first in which the next load may start (R77), nextIss the first in which the next vector may issue
(R68), fillAt the first in which the last vector issued is in every accumulator 0 (R79). portUsed and fedAt are one more than
the cycle in which the array's memory read, or its feeder, last worked (R73, R100). -/
structure Arr where
  fq : List FVec := []
  streams : List Stream := []
  reqs : List AReq := []
  load : Option LoadReq := none
  shadow : Option SSet := none
  active : SSet := SSet.zero
  inForce : Nat := 0
  loadL : Nat := 0
  loadEnd : Nat := 0
  markEnd : Nat := 0
  nextIss : Nat := 0
  fillAt : Nat := 0
  portUsed : Nat := 0
  fedAt : Nat := 0
  accOpen : Bool := false
  preload : Option Nat := none
  acc : Accum := Accum.zero
  draining : List Drain := []
deriving DecidableEq, Repr

/-- An open loop level of a core (R97). -/
structure Loop where
  start : Nat
  last : Nat
  count : Nat
deriving DecidableEq, Repr

/-- A WAITF that waits on a clear flag (R112), and the core cycle in which it issued. -/
structure Wait where
  flag : Nat
  keep : Bool
  born : Nat := 0
deriving DecidableEq, Repr

/-- A result on its way (Table 4-7): it stands from the start of non-held cycle due. Scalar registers and vector registers with
their values, none where a field whose predicate is false only reserves its destination (R94); table entries with their tags,
exception flags, and the signal flag of a SIGF. -/
structure Late where
  due : Nat
  sregs : List (Nat × Option Word) := []
  vregs : List (Nat × Option (Vec × Bool)) := []
  table : List (Nat × BitVec 64 × Bool) := []
  fl : BitVec 5 := 0
  sig : List Nat := []
deriving DecidableEq, Repr

/-- The operations of the memory field that make a request (R107). -/
inductive MOp where
  | vld | vst | sld | sst
deriving DecidableEq, Repr

/-- A memory-field request: operation, register, core-local address, and what a store writes with its poison (R107). -/
structure MemReq where
  op : MOp
  reg : Nat
  addr : Nat
  data : Nat := 0
  poison : Bool := false
deriving DecidableEq, Repr

/-- One access of a bank in a cycle: bank, word, whether it is a read, and whether it has served more than one request. -/
structure BankUse where
  bank : Nat
  word : Nat
  read : Bool
  merged : Bool := false
deriving DecidableEq, Repr

/-- The accesses that the banks of a memory have served in one non-held cycle (R59, R67). -/
structure Banks where
  cyc : Nat := 0
  uses : List BankUse := []
deriving DecidableEq, Repr

/-- An entry of an injection channel (R107, R130): half is set once its low 32 bytes have been taken. -/
structure InjEntry where
  v : Vec
  poison : Bool
  half : Bool := false
deriving DecidableEq, Repr

/-- A program image waiting for a step boundary (R114). -/
structure QLoad where
  bundles : List (BitVec 128)
  entry : Nat
deriving DecidableEq, Repr

/-- A core (R58, R110, R111). Conversion state, counters and the other register fields of a core are in the register
file. Bytes of local scratch are listed as in the device memory, and scratchPsn marks 32-byte pieces. late holds the results on
their way, oldest first; returning the credits on their way back with the core cycle in which they are due (R111); nextAt is the first
non-held cycle in which the next bundle may issue (R96), mreq the memory request that has not been served (R107), stall says that
the core stalls on other than a register (R109), lostAt is one more than the cycle last counted in CORE_CMSTALL. -/
structure Core where
  sregs : Tab Word := []
  aregs : Tab CAddr := []
  vregs : Tab Vec := []
  vpsn : Tab Bool := []
  preds : BitVec 8 := 0
  pc : Nat := 0
  ended : Bool := false
  loops : List Loop := []
  flags : BitVec 32 := 0
  outst : Tab Nat := []
  named : Tab Nat := []
  credits : Nat := 16
  returning : List (Nat × Nat) := []
  waits : List Wait := []
  dbg : Bool := false
  faulted : Bool := false
  resetting : Bool := false
  stall : Bool := false
  late : List Late := []
  nextAt : Nat := 0
  mreq : Option MemReq := none
  lostAt : Nat := 0
  lsBanks : Banks := {}
  scratch : List Host.Cell := []
  scratchPsn : Tab Bool := []
  chans : Tab (List InjEntry) := []
  table : Tab (BitVec 64) := []
  tablePsn : Tab Bool := []
  store : Tab (BitVec 128) := []
  qload : Option QLoad := none
  arr0 : Arr := {}
  arr1 : Arr := {}
deriving DecidableEq, Repr

/-- Where the control field of the bundle being issued sends the core, and after how many cycles a branch does (R96, R97). -/
inductive CtlNext where
  | seq
  | goto (n lag : Nat)
  | skip (last : Nat)
deriving DecidableEq, Repr

/-- A bundle in the course of issue (R93): the core as it stood at the start of the cycle, from which every field reads
and to which a bundle that cannot issue goes back, with its generator. dead says that a field could not issue. evts are the trace events
of its control field, which are recorded when the bundle has issued. -/
structure Latch where
  snap : Core
  sr : BitVec 32
  dead : Bool := false
  ctl : CtlNext := .seq
  evts : List (Nat × Nat) := []
deriving DecidableEq, Repr

/-- A lane-flit (R121) or data flit: valid bit, poison bit, two line-check bits and 256 data bits. -/
structure Flit where
  valid : Bool := false
  poison : Bool := false
  chk : BitVec 2 := 0
  data : BitVec 256 := 0
deriving DecidableEq, Repr

/-- An input lane: lane-flits on its segment with the core cycles they still need, the skid buffer, and the lane-flit
that arrives in the next cycle, where the skid is empty (R122, R138). -/
structure Lane where
  seg : List (Nat × Flit) := []
  skid : List Flit := []
  pres : Option Flit := none
deriving DecidableEq, Repr

/-- A lane-flit in a delivery lane, with the cycles it still needs and its generator (R129, R131). idx is its index in the count of
its generator where the step that it belongs to is over. -/
structure Dlv where
  due : Nat
  gen : Nat
  idx : Option Nat := none
  flit : Flit
deriving DecidableEq, Repr

/-- A mesh router (R121, R124, R126, R130): schedule table, sequencer, lanes, Press pipelines and deliveries. -/
structure Router where
  sched : Tab (BitVec 512) := []
  has : Bool := false
  qsched : Option (List (BitVec 512) × List (BitVec 64)) := none
  slot : Nat := 0
  rem : Nat := 0
  loops : List (Nat × Nat) := []
  done : Bool := false
  gcount : Tab Nat := []
  flow : Tab (BitVec 256) := []
  flowPsn : Tab Bool := []
  lanes : Tab Lane := []
  press : List (Nat × Nat × Flit) := []
  dlv : Tab (List Dlv) := []
deriving DecidableEq, Repr

/-- A RUN_STEPS in progress (R246): the queue and sequence number of its entry, the steps asked for (0: until aborted)
and done, whether an abort waits for the boundary, whether a start or resume still waits for the floor
(R353), and the RELEASE that then completes. -/
structure Run where
  q : Nat
  seq : Nat
  steps : Nat
  ran : Nat := 0
  abort : Bool := false
  waitFloor : Bool := true
  rel : Option (Nat × Nat) := none
deriving DecidableEq, Repr

/-- A partition (R90, R91, R112, R128): its run, the status of a core fault that ends it once its hold has taken effect (R56, R120),
whether a step is in progress, hold. levels are the changes of the
partition's hold line that have not yet reached the cores and routers, oldest first, and leads the core cycles that each still
needs. single says that one held cycle is let through (R118), singleUsed that it has begun. prevLen is the
non-held length of the previous step where field-test blocks may use it (R327), kvq the KV_COMMIT entries that wait for the
boundary (R190), goAt the DEVTIME at which a cascade step starts (R274), linkWait the waiting lanes, as 4 × port + lane, with
the DEVTIME of their start and the number of lane-flits needed (R280), linkPause the paused ones, readyPos the positions whose
READY is held, ownReady that this device is one, goSeen the last GO, goWait that GO is withheld (R277), aborted that an
aborted step waits for a detour (R290), abortAt since when, acks the devices that have told of their abort, each with its failed ports
of the partition as a mask (R290), dbgTold that this member has told the master of a debug hold, farDbg the positions whose hold the
master knows (R277), farQuar that another device holds the partition in quarantine (R325), clkAt is the DEVTIME
of the last clock change (R350), rise says that the floor has been raised for a clock rise. rc counts the core cycles of its runs,
cyc those of them that were not held and are over: it is the number of the non-held cycle in progress, or of the next one. ran
says that one is in progress, ranStep that it belongs to a step. loadLeft counts the cycles that the loads of a boundary still
need (R115), bound says that they are a step boundary's, whose outcome follows them, dwell the ticks by which a clock change makes a boundary longer (R350). -/
structure Part where
  run : Option Run := none
  fault : Option Status := none
  inStep : Bool := false
  loading : Bool := false
  bound : Bool := false
  paused : Bool := false
  holdReqs : List (Nat × Nat) := []
  line : Bool := false
  held : Bool := false
  levels : List Bool := []
  leads : List Nat := []
  prevLen : Option Nat := none
  kvq : List (Nat × Nat) := []
  goAt : Option Nat := none
  clkAt : Nat := 0
  rise : Bool := false
  single : Bool := false
  singleUsed : Bool := false
  linkWait : List (Nat × Nat × Nat) := []
  linkPause : List Nat := []
  readyPos : List Nat := []
  ownReady : Bool := false
  goSeen : Option (Nat × Nat) := none
  goWait : Bool := false
  aborted : Bool := false
  abortAt : Nat := 0
  acks : Tab Nat := []
  dbgTold : Bool := false
  farDbg : List Nat := []
  farQuar : Bool := false
  rc : Nat := 0
  cyc : Nat := 0
  ran : Bool := false
  ranStep : Bool := false
  loadLeft : Nat := 0
  dwell : Nat := 0
  m : BitVec 32 := 0
  step : BitVec 64 := 0
  phase : Nat := 0
  errLim : Nat := 0
  capLim : Nat := 0
  thmLim : Nat := 0
deriving DecidableEq, Repr

/-- A cluster DMA descriptor (R173): the core and flag of its REQ, its 64 bytes, the core cycle of its acceptance, and, once it has done its work or failed
its checks, the status it completes with; how many of its pieces have moved, whether any was poisoned, and the first error
that did not stop it. Descriptors of LOAD_CODEBOOK and KV_COMMIT never enter the queue. -/
structure Desc where
  id : Nat
  core : Nat
  flag : Nat
  x : BitVec 512
  poison : Bool := false
  born : Nat := 0
  done : Option Status := none
  pos : Nat := 0
  sawPsn : Bool := false
  fail : Option Status := none
deriving DecidableEq, Repr

/-- A cluster's DMA and codebook store (R173, R176, R181): descriptors queued and in progress, oldest first; the store's
bytes, half h slot k at 65,536 h + 8,192 k, with the marks of its 8-byte words. -/
structure Dma where
  queue : List Desc := []
  active : List Desc := []
  nextId : Nat := 0
  half : Nat := 0
  store : List Host.Cell := []
  storePsn : Tab Bool := []
deriving DecidableEq, Repr

end Sys2Proof.Machine
end

