-- ==== Sys2Proof/Machine/HostState.lean ====
section
/-! DEFINITION. State of the command queues, the copy engines and the error logs (chapters "Host interface and command
packets" and "Errors, silent-data checks, margins and ageing"). Plain data. -/
namespace Sys2Proof.Machine

/-- What a reply will hold (Table 9-5). -/
structure Reply where
  status : Status
  detail : Nat
  result : Nat
  time : Nat
deriving DecidableEq, Repr

/-- A started entry of a queue that has not been reported (R238): its sequence number, its packet, whether it has passed
its completion point (R253) and the DEVTIME at which it did (Table 9-5), whether its opcode command has run, the entries a FENCE
waits for (R251), its reply, and the host pages, each with whether it is written, that its tile or range has translated (R256). -/
structure Entry where
  seq : Nat
  pkt : BitVec 512
  past : Bool := false
  pastAt : Nat := 0
  begun : Bool := false
  fence : List (Nat × Nat) := []
  reply : Option Reply := none
  pages : List (Nat × Bool) := []
deriving DecidableEq, Repr

/-- A queue (R235 to R240, R249). tail and head are the doorbell values in force, lastTail and lastHead the last values
written; written counts the replies of the queue's life; stop says that no further entry starts, failed which status made it so
where an entry did (R249). aborts holds sequence numbers to end ABORTED when reached (R253).
blocked: the next entry is fetched and is a fence that waits (R238); ringFault: a reply could not be written, and the replies are
held (R257). -/
structure Queue where
  tail : Nat := 0
  head : Nat := 0
  lastTail : Nat := 0
  lastHead : Nat := 0
  nextseq : Nat := 0
  written : Nat := 0
  entries : List Entry := []
  aborts : List Nat := []
  stop : Bool := false
  failed : Option Status := none
  cqfull : Bool := false
  disabling : Bool := false
  discard : Bool := false
  blocked : Bool := false
  ringFault : Bool := false
deriving DecidableEq, Repr

/-- Attributes of an entry that a cascade master sent here from one of its queues (R284): function, partition, PASID or
none, key slot. -/
structure Fwd where
  fn : Nat := 0
  part : Nat := 0
  pasid : Option Nat := none
  key : Nat := 0
deriving DecidableEq, Repr

/-- A copy engine at work (R247): its entry, the tiles completed, the pieces done of the tile under way, the bytes written, the first poisoned or refused
address, and what it waits for. crc holds a digest under way (R323). -/
structure Engine where
  q : Nat := 0
  seq : Nat := 0
  busy : Bool := false
  tile : Nat := 0
  pos : Nat := 0
  bytes : Nat := 0
  badAddr : Option Nat := none
  abort : Bool := false
  fail : Option (Status × Nat) := none
  waitPages : List Nat := []
  crc : BitVec 64 := 0
  out : Bool := false
  testing : Bool := false
deriving DecidableEq, Repr

/-- Kinds of error record (Table 12-4). -/
inductive ErrKind where
  | lineCheck | residue | corrected | uncorrectable | fieldTest | repair | link | fault | time | margin | ring
deriving DecidableEq, Repr

def ErrKind.code : ErrKind → Nat
  | .lineCheck => 1 | .residue => 2 | .corrected => 3 | .uncorrectable => 4 | .fieldTest => 5 | .repair => 6
  | .link => 7 | .fault => 8 | .time => 9 | .margin => 10 | .ring => 11

/-- An error record (Table 12-5). -/
structure ErrRec where
  seq : Nat := 0
  time : Nat := 0
  kind : ErrKind
  status : Status
  member : Option Nat := none
  part : Nat := 0xFF
  unit : Nat
  count : Nat := 0
  level : Nat := 0
  actions : Nat := 0
  addr : Nat := 0
  d1 : Nat := 0
  d2 : Nat := 0
deriving DecidableEq, Repr

/-- An entry of the field defect list (Table 14-7). -/
structure DefEntry where
  unit : Nat
  kind : Nat
  flags : Nat
  loc : Nat
  opsec : Nat
deriving DecidableEq, Repr

/-- Row history of a memory unit (R335): unit, row, DEVTIMEs of its last events and whether they were uncorrectable. -/
structure RowHist where
  unit : Nat
  row : Nat
  times : List Nat
deriving DecidableEq, Repr

/-- Error logging (R330 to R335, R379): the records queued at BAR0 0x0012_0000, the number written, unit and row event
times, the field defect list in flash, corrected counts of memory units, vertical ports due for a retrain,
and cores tested ahead of ERR_FTEST.core in this sweep (R329). -/
structure Errs where
  recs : List ErrRec := []
  written : Nat := 0
  times : Tab (List Nat) := []
  rows : List RowHist := []
  wayTimes : Tab (List Nat) := []
  defects : List DefEntry := []
  corrected : Tab Nat := []
  vpDue : List Nat := []
  ahead : List Nat := []
deriving DecidableEq, Repr

/-- A cluster's trace buffer (R363 to R365): records of 16 bytes not yet written to the ring, and the events lost since
the last LOST record. -/
structure TraceBuf where
  recs : List (BitVec 128) := []
  lost : Nat := 0
  gated : Bool := false
deriving DecidableEq, Repr

/-- A maintenance-ring request of the master not yet answered (R146, R147): tag, whether it writes, register offset, data,
attempts made, DEVTIME of the last one, and whether its response came back with a wrong check. -/
structure RingReq where
  tag : Nat
  write : Bool
  off : Nat
  data : Nat := 0
  tries : Nat := 1
  sent : Nat := 0
  bad : Bool := false
deriving DecidableEq, Repr

/-- The maintenance ring: requests outstanding, the last data and the last error's station by tag, and alerts with station
and cause. -/
structure Ring where
  reqs : List RingReq := []
  reads : Tab Nat := []
  errors : Tab Nat := []
  alerts : List (Nat × Nat) := []
deriving DecidableEq, Repr

/-- The saved-settings record in flash (R373, R374): MRG_STAT.opsec and the length of the defect list when it was
written. -/
structure Saved where
  opsec : Nat
  defects : Nat
deriving DecidableEq, Repr

/-- The start sequence (R295, R296, R368 to R374, R385): DEVTIME of the release of PERST_N or of the restart, the defect list's
length then, the saved-settings record, whether the last device reset was orderly, whether PERST_N is asserted, firmware images
written to the inactive flash copy and not yet activated, the positions that have reported READY, the phase that a guard interval
leads to with its end (R403), SVN and commit flag of the images that run by kind (0 Rind, 1 command processor, 2 microcode), and
by kind the fused minimum SVN with the fuse steps used; and the error records of the start, which the trace outputs send in
BRINGUP (R399). -/
structure Boot where
  start : Nat := 0
  defects : Nat := 0
  saved : Option Saved := none
  orderly : Bool := true
  perst : Bool := true
  images : Nat := 0
  ready : List Nat := []
  phaseTo : Nat := 0
  phaseAt : Nat := 0
  svns : Tab (Nat × Bool) := []
  svnMin : Tab (Nat × Nat) := []
  traceOut : List (BitVec 512) := []
deriving DecidableEq, Repr

end Sys2Proof.Machine
end

