-- ==== Sys2Proof/Machine/LinkState.lean ====
section
/-! DEFINITION. State of the link ports and the sideband mailbox (chapter "Nolzu links and the cascade"). Plain data. -/
namespace Sys2Proof.Machine

/-- A link port (R262 to R267, R281, R283, R292). Sending: the number of the next frame, messages to send for the first time and
those of the last frame with its number, the last frame sent, and whether the next one reports the link down. Receiving:
frames in a row with an uncorrectable codeword, DEVTIMEs of lost frames, the number of the last frame whose header was
read, lanes this end has paused, lane-flits taken in by lane. trained: training is done and the gate is not; provision: the
port is in provisioning; noSched: it carries no scheduled traffic since its last failure; failedAt is the DEVTIME of that.
transit holds the lane-flits that cross from another port, by lane. credit holds the flits of each service VC that the peer can still
take, owed those that this end has taken and not yet given back (R264). secret is that of the last training, group and farGroup the frame
groups sent and received (R310, R311). -/
structure LinkPort where
  fnum : Nat := 0
  newMarks : List Mark := []
  oldMarks : List (Nat × Mark) := []
  newCtl : List LCtl := []
  oldCtl : List (Nat × LCtl) := []
  sent : Option Frame := none
  sendDown : Bool := false
  bad : Nat := 0
  lostAt : List Nat := []
  lastHdr : Option Nat := none
  paused : List Nat := []
  got : Tab Nat := []
  trained : Bool := false
  provision : Bool := false
  noSched : Bool := false
  failedAt : Nat := 0
  transit : Tab (List (BitVec 3 × BitVec 256)) := []
  credit : Tab Nat := []
  owed : Tab Nat := []
  secret : BitVec 384 := 0
  group : Nat := 0
  farGroup : Nat := 0
deriving DecidableEq, Repr

/-- A transfer that this device sends over the mailbox (R287, R288): role bit, source, destination, payload, check, the attempts
made, and the source of the last transfer that has passed on the bus since the attempt was formed. -/
structure MbxOut where
  role : Bool
  src : Nat
  dst : Nat
  bytes : List Byte
  crc : Nat
  tries : Nat := 0
  met : Option Nat := none
deriving DecidableEq, Repr

/-- The sideband mailbox (R287, R288): buffers, the transfer under way, the DEVTIME until which the bus stays idle after a stop,
whether the last transfer received was acknowledged, and the partitions of abort notices sent (R289). -/
structure Mailbox where
  tx : List Byte := []
  rx : List Byte := []
  out : Option MbxOut := none
  idleAt : Nat := 0
  acked : Bool := false
  notices : List Nat := []
deriving DecidableEq, Repr

/-- A detour at work on the master (R290, R291): its LNK_DETOUR entry; the partition, or none for a registration; the list's elements;
what the device of each has answered, whether it verifies and the digest of its images; whether the images are being loaded, and the others' loads
ordered; and the positions that have loaded theirs. -/
structure DetourJob where
  entry : Nat
  part : Option Nat
  elems : List DetourElem
  answers : Tab (Bool × BitVec 64) := []
  loading : Bool := false
  ordered : Bool := false
  loaded : List Nat := []
deriving DecidableEq, Repr

/-- The links of a device: ports, the mailbox, whether DEVTIME has been stepped to the master's since power-on, whether it is
being slewed, a nanosecond of slew still to be dropped, and the last DEVTIME
heard from the master (R275, R276); step-marker pulses sent, and the DEVTIME at which the last ends (R277, R402); detours at work; and the position to which each position
sends what it sends to the master, where it is not that of R273's routes; and where the ports of members are cabled, 8 × position + port
to the same of the peer (R272); and the cascade key of mailbox messages (R311). -/
structure Links where
  ports : Tab LinkPort := []
  mbx : Mailbox := {}
  joined : Bool := false
  slew : Bool := false
  skip : Nat := 0
  heard : Nat := 0
  pulses : Nat := 0
  pulseEnd : Nat := 0
  jobs : List DetourJob := []
  ways : Tab Nat := []
  cables : Tab Nat := []
  mbxKey : BitVec 384 := 0
deriving DecidableEq, Repr

end Sys2Proof.Machine
end

