-- ==== Sys2Proof/Machine/MemState.lean ====
section
/-! DEFINITION. State of the memory tiers, the shared buffer, the host port and the regulators (chapters "Near tier, far
tier and the address map", "Shared buffer and bandwidth regulation" and "Host interface and command packets"). Plain
data. -/
namespace Sys2Proof.Machine

/-- Attributes of a memory request (R141): requesting node, partition, key slot, PASID, class, hint, service operation,
and what the memories' codes find while it is served. PASID 2^20 stands for no PASID (R235). node is the local node number of a
requester of this device, and the whole number of a foreign one, of another device of the cascade (R142). -/
structure Acc where
  node : Nat
  part : Nat
  key : Nat
  pasid : Nat
  cls : Nat := 0
  hint : Nat := 0
  op : Nat := 1
  ecc : Eccs := []
  foreign : Bool := false
deriving DecidableEq, Repr

/-- A line in a near-tier channel's write queue (R156, R158, R159). seq orders entries; due is the DEVTIME of its
timeout; key is the number of the key it was encrypted with. -/
structure NWrite where
  seq : Nat
  line : Nat
  data : Nat
  psn : Bool
  due : Nat
  op : Nat
  node : Nat
  part : Nat
  key : Nat
deriving DecidableEq, Repr

/-- A near-tier channel (R156 to R159, R171, R172): write queue, poisoned-line table, deferred discard, refresh operations
deferred by bank, and the next line to scrub. -/
structure NearCh where
  wq : List NWrite := []
  table : List (Nat × Nat) := []
  next : Nat := 0
  deferred : Bool := false
  refr : Tab Nat := []
  scrubAt : Nat := 0
deriving DecidableEq, Repr

/-- A far-tier pseudo-channel (R168, R172): bank groups that hold a soft repair, refreshes deferred, next line to scrub. -/
structure FarCh where
  soft : List Nat := []
  refr : Nat := 0
  scrubAt : Nat := 0
deriving DecidableEq, Repr

/-- A line of the shared buffer with its tag (R194). -/
structure CLine where
  line : Nat
  pasid : Nat
  dirty : Bool
  psn : Bool
  keep : Bool
  cls : Nat
  part : Nat
  key : Nat
  data : Nat
deriving DecidableEq, Repr

/-- A set: its valid lines by way, and the 15 pseudo-LRU bits (R194, R196). -/
structure BSet where
  ways : Tab CLine := []
  plru : BitVec 15 := 0
deriving DecidableEq, Repr

/-- What a request asks of a line (R199 to R210). Offsets are within the line; psn marks the pieces written poisoned;
mask marks the bytes written. -/
inductive LineOp where
  | read (off n : Nat)
  | write (off n data psn : Nat)
  | masked (mask data psn : Nat)
  | zero
  | atomic (op ty off a b : Nat) (psn : Bool)
  | lineAdd (ty data : Nat) (psn : Bool)
deriving DecidableEq, Repr

/-- Outcome of a memory access. -/
inductive Got where
  | ok (data psn res : Nat)
  | err (st : Status)
  | wait
deriving DecidableEq, Repr

/-- A request that waits on a miss (R200, R202): early reads take each sector as it arrives, acked is a write whose data the entry has
taken, and held is a request of a unit that asks again for its outcome. -/
structure Waiter where
  acc : Acc
  tag : Nat
  op : LineOp
  early : Bool
  acked : Bool := false
  held : Bool := false
deriving DecidableEq, Repr

/-- A miss-table entry (R200, R204): the line, the attributes of the request that placed it, sectors received in order of
arrival, whether it is a prefetch, the maintenance operations that passed its set meanwhile (R216), and its side-buffer number. -/
structure Miss where
  line : Nat
  acc : Acc
  got : List Nat := []
  data : Nat := 0
  psn : Bool := false
  side : Bool := false
  treat : List Nat := []
  waiters : List Waiter := []
  no : Nat := 0
deriving DecidableEq, Repr

/-- A line of the victim cache; wb: its writeback has been sent and not yet accepted (R203). -/
structure Victim where
  ln : CLine
  wb : Bool := false
deriving DecidableEq, Repr

/-- A line of the prefetch side buffer with its entry number and the DEVTIME of its arrival (R204, R205). -/
structure SideLine where
  no : Nat
  came : Nat
  ln : CLine
deriving DecidableEq, Repr

/-- A maintenance operation (R216): operation, scope, key slot, range and PASID; the lines whose writeback waits for a
translation, as slice, line and PASID, are left. -/
structure Walk where
  op : Nat
  scope : Nat
  key : Nat := 0
  base : Nat := 0
  len : Nat := 0
  pasid : Nat := 0
  left : List (Nat × Nat × Nat) := []
deriving DecidableEq, Repr

/-- A slice (R191): sets, victim cache in order of entry, side buffer, miss table, the next line to scrub, and the way of
each locked scratch group (R212). out holds dirty lines that have left a way for good and whose writeback has not been accepted (R214,
R219), ready the outcomes of missed requests for the units that ask again for them. -/
structure BSlice where
  locked : List Nat := []
  sets : Tab BSet := []
  victim : List Victim := []
  side : List SideLine := []
  miss : List Miss := []
  next : Nat := 0
  scrubAt : Nat := 0
  out : List CLine := []
  ready : List (Acc × Nat × LineOp × Got) := []
deriving DecidableEq, Repr

/-- An entry of the translation cache (R255): PASID, page base, page size as a power of two, permissions. -/
structure Xlat where
  pasid : Nat
  va : Nat
  lg : Nat
  r : Bool
  w : Bool
deriving DecidableEq, Repr

/-- Where the translation of a page that missed stands (R256): asked of ATS, found wanting, asked for in page request
group idx, asked of ATS again after the group's success, or failed. -/
inductive XPhase where
  | ats | need | pri (idx : Nat) | ats2 | failed
deriving DecidableEq, Repr

/-- A page whose translation a request waits for: 4 KiB page, permission needed, DEVTIME of its page request. -/
structure XWait where
  pasid : Nat
  page : Nat
  write : Bool
  phase : XPhase
  sent : Nat := 0
deriving DecidableEq, Repr

/-- A completion that the host receives: bytes, poison bit, Unsupported Request (R234, R261). -/
structure Cpl where
  data : Nat := 0
  psn : Bool := false
  ur : Bool := false
deriving DecidableEq, Repr

/-- A BAR4 request not yet answered (R234, R261): its number, device address, partition and key slot at its arrival, length,
whether it writes, DEVTIME of arrival. -/
structure Bar4 where
  id : Nat
  addr : Nat
  part : Nat
  key : Nat
  n : Nat
  write : Bool
  sent : Nat
deriving DecidableEq, Repr

/-- The host port: translation cache, most recently used first, pages being translated, the number of the next page
request group, whether the PCIe link is up, configuration words written, ATS invalidations not yet completed (R258) with the members that
have not carried them out (R285), the
last completion, BAR4 requests not yet answered, and the latched half of DEVTIME (R231, R255, R258, R261, R276). -/
structure HostPort where
  cache : List Xlat := []
  waits : List XWait := []
  nextPrg : Nat := 0
  up : Bool := false
  cfg : Tab (BitVec 32) := []
  invs : List Nat := []
  invWait : Tab (List Nat) := []
  cpl : Option Cpl := none
  bar4 : List Bar4 := []
  hiLatch : Option Nat := none
deriving DecidableEq, Repr

/-- What a requester has received for a tag (R199, R201): pieces with offset, length, bytes and poison marks; the end and
its status; the value of an atomic. -/
structure Rsp where
  parts : List (Nat × Nat × Nat × Nat) := []
  done : Bool := false
  status : Status := .ok
  imm : Nat := 0
deriving DecidableEq, Repr

/-- A request sent over a link whose answer is awaited (R265): requester, tag, address, port and DEVTIME of
sending. -/
structure OutReq where
  src : Nat
  tag : Nat
  addr : Nat
  port : Nat
  sent : Nat
deriving DecidableEq, Repr

/-- A line request that a unit of this device has sent to another: source and destination node, the requester's attributes, line and
operation, tag, the packets still to send, and whether its answer has stood for a tick (R265, R273, R285). -/
structure Ask where
  src : Nat
  dst : Nat
  acc : Acc
  line : Nat
  op : LineOp
  tag : Nat
  rest : List Pkt
  old : Bool
deriving DecidableEq, Repr

/-- A regulation miss record (Table 8-5). -/
structure MissRec where
  start : Nat
  short : Nat
  served : Nat
  reg : Nat
  part : Nat
  cls : Nat
  len : Nat
deriving DecidableEq, Repr

/-- A request that a regulator holds back for want of room behind it (R228, R229): the command that makes it, its partition and class,
bytes, flits, and whether it is of a prefetch. -/
structure PoolReq where
  cmd : Instr
  part : Nat
  cls : Nat
  bytes : Nat
  flits : Nat
  pre : Bool := false
deriving DecidableEq, Repr

/-- A regulator's admission pool, the VC0 input buffers of its classes, and the partition and class, as 8 × partition + class, that it
granted last (R228, R229). -/
structure Pool where
  held : List PoolReq := []
  bufs : List PoolReq := []
  last : Nat := 127
deriving DecidableEq, Repr

/-- Regulation (R223 to R230): class words in force (absent: reset value), bytes served and asked for in the window by
regulator × 128 + partition × 8 + class, start and end of the window in progress, records by
index, and what the regulators hold back. -/
structure Qos where
  force : Tab Nat := []
  served : Tab Nat := []
  demand : Tab Nat := []
  start : Nat := 0
  fin : Nat := 10000
  recs : Tab MissRec := []
  pools : Tab Pool := []
deriving DecidableEq, Repr

/-- Upsets that the codes of the inner memories of a cluster will find at their next read (R321, R322): of instruction stores by
65,536 × core + bundle, of schedule tables by 65,536 × cluster + entry, of codebook stores by 65,536 × cluster + word of 8 bytes; and, for
the reads of cores, of cluster memories by the word of 8 bytes of their device address, of local scratch by 8,192 × core + word (log
entry 93). -/
structure Upsets where
  prog : Tab Ecc := []
  table : Tab Ecc := []
  book : Tab Ecc := []
  cmem : Tab Ecc := []
  local' : Tab Ecc := []
deriving DecidableEq, Repr

end Sys2Proof.Machine
end

