-- ==== Sys2Proof/Machine/PowerState.lean ====
section
/-! DEFINITION. State of power, clocks and the thermal model (chapter "Power, clocks, thermal management and trace"). Power
is in mW, temperature in 1/128 °C. Plain data. -/
namespace Sys2Proof.Machine

/-- A domain between states (R347, R348): the state it goes to, whether that is by a wake, the state it leaves, whether
a wake demand arrived meanwhile, and the DEVTIME at which it began. -/
structure Dom where
  target : Nat
  waking : Bool
  from' : Nat
  again : Bool := false
  since : Nat := 0
deriving DecidableEq, Repr

/-- A domain's voltage on its way (R351): the voltage it goes to in mV, and the ns from one mV to the next and at which the next
comes. -/
structure Slew where
  goal : Nat
  period : Nat
  due : Nat
deriving DecidableEq, Repr

/-- A node of the thermal model (R354 to R358): offset and the network's value, samples still to be ignored after a
synchronising reset, consecutive samples far from the estimate, estimates of the last ms newest first, last valid sample,
ticks for which it has been 3 °C below throttle and ticks for which its rise has been calm, whether ramp limiting and throttling
apply, and whether its sensor was listed broken at the start. -/
structure Node where
  offset : Int := 0
  net : Int := 0
  skip : Nat := 8
  far : Nat := 0
  hist : List Int := []
  last : Option Int := none
  low : Nat := 0
  calm : Nat := 0
  ramp : Bool := false
  hot : Bool := false
  alone : Bool := false
deriving DecidableEq, Repr

/-- A day's record of a domain in the Cave ledger (R342). -/
structure Ledger where
  day : Nat
  smin : Nat
  splan : Nat
  g : Nat
  eraise : Nat
  events : Nat
  temp : Int
  hot : Nat
deriving DecidableEq, Repr

/-- The Cave (R342, R343): records by domain, oldest first; by domain the word of MRG_DOM as it stood when the ledger was last
written, with MRG_STAT.opsec of that time, from which a reset restores them (R14, R368); today's highest temperature, 10 µs intervals
above 85 °C and counted events by domain; the operating second of each domain's last counted event; the day last re-planned. -/
structure Cave where
  ledger : Tab (List Ledger) := []
  kept : Tab Nat := []
  opsec : Nat := 0
  temps : Tab Int := []
  hot : Tab Nat := []
  events : Tab Nat := []
  lastEv : Tab Nat := []
  day : Nat := 0
deriving DecidableEq, Repr

/-- Power (R351 to R353, R360): the floor F, the present load, package input of the last 100 intervals newest first, the
intervals in a row above the backstop, predicted increases by 4 × partition + clock step, starts under measurement, cap
reductions newest first with the DEVTIME of the last and the DEVTIME since which input has been low, whether the device is
tripped, domains between states, DEVTIMEs of the last thermal step of each partition, nodes, power by partition, the Cave, the last telemetry stream sent (R402), domains without keys (R307), voltages on their way, by
4 × quadrant + step the DEVTIME at which a PLL that was started locks (R349), and by domain the DEVTIME at which trace resumes (R365). -/
structure Pwr where
  floor : Nat := 0
  load : Nat := 0
  hist : List Nat := []
  above : Nat := 0
  pests : Tab Nat := []
  starts : Tab (Nat × Nat) := []
  cuts : List Nat := []
  cutAt : Nat := 0
  lowAt : Option Nat := none
  raiseAt : Nat := 0
  tripped : Bool := false
  doms : Tab Dom := []
  used : Tab Nat := []
  thmAt : Tab Nat := []
  nodes : Tab Node := []
  partW : Tab Nat := []
  cave : Cave := {}
  stream : List Byte := []
  unkeyed : List Nat := []
  slews : Tab Slew := []
  plls : Tab Nat := []
  gapAt : Tab Nat := []
deriving DecidableEq, Repr

end Sys2Proof.Machine
end

