-- ==== Sys2Proof/Machine/Regs.lean ====
section
/-! DEFINITION. The register map of BAR0: every register the manual's register tables give (R4 to R7, R13 to R15,
R86, R87, R346, R390 and each chapter's register tables), as data: base offset, instance strides, width, reset
domain and fields with access type and reset value. Offsets of instances are functions of the instance number in
the manual's index order. -/
namespace Sys2Proof.Machine

/-- Access types of Table 0-4 (R4). -/
inductive Access where
  | rw | ro | wo | w1c | w1s | rc | rwl
deriving DecidableEq, Repr

/-- Reset domains of Table 0-9 (R15), the higher ones first. -/
inductive Domain where
  | powerOn | alwaysOn | device | partition | cluster | core
deriving DecidableEq, Repr

/-- What a register stores when a value outside its field's range is written (each register's own table). -/
inductive Clamp where
  | none                        -- stored as written
  | range (lo hi : Nat)         -- the nearer limit is stored
  | over (max repl : Nat)       -- a value above max stores repl
  | owner                       -- 0 to 16 and 31 as written, every other value 31
  | share                       -- 0 stores 1, 1 to 16 as written; above 16 the manual states no value
deriving DecidableEq, Repr

/-- One field of a register table: bits lo to lo + w - 1. ctr marks the counters and pointers that R312 does not log. -/
structure FieldSpec where
  lo : Nat
  w : Nat
  acc : Access
  rst : Nat
  clamp : Clamp := .none
  ctr : Bool := false
deriving DecidableEq, Repr

/-- The registers, in the order of the chapters. -/
inductive RegName where
  | bseId
  | coreCvt
  | coreFpflag
  | coreSrstate
  | coreId
  | coreStat
  | coreArrstat0
  | coreArrstat1
  | coreReserr
  | coreCmstall
  | cluId
  | cluCfg
  | cluCoremap
  | cluMerge
  | cluConflict
  | coreEntry
  | corePlen
  | coreFlags
  | corePcfg
  | coreDbgctl
  | coreDbgsel
  | coreDbgdata
  | coreBundles
  | coreHoldcnt
  | mshRstat
  | mshPrsflag
  | mshSkidhw
  | mshDgen
  | mshPctl
  | mshPstep
  | mshPcyc
  | mshRingstat
  | ntcChstat
  | ntcHpcfg
  | ntcCtl
  | hbcStat
  | hbcThrcfg
  | hbcLane
  | cluDmastat
  | cluDeccnt
  | cluKvcnt
  | sbfCtl
  | sbfWaydis
  | sbfWaystat
  | sbfCnt
  | sbfCfg
  | sbfScr
  | sbfMaint
  | sbfMainta
  | sbfMaintl
  | sbfScrgrant
  | qosClass
  | qosWin
  | qosMissstat
  | qosCnt
  | cmdSqbase
  | cmdCqbase
  | cmdSqcfg
  | cmdSqstat
  | cmdBar4
  | cmdPrito
  | lnkCasc
  | lnkPstat
  | lnkLat
  | lnkPcfg
  | lnkFeccnt
  | lnkWait
  | lnkRoute
  | lnkQfwd
  | lnkDetour
  | lnkMbx
  | bseTime
  | secStat
  | secPbind
  | secSlot
  | secFtgrant
  | audWseq
  | audRd
  | audStat
  | errStat
  | errPolicy
  | errPart
  | errFtest
  | errUnit
  | dfmStat
  | dfmVpstat
  | mrgDom
  | mrgStat
  | pwrDomctl
  | pwrPclk
  | pwrCap
  | pwrPfstat
  | thmNode
  | thmCfg
  | trcCtl
  | trcDest
  | trcStat
  | bseBoot
  | bseStrap
  | bsePhase
  | bseFwdist
  | bseFwpend
  | bseRecov
  | bseCap
  | bseCapclu
  | bseCapbr
  | bsePinstat
deriving DecidableEq, Repr

/-- One register: base offset in BAR0, (stride, count) of each index from the outermost inward, width in bits,
reset domain and the fields that are not reserved (R6: the rest read as zero and ignore writes). -/
structure RegSpec where
  name : RegName
  base : Nat
  dims : List (Nat × Nat)
  width : Nat
  dom : Domain
  fields : List FieldSpec
deriving DecidableEq, Repr

/-- A named field of one register instance, by the offset of the instance. -/
structure Field where
  off : Nat
  lo : Nat
  w : Nat
deriving DecidableEq, Repr

/-! Offsets of register instances. -/
def offBseId : Nat := 0x0
def offCoreCvt (i : Nat) : Nat := 0x1200040 + (i / 4096) * 0x400000 + (i % 4096) * 0x80
def offCoreFpflag (i : Nat) : Nat := 0x1200044 + (i / 4096) * 0x400000 + (i % 4096) * 0x80
def offCoreSrstate (i : Nat) : Nat := 0x1200048 + (i / 4096) * 0x400000 + (i % 4096) * 0x80
def offCoreId (i : Nat) : Nat := 0x1200000 + (i / 4096) * 0x400000 + (i % 4096) * 0x80
def offCoreStat (i : Nat) : Nat := 0x1200008 + (i / 4096) * 0x400000 + (i % 4096) * 0x80
def offCoreArrstat0 (i : Nat) : Nat := 0x1200010 + (i / 4096) * 0x400000 + (i % 4096) * 0x80
def offCoreArrstat1 (i : Nat) : Nat := 0x1200014 + (i / 4096) * 0x400000 + (i % 4096) * 0x80
def offCoreReserr (i : Nat) : Nat := 0x1200018 + (i / 4096) * 0x400000 + (i % 4096) * 0x80
def offCoreCmstall (i : Nat) : Nat := 0x120001c + (i / 4096) * 0x400000 + (i % 4096) * 0x80
def offCluId (i : Nat) : Nat := 0x1100000 + (i / 128) * 0x400000 + (i % 128) * 0x1000
def offCluCfg (i : Nat) : Nat := 0x1100004 + (i / 128) * 0x400000 + (i % 128) * 0x1000
def offCluCoremap (i : Nat) : Nat := 0x1100008 + (i / 128) * 0x400000 + (i % 128) * 0x1000
def offCluMerge (i : Nat) : Nat := 0x1100010 + (i / 128) * 0x400000 + (i % 128) * 0x1000
def offCluConflict (i : Nat) : Nat := 0x1100014 + (i / 128) * 0x400000 + (i % 128) * 0x1000
def offCoreEntry (i : Nat) : Nat := 0x1200050 + (i / 4096) * 0x400000 + (i % 4096) * 0x80
def offCorePlen (i : Nat) : Nat := 0x1200054 + (i / 4096) * 0x400000 + (i % 4096) * 0x80
def offCoreFlags (i : Nat) : Nat := 0x1200058 + (i / 4096) * 0x400000 + (i % 4096) * 0x80
def offCorePcfg (i : Nat) : Nat := 0x120005c + (i / 4096) * 0x400000 + (i % 4096) * 0x80
def offCoreDbgctl (i : Nat) : Nat := 0x1200060 + (i / 4096) * 0x400000 + (i % 4096) * 0x80
def offCoreDbgsel (i : Nat) : Nat := 0x1200064 + (i / 4096) * 0x400000 + (i % 4096) * 0x80
def offCoreDbgdata (i : Nat) : Nat := 0x1200068 + (i / 4096) * 0x400000 + (i % 4096) * 0x80
def offCoreBundles (i : Nat) : Nat := 0x1200070 + (i / 4096) * 0x400000 + (i % 4096) * 0x80
def offCoreHoldcnt (i : Nat) : Nat := 0x1200074 + (i / 4096) * 0x400000 + (i % 4096) * 0x80
def offMshRstat (i : Nat) : Nat := 0x1100200 + (i / 128) * 0x400000 + (i % 128) * 0x1000
def offMshPrsflag (i : Nat) : Nat := 0x1100208 + (i / 128) * 0x400000 + (i % 128) * 0x1000
def offMshSkidhw (i : Nat) : Nat := 0x110020c + (i / 128) * 0x400000 + (i % 128) * 0x1000
def offMshDgen (i : Nat) : Nat := 0x1100240 + (i / 1024) * 0x400000 + ((i / 8) % 128) * 0x1000 + (i % 8) * 0x8
def offMshPctl (i : Nat) : Nat := 0x20000 + i * 0x20
def offMshPstep (i : Nat) : Nat := 0x20008 + i * 0x20
def offMshPcyc (i : Nat) : Nat := 0x20010 + i * 0x20
def offMshRingstat : Nat := 0x20400
def offNtcChstat (i : Nat) : Nat := 0x30000 + (i / 128) * 0x1000 + (i % 128) * 0x20
def offNtcHpcfg (i : Nat) : Nat := 0x38000 + i * 0x8
def offNtcCtl : Nat := 0x39000
def offHbcStat (i : Nat) : Nat := 0x40000 + i * 0x100
def offHbcThrcfg (i : Nat) : Nat := 0x40008 + i * 0x100
def offHbcLane (i : Nat) : Nat := 0x41000 + (i / 32) * 0x100 + (i % 32) * 0x8
def offCluDmastat (i : Nat) : Nat := 0x1100100 + (i / 128) * 0x400000 + (i % 128) * 0x1000
def offCluDeccnt (i : Nat) : Nat := 0x1100108 + (i / 128) * 0x400000 + (i % 128) * 0x1000
def offCluKvcnt (i : Nat) : Nat := 0x1100110 + (i / 128) * 0x400000 + (i % 128) * 0x1000
def offSbfCtl (i : Nat) : Nat := 0x50000 + i * 0x100
def offSbfWaydis (i : Nat) : Nat := 0x50008 + i * 0x100
def offSbfWaystat (i : Nat) : Nat := 0x50010 + i * 0x100
def offSbfCnt (i : Nat) : Nat := 0x50020 + i * 0x100
def offSbfCfg : Nat := 0x52000
def offSbfScr : Nat := 0x52008
def offSbfMaint : Nat := 0x52010
def offSbfMainta : Nat := 0x52018
def offSbfMaintl : Nat := 0x52020
def offSbfScrgrant (i : Nat) : Nat := 0x52100 + i * 0x4
def offQosClass (i : Nat) : Nat := 0x60000 + (i / 8) * 0x100 + (i % 8) * 0x10
def offQosWin : Nat := 0x61000
def offQosMissstat : Nat := 0x61008
def offQosCnt (i : Nat) : Nat := 0x68000 + (i / 128) * 0x400 + ((i / 8) % 16) * 0x40 + (i % 8) * 0x8
def offCmdSqbase (i : Nat) : Nat := 0x80000 + i * 0x40
def offCmdCqbase (i : Nat) : Nat := 0x80008 + i * 0x40
def offCmdSqcfg (i : Nat) : Nat := 0x80010 + i * 0x40
def offCmdSqstat (i : Nat) : Nat := 0x80018 + i * 0x40
def offCmdBar4 : Nat := 0x81000
def offCmdPrito : Nat := 0x81008
def offLnkCasc : Nat := 0x90000
def offLnkPstat (i : Nat) : Nat := 0x90100 + i * 0x100
def offLnkLat (i : Nat) : Nat := 0x90108 + i * 0x100
def offLnkPcfg (i : Nat) : Nat := 0x90110 + i * 0x100
def offLnkFeccnt (i : Nat) : Nat := 0x90118 + i * 0x100
def offLnkWait (i : Nat) : Nat := 0x90120 + i * 0x100
def offLnkRoute (i : Nat) : Nat := 0x91000 + i * 0x4
def offLnkQfwd (i : Nat) : Nat := 0x91200 + i * 0x4
def offLnkDetour (i : Nat) : Nat := 0x91400 + i * 0x20
def offLnkMbx : Nat := 0x92000
def offBseTime : Nat := 0x48
def offSecStat : Nat := 0xa0000
def offSecPbind (i : Nat) : Nat := 0xa0100 + i * 0x10
def offSecSlot (i : Nat) : Nat := 0xa0400 + i * 0x8
def offSecFtgrant (i : Nat) : Nat := 0xa1000 + i * 0x4
def offAudWseq : Nat := 0xb0000
def offAudRd : Nat := 0xb0008
def offAudStat : Nat := 0xb0010
def offErrStat : Nat := 0xc0000
def offErrPolicy : Nat := 0xc0008
def offErrPart (i : Nat) : Nat := 0xc0100 + i * 0x8
def offErrFtest : Nat := 0xc0200
def offErrUnit (i : Nat) : Nat := 0x100000 + i * 0x4
def offDfmStat : Nat := 0xd0000
def offDfmVpstat (i : Nat) : Nat := 0xd1000 + i * 0x4
def offMrgDom (i : Nat) : Nat := 0xe0000 + i * 0x10
def offMrgStat : Nat := 0xe1000
def offPwrDomctl (i : Nat) : Nat := 0x140000 + i * 0x10
def offPwrPclk (i : Nat) : Nat := 0x141000 + i * 0x10
def offPwrCap : Nat := 0x142000
def offPwrPfstat : Nat := 0x142008
def offThmNode (i : Nat) : Nat := 0x160000 + i * 0x8
def offThmCfg : Nat := 0x161000
def offTrcCtl (i : Nat) : Nat := 0x1100300 + (i / 128) * 0x400000 + (i % 128) * 0x1000
def offTrcDest (i : Nat) : Nat := 0x1100308 + (i / 128) * 0x400000 + (i % 128) * 0x1000
def offTrcStat (i : Nat) : Nat := 0x1100310 + (i / 128) * 0x400000 + (i % 128) * 0x1000
def offBseBoot : Nat := 0x8
def offBseStrap : Nat := 0x10
def offBsePhase : Nat := 0x18
def offBseFwdist : Nat := 0x20
def offBseFwpend : Nat := 0x28
def offBseRecov : Nat := 0x30
def offBseCap : Nat := 0x100
def offBseCapclu (i : Nat) : Nat := 0x1000 + i * 0x4
def offBseCapbr : Nat := 0x108
def offBsePinstat : Nat := 0x40

/-! Named fields. -/
def fBseId_part : Field := ⟨offBseId, 16, 16⟩
def fBseId_bstep : Field := ⟨offBseId, 12, 4⟩
def fBseId_bminor : Field := ⟨offBseId, 8, 4⟩
def fBseId_cgen : Field := ⟨offBseId, 4, 4⟩
def fCoreCvt_srdef (i : Nat) : Field := ⟨offCoreCvt i, 1, 1⟩
def fCoreCvt_sat (i : Nat) : Field := ⟨offCoreCvt i, 0, 1⟩
def fCoreFpflag_nv (i : Nat) : Field := ⟨offCoreFpflag i, 4, 1⟩
def fCoreFpflag_dz (i : Nat) : Field := ⟨offCoreFpflag i, 3, 1⟩
def fCoreFpflag_of (i : Nat) : Field := ⟨offCoreFpflag i, 2, 1⟩
def fCoreFpflag_uf (i : Nat) : Field := ⟨offCoreFpflag i, 1, 1⟩
def fCoreFpflag_nx (i : Nat) : Field := ⟨offCoreFpflag i, 0, 1⟩
def fCoreSrstate_state (i : Nat) : Field := ⟨offCoreSrstate i, 0, 32⟩
def fCoreId_gcore (i : Nat) : Field := ⟨offCoreId i, 0, 14⟩
def fCoreStat_state (i : Nat) : Field := ⟨offCoreStat i, 21, 3⟩
def fCoreStat_poison (i : Nat) : Field := ⟨offCoreStat i, 20, 1⟩
def fCoreStat_part (i : Nat) : Field := ⟨offCoreStat i, 16, 4⟩
def fCoreStat_pc (i : Nat) : Field := ⟨offCoreStat i, 0, 11⟩
def fCoreArrstat0_cls (i : Nat) : Field := ⟨offCoreArrstat0 i, 16, 3⟩
def fCoreArrstat0_qdepth (i : Nat) : Field := ⟨offCoreArrstat0 i, 12, 4⟩
def fCoreArrstat0_shadow (i : Nat) : Field := ⟨offCoreArrstat0 i, 10, 2⟩
def fCoreArrstat0_marker (i : Nat) : Field := ⟨offCoreArrstat0 i, 9, 1⟩
def fCoreArrstat0_drainpend (i : Nat) : Field := ⟨offCoreArrstat0 i, 8, 1⟩
def fCoreArrstat0_rerr (i : Nat) : Field := ⟨offCoreArrstat0 i, 0, 1⟩
def fCoreArrstat1_cls (i : Nat) : Field := ⟨offCoreArrstat1 i, 16, 3⟩
def fCoreArrstat1_qdepth (i : Nat) : Field := ⟨offCoreArrstat1 i, 12, 4⟩
def fCoreArrstat1_shadow (i : Nat) : Field := ⟨offCoreArrstat1 i, 10, 2⟩
def fCoreArrstat1_marker (i : Nat) : Field := ⟨offCoreArrstat1 i, 9, 1⟩
def fCoreArrstat1_drainpend (i : Nat) : Field := ⟨offCoreArrstat1 i, 8, 1⟩
def fCoreArrstat1_rerr (i : Nat) : Field := ⟨offCoreArrstat1 i, 0, 1⟩
def fCoreReserr_arr1 (i : Nat) : Field := ⟨offCoreReserr i, 16, 16⟩
def fCoreReserr_arr0 (i : Nat) : Field := ⟨offCoreReserr i, 0, 16⟩
def fCoreCmstall_count (i : Nat) : Field := ⟨offCoreCmstall i, 0, 32⟩
def fCluId_gclu (i : Nat) : Field := ⟨offCluId i, 16, 9⟩
def fCluId_die (i : Nat) : Field := ⟨offCluId i, 14, 2⟩
def fCluId_quad (i : Nat) : Field := ⟨offCluId i, 12, 2⟩
def fCluId_col (i : Nat) : Field := ⟨offCluId i, 8, 4⟩
def fCluId_row (i : Nat) : Field := ⟨offCluId i, 4, 3⟩
def fCluCfg_commit (i : Nat) : Field := ⟨offCluCfg i, 31, 1⟩
def fCluCfg_en (i : Nat) : Field := ⟨offCluCfg i, 4, 1⟩
def fCluCfg_part (i : Nat) : Field := ⟨offCluCfg i, 0, 4⟩
def fCluCoremap_dis (i : Nat) : Field := ⟨offCluCoremap i, 0, 32⟩
def fCluMerge_count (i : Nat) : Field := ⟨offCluMerge i, 0, 32⟩
def fCluConflict_count (i : Nat) : Field := ⟨offCluConflict i, 0, 32⟩
def fCoreEntry_entry (i : Nat) : Field := ⟨offCoreEntry i, 0, 11⟩
def fCorePlen_len (i : Nat) : Field := ⟨offCorePlen i, 0, 12⟩
def fCoreFlags_sig (i : Nat) : Field := ⟨offCoreFlags i, 24, 8⟩
def fCoreFlags_req (i : Nat) : Field := ⟨offCoreFlags i, 0, 24⟩
def fCorePcfg_hlead (i : Nat) : Field := ⟨offCorePcfg i, 8, 6⟩
def fCorePcfg_credits (i : Nat) : Field := ⟨offCorePcfg i, 0, 5⟩
def fCoreDbgctl_halt (i : Nat) : Field := ⟨offCoreDbgctl i, 31, 1⟩
def fCoreDbgctl_resume (i : Nat) : Field := ⟨offCoreDbgctl i, 30, 1⟩
def fCoreDbgctl_step (i : Nat) : Field := ⟨offCoreDbgctl i, 29, 1⟩
def fCoreDbgctl_bpen (i : Nat) : Field := ⟨offCoreDbgctl i, 28, 1⟩
def fCoreDbgctl_dbg (i : Nat) : Field := ⟨offCoreDbgctl i, 27, 1⟩
def fCoreDbgctl_bpc (i : Nat) : Field := ⟨offCoreDbgctl i, 0, 11⟩
def fCoreDbgsel_valid (i : Nat) : Field := ⟨offCoreDbgsel i, 31, 1⟩
def fCoreDbgsel_sel (i : Nat) : Field := ⟨offCoreDbgsel i, 0, 8⟩
def fCoreDbgdata_data (i : Nat) : Field := ⟨offCoreDbgdata i, 0, 64⟩
def fCoreBundles_count (i : Nat) : Field := ⟨offCoreBundles i, 0, 32⟩
def fCoreHoldcnt_count (i : Nat) : Field := ⟨offCoreHoldcnt i, 0, 32⟩
def fMshRstat_state (i : Nat) : Field := ⟨offMshRstat i, 62, 2⟩
def fMshRstat_done (i : Nat) : Field := ⟨offMshRstat i, 61, 1⟩
def fMshRstat_depth (i : Nat) : Field := ⟨offMshRstat i, 58, 3⟩
def fMshRstat_slot (i : Nat) : Field := ⟨offMshRstat i, 32, 10⟩
def fMshRstat_rem (i : Nat) : Field := ⟨offMshRstat i, 0, 16⟩
def fMshPrsflag_psn (i : Nat) : Field := ⟨offMshPrsflag i, 2, 1⟩
def fMshPrsflag_nv (i : Nat) : Field := ⟨offMshPrsflag i, 1, 1⟩
def fMshPrsflag_of (i : Nat) : Field := ⟨offMshPrsflag i, 0, 1⟩
def fMshSkidhw_max (i : Nat) : Field := ⟨offMshSkidhw i, 0, 5⟩
def fMshDgen_kind (i : Nat) : Field := ⟨offMshDgen i, 62, 2⟩
def fMshDgen_core (i : Nat) : Field := ⟨offMshDgen i, 57, 5⟩
def fMshDgen_array (i : Nat) : Field := ⟨offMshDgen i, 56, 1⟩
def fMshDgen_inner (i : Nat) : Field := ⟨offMshDgen i, 44, 12⟩
def fMshDgen_stride (i : Nat) : Field := ⟨offMshDgen i, 28, 16⟩
def fMshDgen_base (i : Nat) : Field := ⟨offMshDgen i, 0, 22⟩
def fMshPctl_state (i : Nat) : Field := ⟨offMshPctl i, 30, 2⟩
def fMshPctl_span (i : Nat) : Field := ⟨offMshPctl i, 29, 1⟩
def fMshPctl_hlead (i : Nat) : Field := ⟨offMshPctl i, 23, 6⟩
def fMshPctl_sched (i : Nat) : Field := ⟨offMshPctl i, 22, 1⟩
def fMshPctl_qload (i : Nat) : Field := ⟨offMshPctl i, 21, 1⟩
def fMshPstep_step (i : Nat) : Field := ⟨offMshPstep i, 0, 64⟩
def fMshPcyc_m (i : Nat) : Field := ⟨offMshPcyc i, 0, 32⟩
def fMshRingstat_fault : Field := ⟨offMshRingstat, 31, 1⟩
def fMshRingstat_crcerr : Field := ⟨offMshRingstat, 0, 16⟩
def fNtcChstat_tstate (i : Nat) : Field := ⟨offNtcChstat i, 30, 2⟩
def fNtcChstat_wq (i : Nat) : Field := ⟨offNtcChstat i, 23, 7⟩
def fNtcChstat_rdefer (i : Nat) : Field := ⟨offNtcChstat i, 19, 4⟩
def fNtcChstat_psn (i : Nat) : Field := ⟨offNtcChstat i, 12, 7⟩
def fNtcChstat_cal (i : Nat) : Field := ⟨offNtcChstat i, 11, 1⟩
def fNtcChstat_fail (i : Nat) : Field := ⟨offNtcChstat i, 10, 1⟩
def fNtcHpcfg_svcmin (i : Nat) : Field := ⟨offNtcHpcfg i, 0, 4⟩
def fNtcCtl_winh : Field := ⟨offNtcCtl, 22, 10⟩
def fNtcCtl_scrubh : Field := ⟨offNtcCtl, 16, 6⟩
def fNtcCtl_calint : Field := ⟨offNtcCtl, 8, 8⟩
def fNtcCtl_scrub : Field := ⟨offNtcCtl, 0, 1⟩
def fHbcStat_chfail (i : Nat) : Field := ⟨offHbcStat i, 32, 32⟩
def fHbcStat_avail (i : Nat) : Field := ⟨offHbcStat i, 31, 1⟩
def fHbcStat_exh (i : Nat) : Field := ⟨offHbcStat i, 30, 1⟩
def fHbcStat_thr (i : Nat) : Field := ⟨offHbcStat i, 28, 2⟩
def fHbcStat_temp (i : Nat) : Field := ⟨offHbcStat i, 20, 8⟩
def fHbcStat_srep (i : Nat) : Field := ⟨offHbcStat i, 10, 10⟩
def fHbcStat_hrepq (i : Nat) : Field := ⟨offHbcStat i, 0, 10⟩
def fHbcThrcfg_crit (i : Nat) : Field := ⟨offHbcThrcfg i, 16, 8⟩
def fHbcThrcfg_hot (i : Nat) : Field := ⟨offHbcThrcfg i, 8, 8⟩
def fHbcThrcfg_hyst (i : Nat) : Field := ⟨offHbcThrcfg i, 4, 4⟩
def fHbcLane_fail (i : Nat) : Field := ⟨offHbcLane i, 31, 1⟩
def fHbcLane_spare (i : Nat) : Field := ⟨offHbcLane i, 8, 8⟩
def fHbcLane_used (i : Nat) : Field := ⟨offHbcLane i, 0, 8⟩
def fCluDmastat_queued (i : Nat) : Field := ⟨offCluDmastat i, 22, 10⟩
def fCluDmastat_active (i : Nat) : Field := ⟨offCluDmastat i, 18, 4⟩
def fCluDmastat_cbhalf (i : Nat) : Field := ⟨offCluDmastat i, 17, 1⟩
def fCluDmastat_swappend (i : Nat) : Field := ⟨offCluDmastat i, 16, 1⟩
def fCluDmastat_lasterr (i : Nat) : Field := ⟨offCluDmastat i, 8, 8⟩
def fCluDmastat_psn (i : Nat) : Field := ⟨offCluDmastat i, 2, 1⟩
def fCluDmastat_fmterr (i : Nat) : Field := ⟨offCluDmastat i, 1, 1⟩
def fCluDmastat_derr (i : Nat) : Field := ⟨offCluDmastat i, 0, 1⟩
def fCluDeccnt_blocks (i : Nat) : Field := ⟨offCluDeccnt i, 32, 32⟩
def fCluDeccnt_fmt (i : Nat) : Field := ⟨offCluDeccnt i, 0, 16⟩
def fCluKvcnt_commits (i : Nat) : Field := ⟨offCluKvcnt i, 16, 16⟩
def fCluKvcnt_returned (i : Nat) : Field := ⟨offCluKvcnt i, 0, 16⟩
def fSbfCtl_en (i : Nat) : Field := ⟨offSbfCtl i, 31, 1⟩
def fSbfCtl_clean (i : Nat) : Field := ⟨offSbfCtl i, 30, 1⟩
def fSbfCtl_noinv (i : Nat) : Field := ⟨offSbfCtl i, 29, 1⟩
def fSbfWaydis_mask (i : Nat) : Field := ⟨offSbfWaydis i, 0, 16⟩
def fSbfWaystat_inv (i : Nat) : Field := ⟨offSbfWaystat i, 16, 16⟩
def fSbfWaystat_lfail (i : Nat) : Field := ⟨offSbfWaystat i, 0, 16⟩
def fSbfCnt_hit (i : Nat) : Field := ⟨offSbfCnt i, 32, 32⟩
def fSbfCnt_miss (i : Nat) : Field := ⟨offSbfCnt i, 0, 32⟩
def fSbfCfg_scrub : Field := ⟨offSbfCfg, 31, 1⟩
def fSbfCfg_scrubm : Field := ⟨offSbfCfg, 20, 11⟩
def fSbfCfg_pfage : Field := ⟨offSbfCfg, 10, 10⟩
def fSbfCfg_keepmax : Field := ⟨offSbfCfg, 5, 5⟩
def fSbfScr_busy : Field := ⟨offSbfScr, 31, 1⟩
def fSbfScr_err : Field := ⟨offSbfScr, 30, 1⟩
def fSbfScr_ways : Field := ⟨offSbfScr, 0, 4⟩
def fSbfMaint_go : Field := ⟨offSbfMaint, 31, 1⟩
def fSbfMaint_busy : Field := ⟨offSbfMaint, 30, 1⟩
def fSbfMaint_err : Field := ⟨offSbfMaint, 29, 1⟩
def fSbfMaint_key : Field := ⟨offSbfMaint, 16, 6⟩
def fSbfMaint_slice : Field := ⟨offSbfMaint, 8, 5⟩
def fSbfMaint_all : Field := ⟨offSbfMaint, 7, 1⟩
def fSbfMaint_scope : Field := ⟨offSbfMaint, 4, 3⟩
def fSbfMaint_op : Field := ⟨offSbfMaint, 0, 4⟩
def fSbfMainta_base : Field := ⟨offSbfMainta, 8, 40⟩
def fSbfMaintl_pasid : Field := ⟨offSbfMaintl, 44, 20⟩
def fSbfMaintl_len : Field := ⟨offSbfMaintl, 0, 40⟩
def fSbfScrgrant_zeroing (i : Nat) : Field := ⟨offSbfScrgrant i, 31, 1⟩
def fSbfScrgrant_owner (i : Nat) : Field := ⟨offSbfScrgrant i, 0, 5⟩
def fQosClass_guar (i : Nat) : Field := ⟨offQosClass i, 16, 14⟩
def fQosClass_ways (i : Nat) : Field := ⟨offQosClass i, 11, 5⟩
def fQosClass_qshare (i : Nat) : Field := ⟨offQosClass i, 6, 5⟩
def fQosClass_prio (i : Nat) : Field := ⟨offQosClass i, 3, 3⟩
def fQosWin_cur : Field := ⟨offQosWin, 16, 10⟩
def fQosWin_us : Field := ⟨offQosWin, 0, 10⟩
def fQosMissstat_lost : Field := ⟨offQosMissstat, 16, 16⟩
def fQosMissstat_gerr : Field := ⟨offQosMissstat, 15, 1⟩
def fQosMissstat_tail : Field := ⟨offQosMissstat, 8, 7⟩
def fQosMissstat_head : Field := ⟨offQosMissstat, 0, 7⟩
def fQosCnt_bytes (i : Nat) : Field := ⟨offQosCnt i, 0, 48⟩
def fCmdSqbase_base (i : Nat) : Field := ⟨offCmdSqbase i, 12, 52⟩
def fCmdCqbase_base (i : Nat) : Field := ⟨offCmdCqbase i, 12, 52⟩
def fCmdSqcfg_en (i : Nat) : Field := ⟨offCmdSqcfg i, 63, 1⟩
def fCmdSqcfg_pasen (i : Nat) : Field := ⟨offCmdSqcfg i, 62, 1⟩
def fCmdSqcfg_key (i : Nat) : Field := ⟨offCmdSqcfg i, 56, 6⟩
def fCmdSqcfg_part (i : Nat) : Field := ⟨offCmdSqcfg i, 52, 4⟩
def fCmdSqcfg_fn (i : Nat) : Field := ⟨offCmdSqcfg i, 47, 5⟩
def fCmdSqcfg_depth (i : Nat) : Field := ⟨offCmdSqcfg i, 40, 7⟩
def fCmdSqcfg_lsize (i : Nat) : Field := ⟨offCmdSqcfg i, 36, 4⟩
def fCmdSqcfg_pasid (i : Nat) : Field := ⟨offCmdSqcfg i, 0, 20⟩
def fCmdSqstat_halt (i : Nat) : Field := ⟨offCmdSqstat i, 63, 1⟩
def fCmdSqstat_dberr (i : Nat) : Field := ⟨offCmdSqstat i, 62, 1⟩
def fCmdSqstat_cqfull (i : Nat) : Field := ⟨offCmdSqstat i, 61, 1⟩
def fCmdSqstat_inflight (i : Nat) : Field := ⟨offCmdSqstat i, 40, 7⟩
def fCmdSqstat_laststat (i : Nat) : Field := ⟨offCmdSqstat i, 32, 8⟩
def fCmdSqstat_nextseq (i : Nat) : Field := ⟨offCmdSqstat i, 0, 32⟩
def fCmdBar4_part : Field := ⟨offCmdBar4, 60, 4⟩
def fCmdBar4_key : Field := ⟨offCmdBar4, 54, 6⟩
def fCmdBar4_base : Field := ⟨offCmdBar4, 36, 12⟩
def fCmdPrito_ms : Field := ⟨offCmdPrito, 0, 16⟩
def fLnkCasc_pos : Field := ⟨offLnkCasc, 58, 6⟩
def fLnkCasc_master : Field := ⟨offLnkCasc, 57, 1⟩
def fLnkCasc_topo : Field := ⟨offLnkCasc, 53, 4⟩
def fLnkCasc_ndev : Field := ⟨offLnkCasc, 47, 6⟩
def fLnkCasc_autodet : Field := ⟨offLnkCasc, 46, 1⟩
def fLnkCasc_extgo : Field := ⟨offLnkCasc, 45, 1⟩
def fLnkCasc_cpart : Field := ⟨offLnkCasc, 16, 16⟩
def fLnkCasc_bdelay : Field := ⟨offLnkCasc, 0, 16⟩
def fLnkPstat_state (i : Nat) : Field := ⟨offLnkPstat i, 61, 3⟩
def fLnkPstat_ppos (i : Nat) : Field := ⟨offLnkPstat i, 55, 6⟩
def fLnkPstat_pport (i : Nat) : Field := ⟨offLnkPstat i, 52, 3⟩
def fLnkPstat_lost (i : Nat) : Field := ⟨offLnkPstat i, 51, 1⟩
def fLnkPstat_down (i : Nat) : Field := ⟨offLnkPstat i, 50, 1⟩
def fLnkPstat_cause (i : Nat) : Field := ⟨offLnkPstat i, 47, 3⟩
def fLnkPstat_trains (i : Nat) : Field := ⟨offLnkPstat i, 0, 32⟩
def fLnkLat_c12 (i : Nat) : Field := ⟨offLnkLat i, 52, 12⟩
def fLnkLat_c16 (i : Nat) : Field := ⟨offLnkLat i, 40, 12⟩
def fLnkLat_c18 (i : Nat) : Field := ⟨offLnkLat i, 28, 12⟩
def fLnkLat_c20 (i : Nat) : Field := ⟨offLnkLat i, 16, 12⟩
def fLnkLat_ns (i : Nat) : Field := ⟨offLnkLat i, 0, 16⟩
def fLnkPcfg_part (i : Nat) : Field := ⟨offLnkPcfg i, 28, 4⟩
def fLnkPcfg_own (i : Nat) : Field := ⟨offLnkPcfg i, 27, 1⟩
def fLnkPcfg_thru (i : Nat) : Field := ⟨offLnkPcfg i, 26, 1⟩
def fLnkPcfg_src (i : Nat) : Field := ⟨offLnkPcfg i, 23, 3⟩
def fLnkPcfg_op (i : Nat) : Field := ⟨offLnkPcfg i, 20, 3⟩
def fLnkFeccnt_ucw (i : Nat) : Field := ⟨offLnkFeccnt i, 48, 16⟩
def fLnkFeccnt_lostf (i : Nat) : Field := ⟨offLnkFeccnt i, 32, 16⟩
def fLnkFeccnt_corr (i : Nat) : Field := ⟨offLnkFeccnt i, 0, 32⟩
def fLnkWait_waits (i : Nat) : Field := ⟨offLnkWait i, 32, 32⟩
def fLnkWait_pauses (i : Nat) : Field := ⟨offLnkWait i, 0, 32⟩
def fLnkRoute_valid (i : Nat) : Field := ⟨offLnkRoute i, 31, 1⟩
def fLnkRoute_port (i : Nat) : Field := ⟨offLnkRoute i, 0, 3⟩
def fLnkQfwd_target (i : Nat) : Field := ⟨offLnkQfwd i, 0, 7⟩
def fLnkDetour_digest (i : Nat) : Field := ⟨offLnkDetour i, 192, 64⟩
def fLnkDetour_list (i : Nat) : Field := ⟨offLnkDetour i, 96, 48⟩
def fLnkDetour_count (i : Nat) : Field := ⟨offLnkDetour i, 64, 32⟩
def fLnkDetour_valid (i : Nat) : Field := ⟨offLnkDetour i, 63, 1⟩
def fLnkDetour_ready (i : Nat) : Field := ⟨offLnkDetour i, 62, 1⟩
def fLnkDetour_err (i : Nat) : Field := ⟨offLnkDetour i, 61, 1⟩
def fLnkDetour_pos (i : Nat) : Field := ⟨offLnkDetour i, 55, 6⟩
def fLnkDetour_port (i : Nat) : Field := ⟨offLnkDetour i, 52, 3⟩
def fLnkMbx_go : Field := ⟨offLnkMbx, 31, 1⟩
def fLnkMbx_busy : Field := ⟨offLnkMbx, 30, 1⟩
def fLnkMbx_rxv : Field := ⟨offLnkMbx, 29, 1⟩
def fLnkMbx_fail : Field := ⟨offLnkMbx, 28, 1⟩
def fLnkMbx_dest : Field := ⟨offLnkMbx, 21, 7⟩
def fLnkMbx_len : Field := ⟨offLnkMbx, 15, 6⟩
def fLnkMbx_rsrc : Field := ⟨offLnkMbx, 8, 7⟩
def fLnkMbx_coll : Field := ⟨offLnkMbx, 0, 8⟩
def fBseTime_ns : Field := ⟨offBseTime, 0, 64⟩
def fSecStat_state : Field := ⟨offSecStat, 62, 2⟩
def fSecStat_sess : Field := ⟨offSecStat, 56, 6⟩
def fSecStat_svnmin : Field := ⟨offSecStat, 32, 16⟩
def fSecStat_svncp : Field := ⟨offSecStat, 16, 16⟩
def fSecStat_svnrind : Field := ⟨offSecStat, 0, 16⟩
def fSecPbind_conf (i : Nat) : Field := ⟨offSecPbind i, 63, 1⟩
def fSecPbind_tdi (i : Nat) : Field := ⟨offSecPbind i, 61, 2⟩
def fSecPbind_dbg (i : Nat) : Field := ⟨offSecPbind i, 60, 1⟩
def fSecPbind_trc (i : Nat) : Field := ⟨offSecPbind i, 59, 1⟩
def fSecPbind_dkey (i : Nat) : Field := ⟨offSecPbind i, 26, 6⟩
def fSecPbind_pasid (i : Nat) : Field := ⟨offSecPbind i, 0, 20⟩
def fSecSlot_state (i : Nat) : Field := ⟨offSecSlot i, 30, 2⟩
def fSecSlot_part (i : Nat) : Field := ⟨offSecSlot i, 26, 4⟩
def fSecSlot_gen (i : Nat) : Field := ⟨offSecSlot i, 0, 16⟩
def fSecFtgrant_busy (i : Nat) : Field := ⟨offSecFtgrant i, 31, 1⟩
def fSecFtgrant_owner (i : Nat) : Field := ⟨offSecFtgrant i, 0, 5⟩
def fAudWseq_seq : Field := ⟨offAudWseq, 0, 64⟩
def fAudRd_rd : Field := ⟨offAudRd, 0, 64⟩
def fAudStat_gap : Field := ⟨offAudStat, 31, 1⟩
def fAudStat_sealerr : Field := ⟨offAudStat, 30, 1⟩
def fAudStat_ckrdy : Field := ⟨offAudStat, 29, 1⟩
def fAudStat_cksel : Field := ⟨offAudStat, 0, 11⟩
def fErrStat_lost : Field := ⟨offErrStat, 48, 16⟩
def fErrStat_tail : Field := ⟨offErrStat, 32, 11⟩
def fErrStat_head : Field := ⟨offErrStat, 0, 11⟩
def fErrPolicy_vraise : Field := ⟨offErrPolicy, 31, 1⟩
def fErrPolicy_clkdn : Field := ⟨offErrPolicy, 30, 1⟩
def fErrPolicy_retire : Field := ⟨offErrPolicy, 29, 1⟩
def fErrPolicy_ccexp : Field := ⟨offErrPolicy, 0, 4⟩
def fErrPart_quar (i : Nat) : Field := ⟨offErrPart i, 31, 1⟩
def fErrPart_qact (i : Nat) : Field := ⟨offErrPart i, 30, 1⟩
def fErrPart_clkreq (i : Nat) : Field := ⟨offErrPart i, 29, 1⟩
def fErrPart_events (i : Nat) : Field := ⟨offErrPart i, 0, 16⟩
def fErrFtest_en : Field := ⟨offErrFtest, 63, 1⟩
def fErrFtest_busy : Field := ⟨offErrFtest, 62, 1⟩
def fErrFtest_conc : Field := ⟨offErrFtest, 55, 7⟩
def fErrFtest_core : Field := ⟨offErrFtest, 32, 14⟩
def fErrFtest_sweeps : Field := ⟨offErrFtest, 0, 32⟩
def fErrUnit_level (i : Nat) : Field := ⟨offErrUnit i, 30, 2⟩
def fErrUnit_count (i : Nat) : Field := ⟨offErrUnit i, 0, 16⟩
def fDfmStat_full : Field := ⟨offDfmStat, 31, 1⟩
def fDfmStat_entries : Field := ⟨offDfmStat, 0, 13⟩
def fDfmVpstat_width (i : Nat) : Field := ⟨offDfmVpstat i, 30, 2⟩
def fDfmVpstat_spin (i : Nat) : Field := ⟨offDfmVpstat i, 12, 4⟩
def fDfmVpstat_spout (i : Nat) : Field := ⟨offDfmVpstat i, 8, 4⟩
def fDfmVpstat_retrains (i : Nat) : Field := ⟨offDfmVpstat i, 0, 8⟩
def fMrgDom_g (i : Nat) : Field := ⟨offMrgDom i, 56, 8⟩
def fMrgDom_eraise (i : Nat) : Field := ⟨offMrgDom i, 53, 3⟩
def fMrgDom_fmax (i : Nat) : Field := ⟨offMrgDom i, 51, 2⟩
def fMrgDom_smin (i : Nat) : Field := ⟨offMrgDom i, 16, 16⟩
def fMrgDom_splan (i : Nat) : Field := ⟨offMrgDom i, 0, 16⟩
def fMrgStat_replan : Field := ⟨offMrgStat, 63, 1⟩
def fMrgStat_busy : Field := ⟨offMrgStat, 62, 1⟩
def fMrgStat_opsec : Field := ⟨offMrgStat, 0, 32⟩
def fPwrDomctl_pwr (i : Nat) : Field := ⟨offPwrDomctl i, 48, 16⟩
def fPwrDomctl_state (i : Nat) : Field := ⟨offPwrDomctl i, 30, 2⟩
def fPwrDomctl_req (i : Nat) : Field := ⟨offPwrDomctl i, 28, 2⟩
def fPwrDomctl_auto (i : Nat) : Field := ⟨offPwrDomctl i, 27, 1⟩
def fPwrDomctl_idle (i : Nat) : Field := ⟨offPwrDomctl i, 16, 10⟩
def fPwrDomctl_mv (i : Nat) : Field := ⟨offPwrDomctl i, 0, 11⟩
def fPwrPclk_cur (i : Nat) : Field := ⟨offPwrPclk i, 30, 2⟩
def fPwrPclk_plan (i : Nat) : Field := ⟨offPwrPclk i, 28, 2⟩
def fPwrPclk_lim (i : Nat) : Field := ⟨offPwrPclk i, 26, 2⟩
def fPwrPclk_ramp (i : Nat) : Field := ⟨offPwrPclk i, 25, 1⟩
def fPwrPclk_therm (i : Nat) : Field := ⟨offPwrPclk i, 24, 1⟩
def fPwrPclk_cap (i : Nat) : Field := ⟨offPwrPclk i, 23, 1⟩
def fPwrPclk_prio (i : Nat) : Field := ⟨offPwrPclk i, 20, 3⟩
def fPwrPclk_pest (i : Nat) : Field := ⟨offPwrPclk i, 0, 12⟩
def fPwrCap_limit : Field := ⟨offPwrCap, 52, 12⟩
def fPwrCap_floor : Field := ⟨offPwrCap, 40, 12⟩
def fPwrCap_pkg : Field := ⟨offPwrCap, 28, 12⟩
def fPwrCap_ballast : Field := ⟨offPwrCap, 18, 10⟩
def fPwrCap_stepov : Field := ⟨offPwrCap, 1, 1⟩
def fPwrCap_trip : Field := ⟨offPwrCap, 0, 1⟩
def fPwrPfstat_state : Field := ⟨offPwrPfstat, 30, 2⟩
def fPwrPfstat_a : Field := ⟨offPwrPfstat, 29, 1⟩
def fPwrPfstat_b : Field := ⟨offPwrPfstat, 28, 1⟩
def fPwrPfstat_relay : Field := ⟨offPwrPfstat, 27, 1⟩
def fPwrPfstat_disc : Field := ⟨offPwrPfstat, 0, 16⟩
def fThmNode_valid (i : Nat) : Field := ⟨offThmNode i, 31, 1⟩
def fThmNode_brk (i : Nat) : Field := ⟨offThmNode i, 30, 1⟩
def fThmNode_act (i : Nat) : Field := ⟨offThmNode i, 28, 2⟩
def fThmNode_rate (i : Nat) : Field := ⟨offThmNode i, 16, 12⟩
def fThmNode_est (i : Nat) : Field := ⟨offThmNode i, 0, 16⟩
def fThmCfg_ntgt : Field := ⟨offThmCfg, 24, 8⟩
def fThmCfg_ctgt : Field := ⟨offThmCfg, 16, 8⟩
def fThmCfg_btgt : Field := ⟨offThmCfg, 8, 8⟩
def fThmCfg_alert : Field := ⟨offThmCfg, 0, 1⟩
def fTrcCtl_en (i : Nat) : Field := ⟨offTrcCtl i, 31, 1⟩
def fTrcCtl_gated (i : Nat) : Field := ⟨offTrcCtl i, 30, 1⟩
def fTrcCtl_class (i : Nat) : Field := ⟨offTrcCtl i, 27, 3⟩
def fTrcCtl_src (i : Nat) : Field := ⟨offTrcCtl i, 0, 8⟩
def fTrcDest_lsize (i : Nat) : Field := ⟨offTrcDest i, 60, 4⟩
def fTrcDest_base (i : Nat) : Field := ⟨offTrcDest i, 12, 36⟩
def fTrcStat_wptr (i : Nat) : Field := ⟨offTrcStat i, 32, 32⟩
def fTrcStat_lost (i : Nat) : Field := ⟨offTrcStat i, 16, 16⟩
def fTrcStat_derr (i : Nat) : Field := ⟨offTrcStat i, 0, 1⟩
def fBseBoot_stage : Field := ⟨offBseBoot, 60, 4⟩
def fBseBoot_fast : Field := ⟨offBseBoot, 59, 1⟩
def fBseBoot_cmd : Field := ⟨offBseBoot, 58, 1⟩
def fBseBoot_degr : Field := ⟨offBseBoot, 57, 1⟩
def fBseBoot_cready : Field := ⟨offBseBoot, 56, 1⟩
def fBseBoot_dirty : Field := ⟨offBseBoot, 55, 1⟩
def fBseBoot_err : Field := ⟨offBseBoot, 48, 7⟩
def fBseBoot_fstage : Field := ⟨offBseBoot, 44, 4⟩
def fBseBoot_newdef : Field := ⟨offBseBoot, 32, 8⟩
def fBseBoot_ms : Field := ⟨offBseBoot, 0, 32⟩
def fBseStrap_pos : Field := ⟨offBseStrap, 26, 6⟩
def fBseStrap_role : Field := ⟨offBseStrap, 25, 1⟩
def fBseStrap_fast : Field := ⟨offBseStrap, 24, 1⟩
def fBseStrap_agree : Field := ⟨offBseStrap, 23, 1⟩
def fBsePhase_cur : Field := ⟨offBsePhase, 30, 2⟩
def fBsePhase_req : Field := ⟨offBsePhase, 28, 2⟩
def fBsePhase_casc : Field := ⟨offBsePhase, 27, 1⟩
def fBsePhase_err : Field := ⟨offBsePhase, 26, 1⟩
def fBseFwdist_mode : Field := ⟨offBseFwdist, 31, 1⟩
def fBseFwdist_busy : Field := ⟨offBseFwdist, 30, 1⟩
def fBseFwpend_pend : Field := ⟨offBseFwpend, 0, 64⟩
def fBseRecov_go : Field := ⟨offBseRecov, 31, 1⟩
def fBseRecov_busy : Field := ⟨offBseRecov, 30, 1⟩
def fBseRecov_ok : Field := ⟨offBseRecov, 29, 1⟩
def fBseRecov_err : Field := ⟨offBseRecov, 28, 1⟩
def fBseRecov_kind : Field := ⟨offBseRecov, 26, 2⟩
def fBseRecov_len : Field := ⟨offBseRecov, 0, 14⟩
def fBseCap_cores : Field := ⟨offBseCap, 49, 15⟩
def fBseCap_clus : Field := ⟨offBseCap, 39, 10⟩
def fBseCap_far : Field := ⟨offBseCap, 38, 1⟩
def fBseCap_ways : Field := ⟨offBseCap, 33, 5⟩
def fBseCap_cgen : Field := ⟨offBseCap, 29, 4⟩
def fBseCapclu_state (i : Nat) : Field := ⟨offBseCapclu i, 30, 2⟩
def fBseCapclu_vport (i : Nat) : Field := ⟨offBseCapclu i, 28, 2⟩
def fBseCapclu_fmax (i : Nat) : Field := ⟨offBseCapclu i, 26, 2⟩
def fBseCapclu_ncore (i : Nat) : Field := ⟨offBseCapclu i, 0, 6⟩
def fBseCapbr_unus : Field := ⟨offBseCapbr, 0, 32⟩
def fBsePinstat_refloss : Field := ⟨offBsePinstat, 31, 1⟩
def fBsePinstat_perst : Field := ⟨offBsePinstat, 16, 1⟩
def fBsePinstat_sb : Field := ⟨offBsePinstat, 0, 16⟩

/-- The register tables, part 1. -/
def regTable1 : List RegSpec := [
  ⟨.bseId, 0x0, [], 32, .powerOn, [⟨16, 16, .ro, 1046, .none, false⟩, ⟨12, 4, .ro, 1, .none, false⟩, ⟨8, 4, .ro, 0, .none, false⟩, ⟨4, 4, .ro, 1, .none, false⟩]⟩,
  ⟨.coreCvt, 0x1200040, [(0x400000, 4), (0x80, 4096)], 32, .core, [⟨1, 1, .rw, 0, .none, false⟩, ⟨0, 1, .rw, 1, .none, false⟩]⟩,
  ⟨.coreFpflag, 0x1200044, [(0x400000, 4), (0x80, 4096)], 32, .core, [⟨4, 1, .w1c, 0, .none, false⟩, ⟨3, 1, .w1c, 0, .none, false⟩, ⟨2, 1, .w1c, 0, .none, false⟩, ⟨1, 1, .w1c, 0, .none, false⟩, ⟨0, 1, .w1c, 0, .none, false⟩]⟩,
  ⟨.coreSrstate, 0x1200048, [(0x400000, 4), (0x80, 4096)], 32, .core, [⟨0, 32, .rw, 0, .range 1 4294967295, false⟩]⟩,
  ⟨.coreId, 0x1200000, [(0x400000, 4), (0x80, 4096)], 32, .powerOn, [⟨0, 14, .ro, 0, .none, false⟩]⟩,
  ⟨.coreStat, 0x1200008, [(0x400000, 4), (0x80, 4096)], 32, .core, [⟨21, 3, .ro, 0, .none, false⟩, ⟨20, 1, .ro, 0, .none, false⟩, ⟨16, 4, .ro, 0, .none, false⟩, ⟨0, 11, .ro, 0, .none, false⟩]⟩,
  ⟨.coreArrstat0, 0x1200010, [(0x400000, 4), (0x80, 4096)], 32, .core, [⟨16, 3, .ro, 0, .none, false⟩, ⟨12, 4, .ro, 0, .none, false⟩, ⟨10, 2, .ro, 0, .none, false⟩, ⟨9, 1, .ro, 0, .none, false⟩, ⟨8, 1, .ro, 0, .none, false⟩, ⟨0, 1, .w1c, 0, .none, false⟩]⟩,
  ⟨.coreArrstat1, 0x1200014, [(0x400000, 4), (0x80, 4096)], 32, .core, [⟨16, 3, .ro, 0, .none, false⟩, ⟨12, 4, .ro, 0, .none, false⟩, ⟨10, 2, .ro, 0, .none, false⟩, ⟨9, 1, .ro, 0, .none, false⟩, ⟨8, 1, .ro, 0, .none, false⟩, ⟨0, 1, .w1c, 0, .none, false⟩]⟩,
  ⟨.coreReserr, 0x1200018, [(0x400000, 4), (0x80, 4096)], 32, .device, [⟨16, 16, .rw, 0, .none, true⟩, ⟨0, 16, .rw, 0, .none, true⟩]⟩,
  ⟨.coreCmstall, 0x120001c, [(0x400000, 4), (0x80, 4096)], 32, .core, [⟨0, 32, .rw, 0, .none, true⟩]⟩,
  ⟨.cluId, 0x1100000, [(0x400000, 4), (0x1000, 128)], 32, .powerOn, [⟨16, 9, .ro, 0, .none, false⟩, ⟨14, 2, .ro, 0, .none, false⟩, ⟨12, 2, .ro, 0, .none, false⟩, ⟨8, 4, .ro, 0, .none, false⟩, ⟨4, 3, .ro, 0, .none, false⟩]⟩,
  ⟨.cluCfg, 0x1100004, [(0x400000, 4), (0x1000, 128)], 32, .cluster, [⟨31, 1, .w1s, 0, .none, false⟩, ⟨4, 1, .rwl, 0, .none, false⟩, ⟨0, 4, .rwl, 0, .none, false⟩]⟩,
  ⟨.cluCoremap, 0x1100008, [(0x400000, 4), (0x1000, 128)], 32, .device, [⟨0, 32, .ro, 0, .none, false⟩]⟩,
  ⟨.cluMerge, 0x1100010, [(0x400000, 4), (0x1000, 128)], 32, .cluster, [⟨0, 32, .rw, 0, .none, true⟩]⟩,
  ⟨.cluConflict, 0x1100014, [(0x400000, 4), (0x1000, 128)], 32, .cluster, [⟨0, 32, .rw, 0, .none, true⟩]⟩,
  ⟨.coreEntry, 0x1200050, [(0x400000, 4), (0x80, 4096)], 32, .cluster, [⟨0, 11, .rw, 0, .none, false⟩]⟩,
  ⟨.corePlen, 0x1200054, [(0x400000, 4), (0x80, 4096)], 32, .cluster, [⟨0, 12, .ro, 0, .none, false⟩]⟩,
  ⟨.coreFlags, 0x1200058, [(0x400000, 4), (0x80, 4096)], 32, .core, [⟨24, 8, .ro, 0, .none, false⟩, ⟨0, 24, .ro, 0, .none, false⟩]⟩,
  ⟨.corePcfg, 0x120005c, [(0x400000, 4), (0x80, 4096)], 32, .core, [⟨8, 6, .ro, 12, .none, false⟩, ⟨0, 5, .ro, 16, .none, false⟩]⟩,
  ⟨.coreDbgctl, 0x1200060, [(0x400000, 4), (0x80, 4096)], 32, .core, [⟨31, 1, .wo, 0, .none, false⟩, ⟨30, 1, .wo, 0, .none, false⟩, ⟨29, 1, .wo, 0, .none, false⟩, ⟨28, 1, .rw, 0, .none, false⟩, ⟨27, 1, .ro, 0, .none, false⟩, ⟨0, 11, .rw, 0, .none, false⟩]⟩,
  ⟨.coreDbgsel, 0x1200064, [(0x400000, 4), (0x80, 4096)], 32, .core, [⟨31, 1, .ro, 0, .none, false⟩, ⟨0, 8, .rw, 0, .none, false⟩]⟩,
  ⟨.coreDbgdata, 0x1200068, [(0x400000, 4), (0x80, 4096)], 64, .core, [⟨0, 64, .rw, 0, .none, false⟩]⟩]

/-- The register tables, part 2. -/
def regTable2 : List RegSpec := [
  ⟨.coreBundles, 0x1200070, [(0x400000, 4), (0x80, 4096)], 32, .core, [⟨0, 32, .rw, 0, .none, true⟩]⟩,
  ⟨.coreHoldcnt, 0x1200074, [(0x400000, 4), (0x80, 4096)], 32, .core, [⟨0, 32, .rw, 0, .none, true⟩]⟩,
  ⟨.mshRstat, 0x1100200, [(0x400000, 4), (0x1000, 128)], 64, .cluster, [⟨62, 2, .ro, 0, .none, false⟩, ⟨61, 1, .ro, 0, .none, false⟩, ⟨58, 3, .ro, 0, .none, false⟩, ⟨32, 10, .ro, 0, .none, false⟩, ⟨0, 16, .ro, 0, .none, false⟩]⟩,
  ⟨.mshPrsflag, 0x1100208, [(0x400000, 4), (0x1000, 128)], 32, .cluster, [⟨2, 1, .w1c, 0, .none, false⟩, ⟨1, 1, .w1c, 0, .none, false⟩, ⟨0, 1, .w1c, 0, .none, false⟩]⟩,
  ⟨.mshSkidhw, 0x110020c, [(0x400000, 4), (0x1000, 128)], 32, .cluster, [⟨0, 5, .rw, 0, .none, true⟩]⟩,
  ⟨.mshDgen, 0x1100240, [(0x400000, 4), (0x1000, 128), (0x8, 8)], 64, .cluster, [⟨62, 2, .ro, 0, .none, false⟩, ⟨57, 5, .ro, 0, .none, false⟩, ⟨56, 1, .ro, 0, .none, false⟩, ⟨44, 12, .ro, 0, .none, false⟩, ⟨28, 16, .ro, 0, .none, false⟩, ⟨0, 22, .ro, 0, .none, false⟩]⟩,
  ⟨.mshPctl, 0x20000, [(0x20, 16)], 32, .partition, [⟨30, 2, .ro, 0, .none, false⟩, ⟨29, 1, .ro, 0, .none, false⟩, ⟨23, 6, .ro, 12, .none, false⟩, ⟨22, 1, .ro, 0, .none, false⟩, ⟨21, 1, .ro, 0, .none, false⟩]⟩,
  ⟨.mshPstep, 0x20008, [(0x20, 16)], 64, .partition, [⟨0, 64, .ro, 0, .none, false⟩]⟩,
  ⟨.mshPcyc, 0x20010, [(0x20, 16)], 32, .partition, [⟨0, 32, .ro, 0, .none, false⟩]⟩,
  ⟨.mshRingstat, 0x20400, [], 32, .alwaysOn, [⟨31, 1, .w1c, 0, .none, false⟩, ⟨0, 16, .rw, 0, .none, true⟩]⟩,
  ⟨.ntcChstat, 0x30000, [(0x1000, 8), (0x20, 128)], 32, .device, [⟨30, 2, .ro, 2, .none, false⟩, ⟨23, 7, .ro, 0, .none, false⟩, ⟨19, 4, .ro, 0, .none, false⟩, ⟨12, 7, .ro, 0, .none, false⟩, ⟨11, 1, .ro, 0, .none, false⟩, ⟨10, 1, .ro, 0, .none, false⟩]⟩,
  ⟨.ntcHpcfg, 0x38000, [(0x8, 512)], 32, .device, [⟨0, 4, .rw, 1, .range 1 8, false⟩]⟩,
  ⟨.ntcCtl, 0x39000, [], 32, .device, [⟨22, 10, .rw, 10, .range 1 1000, false⟩, ⟨16, 6, .rw, 24, .range 1 48, false⟩, ⟨8, 8, .rw, 10, .range 1 100, false⟩, ⟨0, 1, .rw, 1, .none, false⟩]⟩,
  ⟨.hbcStat, 0x40000, [(0x100, 8)], 64, .device, [⟨32, 32, .ro, 0, .none, false⟩, ⟨31, 1, .ro, 0, .none, false⟩, ⟨30, 1, .ro, 0, .none, false⟩, ⟨28, 2, .ro, 2, .none, false⟩, ⟨20, 8, .ro, 255, .none, false⟩, ⟨10, 10, .ro, 0, .none, false⟩, ⟨0, 10, .ro, 0, .none, false⟩]⟩,
  ⟨.hbcThrcfg, 0x40008, [(0x100, 8)], 32, .device, [⟨16, 8, .rw, 100, .none, false⟩, ⟨8, 8, .rw, 95, .none, false⟩, ⟨4, 4, .rw, 3, .range 1 15, false⟩]⟩,
  ⟨.hbcLane, 0x41000, [(0x100, 8), (0x8, 32)], 32, .device, [⟨31, 1, .ro, 0, .none, false⟩, ⟨8, 8, .ro, 0, .none, false⟩, ⟨0, 8, .ro, 0, .none, false⟩]⟩,
  ⟨.cluDmastat, 0x1100100, [(0x400000, 4), (0x1000, 128)], 32, .cluster, [⟨22, 10, .ro, 0, .none, false⟩, ⟨18, 4, .ro, 0, .none, false⟩, ⟨17, 1, .ro, 0, .none, false⟩, ⟨16, 1, .ro, 0, .none, false⟩, ⟨8, 8, .ro, 0, .none, false⟩, ⟨2, 1, .w1c, 0, .none, false⟩, ⟨1, 1, .w1c, 0, .none, false⟩, ⟨0, 1, .w1c, 0, .none, false⟩]⟩,
  ⟨.cluDeccnt, 0x1100108, [(0x400000, 4), (0x1000, 128)], 64, .cluster, [⟨32, 32, .rw, 0, .none, true⟩, ⟨0, 16, .rw, 0, .none, true⟩]⟩,
  ⟨.cluKvcnt, 0x1100110, [(0x400000, 4), (0x1000, 128)], 32, .cluster, [⟨16, 16, .rw, 0, .none, true⟩, ⟨0, 16, .rw, 0, .none, true⟩]⟩,
  ⟨.sbfCtl, 0x50000, [(0x100, 32)], 32, .device, [⟨31, 1, .rw, 1, .none, false⟩, ⟨30, 1, .ro, 1, .none, false⟩, ⟨29, 1, .w1c, 0, .none, false⟩]⟩,
  ⟨.sbfWaydis, 0x50008, [(0x100, 32)], 32, .device, [⟨0, 16, .rw, 0, .none, false⟩]⟩,
  ⟨.sbfWaystat, 0x50010, [(0x100, 32)], 32, .device, [⟨16, 16, .ro, 65535, .none, false⟩, ⟨0, 16, .w1c, 0, .none, false⟩]⟩]

/-- The register tables, part 3. -/
def regTable3 : List RegSpec := [
  ⟨.sbfCnt, 0x50020, [(0x100, 32)], 64, .device, [⟨32, 32, .rw, 0, .none, true⟩, ⟨0, 32, .rw, 0, .none, true⟩]⟩,
  ⟨.sbfCfg, 0x52000, [], 32, .device, [⟨31, 1, .rw, 1, .none, false⟩, ⟨20, 11, .rw, 60, .range 10 1440, false⟩, ⟨10, 10, .rw, 100, .range 1 1000, false⟩, ⟨5, 5, .rw, 8, .range 0 16, false⟩]⟩,
  ⟨.sbfScr, 0x52008, [], 32, .device, [⟨31, 1, .ro, 0, .none, false⟩, ⟨30, 1, .w1c, 0, .none, false⟩, ⟨0, 4, .rw, 0, .none, false⟩]⟩,
  ⟨.sbfMaint, 0x52010, [], 32, .device, [⟨31, 1, .w1s, 0, .none, false⟩, ⟨30, 1, .ro, 0, .none, false⟩, ⟨29, 1, .w1c, 0, .none, false⟩, ⟨16, 6, .rw, 0, .none, false⟩, ⟨8, 5, .rw, 0, .none, false⟩, ⟨7, 1, .rw, 0, .none, false⟩, ⟨4, 3, .rw, 0, .none, false⟩, ⟨0, 4, .rw, 0, .none, false⟩]⟩,
  ⟨.sbfMainta, 0x52018, [], 64, .device, [⟨8, 40, .rw, 0, .none, false⟩]⟩,
  ⟨.sbfMaintl, 0x52020, [], 64, .device, [⟨44, 20, .rw, 0, .none, false⟩, ⟨0, 40, .rw, 0, .none, false⟩]⟩,
  ⟨.sbfScrgrant, 0x52100, [(0x4, 96)], 32, .device, [⟨31, 1, .ro, 0, .none, false⟩, ⟨0, 5, .rw, 31, .owner, false⟩]⟩,
  ⟨.qosClass, 0x60000, [(0x100, 16), (0x10, 8)], 32, .device, [⟨16, 14, .rw, 0, .none, false⟩, ⟨11, 5, .rw, 16, .range 0 16, false⟩, ⟨6, 5, .rw, 16, .share, false⟩, ⟨3, 3, .rw, 1, .range 1 3, false⟩]⟩,
  ⟨.qosWin, 0x61000, [], 32, .device, [⟨16, 10, .ro, 10, .none, false⟩, ⟨0, 10, .rw, 10, .range 1 1000, false⟩]⟩,
  ⟨.qosMissstat, 0x61008, [], 32, .device, [⟨16, 16, .rw, 0, .none, true⟩, ⟨15, 1, .w1c, 0, .none, false⟩, ⟨8, 7, .ro, 0, .none, false⟩, ⟨0, 7, .rw, 0, .none, true⟩]⟩,
  ⟨.qosCnt, 0x68000, [(0x400, 40), (0x40, 16), (0x8, 8)], 64, .device, [⟨0, 48, .rw, 0, .none, true⟩]⟩,
  ⟨.cmdSqbase, 0x80000, [(0x40, 64)], 64, .device, [⟨12, 52, .rw, 0, .none, false⟩]⟩,
  ⟨.cmdCqbase, 0x80008, [(0x40, 64)], 64, .device, [⟨12, 52, .rw, 0, .none, false⟩]⟩,
  ⟨.cmdSqcfg, 0x80010, [(0x40, 64)], 64, .device, [⟨63, 1, .rw, 0, .none, false⟩, ⟨62, 1, .rw, 0, .none, false⟩, ⟨56, 6, .rw, 0, .none, false⟩, ⟨52, 4, .rw, 0, .none, false⟩, ⟨47, 5, .rw, 0, .over 16 0, false⟩, ⟨40, 7, .rw, 64, .range 1 64, false⟩, ⟨36, 4, .rw, 6, .range 6 12, false⟩, ⟨0, 20, .rw, 0, .none, false⟩]⟩,
  ⟨.cmdSqstat, 0x80018, [(0x40, 64)], 64, .device, [⟨63, 1, .w1c, 0, .none, false⟩, ⟨62, 1, .w1c, 0, .none, false⟩, ⟨61, 1, .ro, 0, .none, false⟩, ⟨40, 7, .ro, 0, .none, false⟩, ⟨32, 8, .ro, 0, .none, false⟩, ⟨0, 32, .ro, 0, .none, false⟩]⟩,
  ⟨.cmdBar4, 0x81000, [], 64, .device, [⟨60, 4, .rw, 0, .none, false⟩, ⟨54, 6, .rw, 0, .none, false⟩, ⟨36, 12, .rw, 0, .none, false⟩]⟩,
  ⟨.cmdPrito, 0x81008, [], 32, .device, [⟨0, 16, .rw, 100, .range 1 65535, false⟩]⟩,
  ⟨.lnkCasc, 0x90000, [], 64, .device, [⟨58, 6, .ro, 0, .none, false⟩, ⟨57, 1, .ro, 0, .none, false⟩, ⟨53, 4, .rw, 0, .none, false⟩, ⟨47, 6, .rw, 0, .none, false⟩, ⟨46, 1, .rw, 0, .none, false⟩, ⟨45, 1, .rw, 0, .none, false⟩, ⟨16, 16, .rw, 0, .none, false⟩, ⟨0, 16, .ro, 0, .none, false⟩]⟩,
  ⟨.lnkPstat, 0x90100, [(0x100, 8)], 64, .device, [⟨61, 3, .ro, 0, .none, false⟩, ⟨55, 6, .ro, 0, .none, false⟩, ⟨52, 3, .ro, 0, .none, false⟩, ⟨51, 1, .w1c, 0, .none, false⟩, ⟨50, 1, .w1c, 0, .none, false⟩, ⟨47, 3, .ro, 0, .none, false⟩, ⟨0, 32, .rw, 0, .none, true⟩]⟩,
  ⟨.lnkLat, 0x90108, [(0x100, 8)], 64, .device, [⟨52, 12, .ro, 0, .none, false⟩, ⟨40, 12, .ro, 0, .none, false⟩, ⟨28, 12, .ro, 0, .none, false⟩, ⟨16, 12, .ro, 0, .none, false⟩, ⟨0, 16, .ro, 0, .none, false⟩]⟩,
  ⟨.lnkPcfg, 0x90110, [(0x100, 8)], 32, .device, [⟨28, 4, .ro, 0, .none, false⟩, ⟨27, 1, .ro, 0, .none, false⟩, ⟨26, 1, .rw, 0, .none, false⟩, ⟨23, 3, .rw, 0, .none, false⟩, ⟨20, 3, .rw, 0, .none, false⟩]⟩,
  ⟨.lnkFeccnt, 0x90118, [(0x100, 8)], 64, .device, [⟨48, 16, .rw, 0, .none, true⟩, ⟨32, 16, .rw, 0, .none, true⟩, ⟨0, 32, .rw, 0, .none, true⟩]⟩]

/-- The register tables, part 4. -/
def regTable4 : List RegSpec := [
  ⟨.lnkWait, 0x90120, [(0x100, 8)], 64, .device, [⟨32, 32, .rw, 0, .none, true⟩, ⟨0, 32, .rw, 0, .none, true⟩]⟩,
  ⟨.lnkRoute, 0x91000, [(0x4, 64)], 32, .device, [⟨31, 1, .rw, 0, .none, false⟩, ⟨0, 3, .rw, 0, .none, false⟩]⟩,
  ⟨.lnkQfwd, 0x91200, [(0x4, 64)], 32, .device, [⟨0, 7, .rw, 0, .over 63 0, false⟩]⟩,
  ⟨.lnkDetour, 0x91400, [(0x20, 32)], 256, .device, [⟨192, 64, .ro, 0, .none, false⟩, ⟨96, 48, .rw, 0, .none, false⟩, ⟨64, 32, .rw, 0, .none, false⟩, ⟨63, 1, .rw, 0, .none, false⟩, ⟨62, 1, .ro, 0, .none, false⟩, ⟨61, 1, .w1c, 0, .none, false⟩, ⟨55, 6, .rw, 0, .none, false⟩, ⟨52, 3, .rw, 0, .none, false⟩]⟩,
  ⟨.lnkMbx, 0x92000, [], 32, .device, [⟨31, 1, .w1s, 0, .none, false⟩, ⟨30, 1, .ro, 0, .none, false⟩, ⟨29, 1, .w1c, 0, .none, false⟩, ⟨28, 1, .w1c, 0, .none, false⟩, ⟨21, 7, .rw, 0, .none, false⟩, ⟨15, 6, .rw, 0, .none, false⟩, ⟨8, 7, .ro, 0, .none, false⟩, ⟨0, 8, .rw, 0, .none, true⟩]⟩,
  ⟨.bseTime, 0x48, [], 64, .alwaysOn, [⟨0, 64, .ro, 0, .none, false⟩]⟩,
  ⟨.secStat, 0xa0000, [], 64, .device, [⟨62, 2, .ro, 0, .none, false⟩, ⟨56, 6, .ro, 0, .none, false⟩, ⟨32, 16, .ro, 0, .none, false⟩, ⟨16, 16, .ro, 0, .none, false⟩, ⟨0, 16, .ro, 0, .none, false⟩]⟩,
  ⟨.secPbind, 0xa0100, [(0x10, 16)], 64, .device, [⟨63, 1, .ro, 0, .none, false⟩, ⟨61, 2, .ro, 0, .none, false⟩, ⟨60, 1, .ro, 0, .none, false⟩, ⟨59, 1, .ro, 0, .none, false⟩, ⟨26, 6, .rw, 0, .none, false⟩, ⟨0, 20, .rw, 0, .none, false⟩]⟩,
  ⟨.secSlot, 0xa0400, [(0x8, 64)], 32, .device, [⟨30, 2, .ro, 0, .none, false⟩, ⟨26, 4, .ro, 0, .none, false⟩, ⟨0, 16, .ro, 0, .none, false⟩]⟩,
  ⟨.secFtgrant, 0xa1000, [(0x4, 384)], 32, .device, [⟨31, 1, .ro, 0, .none, false⟩, ⟨0, 5, .rw, 31, .owner, false⟩]⟩,
  ⟨.audWseq, 0xb0000, [], 64, .device, [⟨0, 64, .ro, 0, .none, false⟩]⟩,
  ⟨.audRd, 0xb0008, [], 64, .device, [⟨0, 64, .rw, 0, .none, true⟩]⟩,
  ⟨.audStat, 0xb0010, [], 32, .device, [⟨31, 1, .ro, 0, .none, false⟩, ⟨30, 1, .w1c, 0, .none, false⟩, ⟨29, 1, .ro, 0, .none, false⟩, ⟨0, 11, .rw, 0, .none, false⟩]⟩,
  ⟨.errStat, 0xc0000, [], 64, .device, [⟨48, 16, .rw, 0, .none, true⟩, ⟨32, 11, .ro, 0, .none, false⟩, ⟨0, 11, .rw, 0, .none, false⟩]⟩,
  ⟨.errPolicy, 0xc0008, [], 32, .device, [⟨31, 1, .rw, 1, .none, false⟩, ⟨30, 1, .rw, 1, .none, false⟩, ⟨29, 1, .rw, 1, .none, false⟩, ⟨0, 4, .rw, 8, .none, false⟩]⟩,
  ⟨.errPart, 0xc0100, [(0x8, 16)], 32, .partition, [⟨31, 1, .rw, 0, .none, false⟩, ⟨30, 1, .ro, 0, .none, false⟩, ⟨29, 1, .w1c, 0, .none, false⟩, ⟨0, 16, .rw, 0, .none, true⟩]⟩,
  ⟨.errFtest, 0xc0200, [], 64, .device, [⟨63, 1, .rw, 0, .none, false⟩, ⟨62, 1, .ro, 0, .none, false⟩, ⟨55, 7, .rw, 1, .range 1 64, false⟩, ⟨32, 14, .rw, 0, .none, false⟩, ⟨0, 32, .rw, 0, .none, true⟩]⟩,
  ⟨.errUnit, 0x100000, [(0x4, 19464)], 32, .device, [⟨30, 2, .ro, 0, .none, false⟩, ⟨0, 16, .rw, 0, .none, true⟩]⟩,
  ⟨.errUnit, 0x113040, [(0x4, 93)], 32, .device, [⟨30, 2, .ro, 0, .none, false⟩, ⟨0, 16, .rw, 0, .none, true⟩]⟩,
  ⟨.dfmStat, 0xd0000, [], 32, .device, [⟨31, 1, .ro, 0, .none, false⟩, ⟨0, 13, .ro, 0, .none, false⟩]⟩,
  ⟨.dfmVpstat, 0xd1000, [(0x4, 512)], 32, .device, [⟨30, 2, .ro, 0, .none, false⟩, ⟨12, 4, .ro, 0, .none, false⟩, ⟨8, 4, .ro, 0, .none, false⟩, ⟨0, 8, .rw, 0, .none, true⟩]⟩,
  ⟨.mrgDom, 0xe0000, [(0x10, 100)], 64, .device, [⟨56, 8, .ro, 0, .none, false⟩, ⟨53, 3, .ro, 0, .none, false⟩, ⟨51, 2, .ro, 0, .none, false⟩, ⟨16, 16, .ro, 65535, .none, false⟩, ⟨0, 16, .ro, 0, .none, false⟩]⟩,
  ⟨.mrgStat, 0xe1000, [], 64, .device, [⟨63, 1, .w1s, 0, .none, false⟩, ⟨62, 1, .ro, 0, .none, false⟩, ⟨0, 32, .ro, 0, .none, false⟩]⟩]

/-- The register tables, part 5. -/
def regTable5 : List RegSpec := [
  ⟨.pwrDomctl, 0x140000, [(0x10, 100)], 64, .device, [⟨48, 16, .ro, 0, .none, false⟩, ⟨30, 2, .ro, 0, .none, false⟩, ⟨28, 2, .rw, 0, .none, false⟩, ⟨27, 1, .rw, 0, .none, false⟩, ⟨16, 10, .rw, 100, .range 1 1023, false⟩, ⟨0, 11, .ro, 0, .none, false⟩]⟩,
  ⟨.pwrPclk, 0x141000, [(0x10, 16)], 32, .device, [⟨30, 2, .ro, 0, .none, false⟩, ⟨28, 2, .rw, 0, .none, false⟩, ⟨26, 2, .ro, 0, .none, false⟩, ⟨25, 1, .ro, 0, .none, false⟩, ⟨24, 1, .ro, 0, .none, false⟩, ⟨23, 1, .ro, 0, .none, false⟩, ⟨20, 3, .rw, 0, .none, false⟩, ⟨0, 12, .ro, 0, .none, false⟩]⟩,
  ⟨.pwrCap, 0x142000, [], 64, .device, [⟨52, 12, .rw, 1500, .range 200 1500, false⟩, ⟨40, 12, .ro, 0, .none, false⟩, ⟨28, 12, .ro, 0, .none, false⟩, ⟨18, 10, .ro, 0, .none, false⟩, ⟨1, 1, .w1c, 0, .none, false⟩, ⟨0, 1, .w1c, 0, .none, false⟩]⟩,
  ⟨.pwrPfstat, 0x142008, [], 32, .alwaysOn, [⟨30, 2, .ro, 0, .none, false⟩, ⟨29, 1, .ro, 0, .none, false⟩, ⟨28, 1, .ro, 0, .none, false⟩, ⟨27, 1, .ro, 0, .none, false⟩, ⟨0, 16, .rw, 0, .none, true⟩]⟩,
  ⟨.thmNode, 0x160000, [(0x8, 376)], 32, .device, [⟨31, 1, .ro, 0, .none, false⟩, ⟨30, 1, .ro, 0, .none, false⟩, ⟨28, 2, .ro, 0, .none, false⟩, ⟨16, 12, .ro, 0, .none, false⟩, ⟨0, 16, .ro, 0, .none, false⟩]⟩,
  ⟨.thmCfg, 0x161000, [], 32, .device, [⟨24, 8, .rw, 90, .range 85 94, false⟩, ⟨16, 8, .rw, 100, .range 90 105, false⟩, ⟨8, 8, .rw, 95, .range 85 100, false⟩, ⟨0, 1, .ro, 1, .none, false⟩]⟩,
  ⟨.trcCtl, 0x1100300, [(0x400000, 4), (0x1000, 128)], 32, .device, [⟨31, 1, .rw, 0, .none, false⟩, ⟨30, 1, .ro, 0, .none, false⟩, ⟨27, 3, .rw, 5, .over 5 5, false⟩, ⟨0, 8, .rw, 0, .none, false⟩]⟩,
  ⟨.trcDest, 0x1100308, [(0x400000, 4), (0x1000, 128)], 64, .device, [⟨60, 4, .rw, 0, .range 0 10, false⟩, ⟨12, 36, .rw, 0, .none, false⟩]⟩,
  ⟨.trcStat, 0x1100310, [(0x400000, 4), (0x1000, 128)], 64, .device, [⟨32, 32, .ro, 0, .none, false⟩, ⟨16, 16, .rw, 0, .none, true⟩, ⟨0, 1, .w1c, 0, .none, false⟩]⟩,
  ⟨.bseBoot, 0x8, [], 64, .device, [⟨60, 4, .ro, 0, .none, false⟩, ⟨59, 1, .ro, 0, .none, false⟩, ⟨58, 1, .ro, 0, .none, false⟩, ⟨57, 1, .ro, 0, .none, false⟩, ⟨56, 1, .ro, 0, .none, false⟩, ⟨55, 1, .ro, 0, .none, false⟩, ⟨48, 7, .ro, 0, .none, false⟩, ⟨44, 4, .ro, 0, .none, false⟩, ⟨32, 8, .ro, 0, .none, false⟩, ⟨0, 32, .ro, 0, .none, false⟩]⟩,
  ⟨.bseStrap, 0x10, [], 32, .device, [⟨26, 6, .ro, 0, .none, false⟩, ⟨25, 1, .ro, 0, .none, false⟩, ⟨24, 1, .ro, 0, .none, false⟩, ⟨23, 1, .ro, 0, .none, false⟩]⟩,
  ⟨.bsePhase, 0x18, [], 32, .device, [⟨30, 2, .ro, 0, .none, false⟩, ⟨28, 2, .rw, 0, .none, false⟩, ⟨27, 1, .rw, 0, .none, false⟩, ⟨26, 1, .w1c, 0, .none, false⟩]⟩,
  ⟨.bseFwdist, 0x20, [], 32, .device, [⟨31, 1, .rw, 0, .none, false⟩, ⟨30, 1, .ro, 0, .none, false⟩]⟩,
  ⟨.bseFwpend, 0x28, [], 64, .device, [⟨0, 64, .ro, 0, .none, false⟩]⟩,
  ⟨.bseRecov, 0x30, [], 32, .device, [⟨31, 1, .w1s, 0, .none, false⟩, ⟨30, 1, .ro, 0, .none, false⟩, ⟨29, 1, .ro, 0, .none, false⟩, ⟨28, 1, .w1c, 0, .none, false⟩, ⟨26, 2, .rw, 0, .none, false⟩, ⟨0, 14, .rw, 0, .range 1 8192, false⟩]⟩,
  ⟨.bseCap, 0x100, [], 64, .device, [⟨49, 15, .ro, 0, .none, false⟩, ⟨39, 10, .ro, 0, .none, false⟩, ⟨38, 1, .ro, 0, .none, false⟩, ⟨33, 5, .ro, 0, .none, false⟩, ⟨29, 4, .ro, 1, .none, false⟩]⟩,
  ⟨.bseCapclu, 0x1000, [(0x4, 512)], 32, .device, [⟨30, 2, .ro, 0, .none, false⟩, ⟨28, 2, .ro, 0, .none, false⟩, ⟨26, 2, .ro, 0, .none, false⟩, ⟨0, 6, .ro, 0, .none, false⟩]⟩,
  ⟨.bseCapbr, 0x108, [], 32, .device, [⟨0, 32, .ro, 0, .none, false⟩]⟩,
  ⟨.bsePinstat, 0x40, [], 32, .alwaysOn, [⟨31, 1, .w1c, 0, .none, false⟩, ⟨16, 1, .ro, 0, .none, false⟩, ⟨0, 16, .ro, 0, .none, false⟩]⟩]

/-- Every register the manual gives. -/
def regTable : List RegSpec := regTable1 ++ regTable2 ++ regTable3 ++ regTable4 ++ regTable5

end Sys2Proof.Machine
end

