-- ==== Sys2Proof/Machine/SecState.lean ====
section
/-! DEFINITION. State of Rind: sessions, owners, digests, the audit log and its checkpoints, and writes held before the end
of BASE (chapter "Security: Rind, owners and keys", R372). Plain data. -/
namespace Sys2Proof.Machine

/-- A secured session (R298, R299): its number, the DEVTIME of its last heartbeat, the number of the key drawn for it, the key
updates since, and its transcript hash. -/
structure Session where
  id : Nat
  seen : Nat
  key : Nat := 0
  gen : Nat := 0
  transcript : BitVec 384 := 0
deriving DecidableEq, Repr

/-- Capabilities and algorithms of Table 11-3. -/
inductive SpdmCap where
  | cert | chal | meas | keyEx | encrypt | mac | keyUpd | hbeat | chunk
deriving DecidableEq, Repr
inductive SpdmAlg where
  | ecdsaP384 | sha384 | ecdheSecp384r1 | aes256Gcm
deriving DecidableEq, Repr

/-- The interface report of a TDI (R302): base and size of the VF's BARs, the partition and its masks of clusters, link ports, scratch
and far-tier blocks, its PASID, the SVNs in force, and measurement blocks 1 to 6. -/
structure IfReport where
  bars : List (Nat × Nat)
  part : Nat
  clusters : Nat
  ports : Nat
  scratch : Nat
  far : Nat
  pasid : Nat
  svns : List Nat
  meas : List (BitVec 384)
deriving DecidableEq, Repr

/-- What an answer of Rind says beside measurement blocks and a signature (Table 11-3, R299, R301). -/
inductive DoeBody where
  | none
  | busy
  | version (major minor : Nat)
  | capabilities (cs : List SpdmCap)
  | algorithms (cs : List SpdmAlg)
  | certs (cs : List (List Byte))
  | report (r : IfReport)
  | tdi (st : Nat)
  | text (bs : List Byte)
  | part (n : Nat)
deriving DecidableEq, Repr

/-- An answer of Rind on the DOE mailbox (R297 to R301): the session it is for, whether it is an error, the measurement blocks it
carries, the bytes of its signature, what else it says, and in a secured session the number and generation of the key that encrypts and
authenticates it. -/
structure DoeRsp where
  sid : Nat
  ok : Bool
  blocks : List (Nat × BitVec 384) := []
  sig : Option (List Byte) := .none
  body : DoeBody := .none
  sealedBy : Option (Nat × Nat) := .none
deriving DecidableEq, Repr

/-- Rind's private keys (R293): identity and alias keys of ECDSA P-384 and of ML-DSA-87. -/
structure RindKeys where
  idEc : BitVec 384
  idMl : BitVec 384
  alEc : BitVec 384
  alMl : BitVec 384
deriving DecidableEq, Repr

/-- A BAR0 write held before the end of BASE (R372): DEVTIME of arrival, function, offset, width, value. -/
structure Held where
  time : Nat
  fn : Nat
  off : Nat
  w : Nat
  v : Nat
deriving DecidableEq, Repr

/-- What an audit entry says (Table 11-8); its number and DEVTIME are given when it is written, or the DEVTIME is that of a
held write. -/
structure AEnt where
  kind : Nat
  origin : Nat := 2
  member : Nat := 0
  fn : Nat := 0
  part : Nat := 0xFF
  pasid : Option Nat := none
  target : Nat := 0
  old : Nat := 0
  new : Nat := 0
  mask : Nat := 0
  time : Option Nat := none
deriving DecidableEq, Repr

/-- A checkpoint record (Table 11-9). -/
structure Ckpt where
  k : Nat
  time : Nat
  last : Nat
  h : BitVec 384
  prev : BitVec 384
  part : Bool
  sig : BitVec 768
deriving DecidableEq, Repr

/-- The audit log (R312 to R316). live says that the ring is in use; early holds the entries due before that. wseq and rd
are AUD_WSEQ and AUD_RD, kept in flash. gap: first and last lost number of the gap record at index wseq; freed: the host has
freed a slot meanwhile. buf holds the entries since the last full checkpoint, h the last full checkpoint's digest; ckpts
the records in flash by k mod 2,048, done the last number sealed. stamp is the DEVTIME of a held write that takes effect
(R372). -/
structure Aud where
  live : Bool := false
  early : List AEnt := []
  wseq : Nat := 0
  rd : Nat := 0
  gap : Option (Nat × Nat) := none
  freed : Bool := false
  buf : List (BitVec 512) := []
  h : BitVec 384 := 0
  ckpts : Tab Ckpt := []
  done : Nat := 0
  ready : Bool := false
  stamp : Option Nat := none
deriving DecidableEq, Repr

/-- Rind: open sessions, the session that owns each partition (R301), running digests of loads (R309), interface reports (R302),
measurement blocks 1 to 4 (Table 11-2), the last digest loaded by target (R313), keys of the IDE streams
(R300), held writes with the number of those lost (R372), its answers, and its keys once they are derived (R293). -/
structure Sec where
  sessions : List Session := []
  owners : Tab Nat := []
  loads : Tab (BitVec 384) := []
  reports : Tab IfReport := []
  meas : Tab (BitVec 384) := []
  imgs : Tab Nat := []
  ide : Tab Nat := []
  held : List Held := []
  heldLost : Nat := 0
  doe : List DoeRsp := []
  keys : Option RindKeys := none
deriving DecidableEq, Repr

/-- A unit that RESET_UNIT resets and that has not left reset (R387, R388): kind, index, the entry that asked, the DEVTIME
of its start, and for a segment whether it has been absorbed. -/
structure RJob where
  kind : Nat
  idx : Nat
  q : Nat
  seq : Nat
  start : Nat
  absorbed : Bool := false
deriving DecidableEq, Repr

/-- A field test in progress (R326 to R329): unit kind and index of Table 12-3, test code, the SELF_TEST entry that asked or
none for a sweep, the next block, its DEVTIME of start. -/
structure FTest where
  kind : Nat
  idx : Nat
  code : Nat
  entry : Option (Nat × Nat)
  blk : Nat := 0
  start : Nat := 0
deriving DecidableEq, Repr

end Sys2Proof.Machine
end

