-- ==== Sys2Proof/Machine/State.lean ====
section
/-! DEFINITION. The state of the block, its faults and refusals, and the state after power-on reset. -/
namespace Sys2Proof.Machine

/-- Faults. None is raised: the manual gives every command an effect, and error conditions are state (statuses, records,
flags). The constructor is kept so that the type is inhabited and an outcome can be compared. Safe: nothing raises it. -/
inductive Fault where
  | neverRaised
deriving DecidableEq, Repr

/-- Refusals. notModelled: raised only by an arm of exec whose command has no meaning yet; safe, the run stops. -/
inductive Refusal where
  | notModelled (mnemonic : String)
deriving DecidableEq, Repr

structure State where
  pending : List Instr := []
  regs : Tab (BitVec 256) := []
  met : Met := {}
  mem : List Host.Cell := []
  psn : Tab Bool := []
  cores : Tab Core := []
  latches : Tab Latch := []
  banks : Tab Banks := []
  routers : Tab Router := []
  parts : Tab Part := []
  dmas : Tab Dma := []
  gwTx : Tab (List (Nat × Flit)) := []
  queues : Tab Queue := []
  engines : Tab Engine := []
  msix : Tab Bool := []
  msgs : Tab Nat := []
  errs : Errs := {}
  trace : Tab TraceBuf := []
  nears : Tab NearCh := []
  fars : Tab FarCh := []
  slices : Tab BSlice := []
  scrOld : Nat := 0
  walk : Option (Walk × List Nat) := none
  nearCal : Bool := false
  farCal : Bool := false
  hbmOk : Tab Bool := []
  inlet : Option Int := none
  ftPend : Tab Nat := []
  lineKey : Tab Nat := []
  slotKey : Tab Nat := []
  keyCount : Nat := 64
  host : HostPort := {}
  hostMem : Tab (List Host.Cell) := []
  hostPsn : Tab (Tab Bool) := []
  asks : List Ask := []
  askTag : Nat := 0
  rsp : Tab Rsp := []
  ctlq : Tab (List (BitVec 64)) := []
  linkTx : Tab (List Pkt) := []
  links : Links := {}
  upsets : Upsets := {}
  outReqs : List OutReq := []
  waiting : List Instr := []
  qos : Qos := {}
  sec : Sec := {}
  aud : Aud := {}
  pwr : Pwr := {}
  ring : Ring := {}
  boot : Boot := {}
  rjobs : List RJob := []
  ftests : List FTest := []
  fwd : Tab Fwd := []
  lastQ : Nat := 63
  devtime : BitVec 64 := 0
  half : Bool := false
  free : Nat := 0
deriving DecidableEq, Repr

def State.reset : State := {}

end Sys2Proof.Machine
end

