-- ==== Sys2Proof/Machine/Ops.lean ====
section
/-! DEFINITION. Named operations over sparse tables, memory bytes, registers and the parts of the state, and the numbers
that name parts (Table 0-8). -/
namespace Sys2Proof.Machine

/-! Sparse tables. -/

/-- The entry of a key, if listed. -/
def tfind {α : Type} (t : Tab α) (k : Nat) : Option α :=
  match t with
  | [] => none
  | (j, v) :: r => if j = k then some v else tfind r k

/-- The value of a key, d where none is listed. -/
def tget {α : Type} (d : α) (t : Tab α) (k : Nat) : α := (tfind t k).getD d

/-- A table without a key. -/
def terase {α : Type} (t : Tab α) (k : Nat) : Tab α := t.filter fun e => decide (e.1 ≠ k)

/-- Insertion in order of keys. -/
def tinsert {α : Type} (k : Nat) (v : α) : Tab α → Tab α
  | [] => [(k, v)]
  | e :: r => if k < e.1 then (k, v) :: e :: r else e :: tinsert k v r

/-- A table with a key's value replaced. -/
def tset {α : Type} (t : Tab α) (k : Nat) (v : α) : Tab α := tinsert k v (terase t k)

/-! Memory bytes: sorted, no zero entry; an unlisted byte reads zero (log entry 2). -/

/-- The canonical form: addresses strictly rise and no listed byte is zero. -/
def Memory.wf : List Host.Cell → Bool
  | [] => true
  | [(_, b)] => decide (b ≠ 0)
  | (a, b) :: (a', b') :: r => decide (a < a') && decide (b ≠ 0) && Memory.wf ((a', b') :: r)

/-- One byte. -/
def memGet (m : List Host.Cell) (a : Nat) : Byte := tget 0 m a

/-- One byte written; a zero byte leaves no entry. -/
def memSet (m : List Host.Cell) (a : Nat) (b : Byte) : List Host.Cell :=
  if b = 0 then terase m a else tset m a b

/-- n bytes from an address, little-endian (R10). -/
def memRead (m : List Host.Cell) (a : Nat) : Nat → Nat
  | 0 => 0
  | n + 1 => (memGet m a).toNat + 256 * memRead m (a + 1) n

/-- n bytes of a value written from an address, little-endian (R10). -/
def memWrite (m : List Host.Cell) (a : Nat) : Nat → Nat → List Host.Cell
  | 0, _ => m
  | n + 1, x => memWrite (memSet m a (BitVec.ofNat 8 x)) (a + 1) n (x / 256)

/-- Whether any 32-byte piece that n bytes from a touch is marked poisoned. -/
def psnAny (t : Tab Bool) (a n : Nat) : Bool :=
  (List.range ((a + n - 1) / 32 - a / 32 + 1)).any fun i => tget false t (a / 32 + i)

/-- Marks or clears every piece that n bytes from a touch. -/
def psnSet (t : Tab Bool) (a n : Nat) (b : Bool) : Tab Bool :=
  (List.range ((a + n - 1) / 32 - a / 32 + 1)).foldl
    (fun t i => if b then tset t (a / 32 + i) true else terase t (a / 32 + i)) t

/-- Bytes of a number, least significant first. -/
def bytesOf : Nat → Nat → List Byte
  | 0, _ => []
  | n + 1, x => BitVec.ofNat 8 x :: bytesOf n (x / 256)

/-- The number of a list of bytes, least significant first. -/
def natOf : List Byte → Nat
  | [] => 0
  | b :: bs => b.toNat + 256 * natOf bs

/-- Field of w bits at bit lo of a number. -/
def bits (x lo w : Nat) : Nat := x / 2 ^ lo % 2 ^ w

/-- x with its field of w bits at lo replaced. -/
def putBits (x lo w v : Nat) : Nat :=
  x % 2 ^ lo + 2 ^ lo * (v % 2 ^ w) + 2 ^ (lo + w) * (x / 2 ^ (lo + w))

/-- Increment that stops at a limit. -/
def satAdd (lim x n : Nat) : Nat := min lim (x + n)

/-! Identifiers (R12, R18, R19, R347). -/

/-- Cluster of a global core. -/
def clusterOfCore (c : Nat) : Nat := c / 32
/-- Compute die of a global cluster. -/
def dieOf (cl : Nat) : Nat := cl / 128
def colOf (cl : Nat) : Nat := cl % 128 % 16
def rowOf (cl : Nat) : Nat := cl % 128 / 16
/-- Quadrant of a cluster within its die (R18). -/
def quadOf (cl : Nat) : Nat := 2 * (rowOf cl / 4) + colOf cl / 8
/-- Global column and row (R19). -/
def gcolOf (cl : Nat) : Nat := 16 * (dieOf cl % 2) + colOf cl
def growOf (cl : Nat) : Nat := 8 * (dieOf cl / 2) + rowOf cl
/-- The cluster at a global column and row. -/
def clusterAt (gc gr : Nat) : Nat := 128 * (2 * (gr / 8) + gc / 16) + 16 * (gr % 8) + gc % 16
/-- Compute power domain of a cluster (Table 13-1). -/
def domainOf (cl : Nat) : Nat := 16 * dieOf cl + 4 * quadOf cl + rowOf cl % 4

/-! Registers. -/

/-- Instance number of an offset counted from a register's base. -/
def dimIndex : List (Nat × Nat) → Nat → Option Nat
  | [], rem => if rem = 0 then some 0 else none
  | (st, n) :: ds, rem =>
    if rem / st < n then
      match dimIndex ds (rem % st) with
      | some j => some (rem / st * (ds.map (·.2)).foldl (· * ·) 1 + j)
      | none => none
    else none

/-- The register and instance at an offset. -/
def regFindIn : List RegSpec → Nat → Option (RegSpec × Nat)
  | [], _ => none
  | r :: rs, off =>
    if r.base ≤ off then
      match dimIndex r.dims (off - r.base) with
      | some i => some (r, i)
      | none => regFindIn rs off
    else regFindIn rs off

def regFind (off : Nat) : Option (RegSpec × Nat) := regFindIn regTable off

/-- Word of a register whose fields hold their table reset values. -/
def fieldsReset : List FieldSpec → Nat
  | [] => 0
  | f :: fs => f.rst * 2 ^ f.lo + fieldsReset fs

/-- Plan voltage in mV of a domain at 2.0 GHz with no guard band and no raise (Table 13-3). -/
def nominalMv (d clk : Nat) : Nat :=
  if d < 64 then (match clk with | 0 => 750 | 1 => 710 | 2 => 670 | _ => 600)
  else if d < 68 then 750
  else if d < 72 then 1100
  else if d < 88 then 750
  else if d < 96 then 800
  else if d < 99 then 750
  else 800

/-- Reset word of instance i of a register (R14); fuse, strap and flash values as log entry 7 names them. -/
def specReset (r : RegSpec) (i : Nat) : Nat :=
  match r.name with
  | .bseId => putBits (fieldsReset r.fields) 4 4 1
  | .bseCap => putBits (fieldsReset r.fields) 29 4 1
  | .coreSrstate => i + 1
  | .coreId => i
  | .cluId => i * 2 ^ 16 + dieOf i * 2 ^ 14 + quadOf i * 2 ^ 12 + colOf i * 2 ^ 8 + rowOf i * 2 ^ 4
  | .pwrDomctl => putBits (fieldsReset r.fields) 0 11 (nominalMv i 0)
  | .thmNode =>
    putBits (fieldsReset r.fields) 0 16 (128 * (if i < 256 then 100 else if i < 368 then 95 else 95))
  | .secSlot => if i = 63 then putBits (fieldsReset r.fields) 30 2 1 else fieldsReset r.fields
  | _ => fieldsReset r.fields

/-- Reset word of a register offset. -/
def resetWord (off : Nat) : BitVec 256 :=
  match regFind off with
  | some (r, i) => BitVec.ofNat 256 (specReset r i)
  | none => 0

/-- The stored word of a register instance. -/
def State.reg (s : State) (off : Nat) : BitVec 256 :=
  match tfind s.regs off with
  | some v => v
  | none => resetWord off

def State.setReg (s : State) (off : Nat) (v : BitVec 256) : State := { s with regs := tset s.regs off v }

/-- A field of a register instance. -/
def rf (s : State) (f : Field) : Nat := bits (s.reg f.off).toNat f.lo f.w

/-- A field written by the hardware. -/
def wf (s : State) (f : Field) (v : Nat) : State :=
  s.setReg f.off (BitVec.ofNat 256 (putBits (s.reg f.off).toNat f.lo f.w v))

/-- The hardware's actions on a register are kept for the rest of the cycle, for a software write that meets them (R8). -/
def metSet (s : State) (f : Field) (m : Nat) : State :=
  { s with met := { s.met with set := tset s.met.set f.off (Nat.lor (tget 0 s.met.set f.off) (m * 2 ^ f.lo)) } }
def metInc (s : State) (f : Field) (n : Nat) (sat : Bool) : State :=
  let k := 512 * f.off + f.lo
  { s with met := { s.met with inc := tset s.met.inc k ((tget (0, sat) s.met.inc k).1 + n, sat) } }

/-- Whether the hardware has set a bit in this cycle: a write that would clear it leaves it set (R8). -/
def metHas (s : State) (f : Field) : Bool := decide (bits (tget 0 s.met.set f.off) f.lo f.w ≠ 0)

/-- A one-bit field. -/
def rb (s : State) (f : Field) : Bool := rf s f == 1
def setB (s : State) (f : Field) : State := metSet (wf s f 1) f 1
def clrB (s : State) (f : Field) : State := wf s f 0

/-- A counter that wraps at its width. -/
def incWrap (s : State) (f : Field) (n : Nat) : State := metInc (wf s f (rf s f + n)) f n false
/-- A counter that saturates at its width (R9). -/
def incSat (s : State) (f : Field) (n : Nat) : State := metInc (wf s f (satAdd (2 ^ f.w - 1) (rf s f) n)) f n true

/-- A control field that the hardware writes: a value that software wrote in the same cycle is kept (R8). -/
def hwf (s : State) (f : Field) (v : Nat) : State :=
  if bits (tget 0 s.met.sw f.off) f.lo f.w = 0 then wf s f v else s

/-! Parts of the state. -/

def State.core (s : State) (c : Nat) : Core := tget {} s.cores c
def State.setCore (s : State) (c : Nat) (k : Core) : State := { s with cores := tset s.cores c k }
def State.router (s : State) (cl : Nat) : Router := tget {} s.routers cl
def State.setRouter (s : State) (cl : Nat) (r : Router) : State := { s with routers := tset s.routers cl r }
def State.part (s : State) (p : Nat) : Part := tget {} s.parts p
def State.setPart (s : State) (p : Nat) (x : Part) : State := { s with parts := tset s.parts p x }
def State.dma (s : State) (cl : Nat) : Dma := tget {} s.dmas cl
def State.setDma (s : State) (cl : Nat) (x : Dma) : State := { s with dmas := tset s.dmas cl x }
def State.queue (s : State) (q : Nat) : Queue := tget {} s.queues q
def State.setQueue (s : State) (q : Nat) (x : Queue) : State := { s with queues := tset s.queues q x }
def State.engine (s : State) (e : Nat) : Engine := tget {} s.engines e
def State.setEngine (s : State) (e : Nat) (x : Engine) : State := { s with engines := tset s.engines e x }
def State.traceBuf (s : State) (cl : Nat) : TraceBuf := tget {} s.trace cl
def State.setTraceBuf (s : State) (cl : Nat) (x : TraceBuf) : State := { s with trace := tset s.trace cl x }

/-- The next commands of the device's own sequencers go to the back of the queue. -/
def State.emit (s : State) (cs : List Instr) : State := { s with pending := s.pending ++ cs }

/-- Commands that waited go back to the front of the queue, oldest first. -/
def wake (s : State) : State := { s with pending := s.waiting ++ s.pending, waiting := [] }

/-- An open value of w bits, each different from the earlier ones (log entry 3). -/
def State.draw (s : State) (w : Nat) : BitVec w × State :=
  (Config.freeBits w s.free, { s with free := s.free + 1 })

/-- An array of a core. -/
def Core.arr (k : Core) (a : Nat) : Arr := if a = 0 then k.arr0 else k.arr1
def Core.setArr (k : Core) (a : Nat) (x : Arr) : Core := if a = 0 then { k with arr0 := x } else { k with arr1 := x }

/-! Clusters and partitions. -/

/-- The partition a cluster is in service for. -/
def partOfCluster (s : State) (cl : Nat) : Option Nat :=
  if rb s (fCluCfg_en cl) then some (rf s (fCluCfg_part cl)) else none

/-- Clusters in service for a partition. -/
def clustersOf (s : State) (p : Nat) : List Nat :=
  (List.range 512).filter fun cl => decide (partOfCluster s cl = some p)

/-- Cores of a partition. -/
def coresOf (s : State) (p : Nat) : List Nat :=
  (clustersOf s p).flatMap fun cl => (List.range 32).map fun k => 32 * cl + k

/-- Whether the clusters of a partition lie on more than one die (R112). -/
def spans (s : State) (p : Nat) : Bool :=
  match clustersOf s p with
  | [] => false
  | cl :: r => r.any fun c => decide (dieOf c ≠ dieOf cl)

/-- Hold lead of a partition (R112). -/
def holdLead (s : State) (p : Nat) : Nat := if spans s p then 40 else 12

/-- A partition is stopped when no RUN_STEPS is in progress on it. -/
def stopped (s : State) (p : Nat) : Bool := (s.part p).run.isNone

/-- Whether the partition of a cluster is stopped, or the cluster is out of service. -/
def clusterStopped (s : State) (cl : Nat) : Bool :=
  match partOfCluster s cl with
  | some p => stopped s p
  | none => true

/-! The cascade, as far as the rest of the device needs it. -/

/-- Nodes of the host port, the command processor and Rind (Table 5-10, R142). -/
def nodeHost : Nat := 0x238
def nodeCp : Nat := 0x250
def nodeRind : Nat := 0x251

/-- This device's cascade position (R149, R150). -/
def selfPos (s : State) : Nat := rf s fLnkCasc_pos

/-- R273: the port a packet for a position leaves by. -/
def routePort (s : State) (n : Nat) : Option Nat :=
  if rb s (fLnkRoute_valid n) && decide (rf s (fLnkPstat_state (rf s (fLnkRoute_port n))) = 2)
  then some (rf s (fLnkRoute_port n)) else none

/-- A packet joins the send queue of a port (R273). -/
def linkSend (s : State) (p : Nat) (x : Pkt) : State :=
  { s with linkTx := tset s.linkTx p (tget [] s.linkTx p ++ [x]) }

/-- Whether this device is a member of a cascade. -/
def isMember (s : State) : Bool := decide (rf s fLnkCasc_topo ≠ 0) && decide (selfPos s ≠ 0)

/-- A packet between the command processors of two devices; its form is not the manual's (log entry 35). -/
def cpMsg (s : State) (n op imm : Nat) (fl : Flits) (tag addr : Nat) : Pkt :=
  { op := op, dst := 1024 * n + nodeCp, fl := fl
    rq := { src := nodeCp + 1024 * selfPos s, tag := tag, addr := addr, hint := 0, cls := 7, part := 0, key := 0
            pasid := 2 ^ 20, imm := BitVec.ofNat 64 imm } }

/-- R286: an event packet of a member's firmware to the master's, by port p. -/
def toMaster (s : State) (p op : Nat) (imm : Nat) (fl : Flits) : State := linkSend s p (cpMsg s 0 op imm fl 0 0)

/-- A message to the master where this device is a member with a route to it. -/
def tellMaster (s : State) (op imm : Nat) (fl : Flits) : State :=
  match (if isMember s then routePort s 0 else none) with
  | some p => toMaster s p op imm fl
  | none => s

/-- A message of the master to a member. -/
def toMember (s : State) (n op imm : Nat) (fl : Flits) (tag addr : Nat) : State :=
  match routePort s n with
  | some p => linkSend s p (cpMsg s n op imm fl tag addr)
  | none => s

/-- The other positions of the cascade. -/
def members (s : State) : List Nat := (List.range (rf s fLnkCasc_ndev + 1)).filter fun n => decide (n ≠ selfPos s)

/-- R271, R274: whether a partition is cascade-wide. -/
def isCascade (s : State) (p : Nat) : Bool :=
  decide (rf s fLnkCasc_topo ≠ 0) && decide (rf s fLnkCasc_cpart / 2 ^ p % 2 = 1)

/-- The master tells its members that the RUN_STEPS of a cascade partition is over (log entry 89). -/
def tellOver (s : State) (p : Nat) : State :=
  if isMember s || !isCascade s p then s else (members s).foldl (fun s n => toMember s n 0x53 p ⟨0, 0, 0, 0⟩ 0 0) s

/-- MSI-X (R260): a vector of a function is raised, its pending bit set until the message leaves; 0 is PF0, n + 1 is VFn. A vector of
PF0 from 64 on is raised once for the events that meet its pending bit set. A member's events are raised by the master (R286). -/
def irq (s : State) (fn vec : Nat) : State :=
  match (if isMember s && decide (fn = 0 ∧ 64 ≤ vec) then routePort s 0 else none) with
  | some p => toMaster s p 0x43 vec ⟨0, 0, 0, 0⟩
  | none =>
    let v := 128 * fn + vec
    if fn = 0 ∧ 64 ≤ vec ∧ tget false s.msix v then s
    else { s with msix := tset s.msix v true, msgs := tset s.msgs v (tget 0 s.msgs v + 1) }

/-- The messages of the vectors raised leave for the host, and their pending bits clear (log entry 73). -/
def sendMsix (s : State) : State := { s with msix := [] }

end Sys2Proof.Machine
end

