-- ==== Sys2Proof/Machine/Errors.lean ====
section
/-! DEFINITION. Error records, counting, thresholds and the field defect list (R330 to R338, R379), and the trace hook
(R363). -/
namespace Sys2Proof.Machine

/-! Unit numbers (Table 12-6). -/
def unitCore (c : Nat) : Nat := c
def unitCluster (cl : Nat) : Nat := 0x4000 + cl
/-- Near-tier channel c of die e. -/
def unitNear (e c : Nat) : Nat := 0x4200 + 128 * e + c
def unitVport (cl : Nat) : Nat := 0x4600 + cl
def unitWay (s w : Nat) : Nat := 0x4800 + 16 * s + w
def unitFar (p : Nat) : Nat := 0x4A00 + p
def unitLink (p : Nat) : Nat := 0x4C00 + p
def unitEngine (e : Nat) : Nat := 0x4C10 + e
def unitBridge (i : Nat) : Nat := 0x4C20 + i
def unitSlice (s : Nat) : Nat := 0x4C40 + s
def unitHbm (h : Nat) : Nat := 0x4C60 + h
def unitHost : Nat := 0x4C68
def unitCp : Nat := 0x4C69
def unitRind : Nat := 0x4C6A
def unitRing : Nat := 0x4C6B
def unitFlash : Nat := 0x4C6C

/-- The cluster a compute-die or near-tier unit belongs to. -/
def clusterOfUnit (u : Nat) : Option Nat :=
  if u < 0x4000 then some (u / 32)
  else if u < 0x4200 then some (u - 0x4000)
  else if u < 0x4600 then some (128 * ((u - 0x4200) / 128 / 2) + (u - 0x4200) % 128)
  else if u < 0x4800 then some (u - 0x4600)
  else none

/-- The power domain of a unit (Table 13-1). -/
def domainOfUnit (u : Nat) : Nat :=
  if u < 0x4000 then domainOf (u / 32)
  else if u < 0x4200 then domainOf (u - 0x4000)
  else if u < 0x4600 then 68 + (u - 0x4200) / 128 / 2
  else if u < 0x4800 then domainOf (u - 0x4600)
  else if u < 0x4A00 then 72 + (u - 0x4800) / 64
  else if u < 0x4C00 then 80 + (u - 0x4A00) / 64
  else if u < 0x4C08 then 88 + (u - 0x4C00)
  else if u < 0x4C20 then 98
  else if u < 0x4C40 then 64 + (match (u - 0x4C20) / 8 with | 0 => 0 | 1 => 2 | 2 => 0 | _ => 1)
  else if u < 0x4C60 then 72 + (u - 0x4C40) / 4
  else if u < 0x4C68 then 80 + (u - 0x4C60)
  else if u = 0x4C68 then 96
  else if u = 0x4C6A then 97
  else if u = 0x4C6B then 99
  else 98

/-- The partition in service on a unit's cluster. -/
def partOfUnit (s : State) (u : Nat) : Option Nat :=
  match clusterOfUnit u with
  | some cl => partOfCluster s cl
  | none => none

/-- The 64 bytes of a record (Table 12-5). -/
def ErrRec.word (r : ErrRec) : Nat :=
  let f (lo w v : Nat) : Nat := v % 2 ^ w * 2 ^ lo
  f 0 64 r.seq + f 64 64 r.time + f 128 8 r.kind.code + f 136 8 r.status.code +
    (match r.member with | some m => 2 ^ 151 + f 144 6 m | none => 0) + f 152 8 r.part + f 160 16 r.unit +
    f 176 16 r.count + f 192 2 r.level + f 200 8 r.actions + f 256 48 r.addr + f 320 64 r.d1 + f 384 64 r.d2

def ErrKind.ofCode (n : Nat) : ErrKind :=
  match n with
  | 1 => .lineCheck | 2 => .residue | 3 => .corrected | 4 => .uncorrectable | 5 => .fieldTest | 6 => .repair
  | 7 => .link | 8 => .fault | 9 => .time | 10 => .margin | _ => .ring

/-- Statuses by code. -/
def Status.ofCode (n : Nat) : Status :=
  match n with
  | 0 => .ok | 1 => .aborted | 2 => .abortTooLate | 3 => .translationFault | 4 => .accessViolation | 5 => .checkMismatch
  | 6 => .uncorrectable | 7 => .linkDown | 8 => .timeout | 9 => .busy | _ => .invalid

/-- A record from its 64 bytes. -/
def ErrRec.ofWord (x : Nat) : ErrRec :=
  { seq := bits x 0 64, time := bits x 64 64, kind := .ofCode (bits x 128 8), status := .ofCode (bits x 136 8)
    member := if bits x 151 1 = 1 then some (bits x 144 6) else none
    part := bits x 152 8, unit := bits x 160 16, count := bits x 176 16, level := bits x 192 2
    actions := bits x 200 8, addr := bits x 256 48, d1 := bits x 320 64, d2 := bits x 384 64 }

/-- R331, R332: a record enters the queue of 1,024, or is dropped and counted; vectors 64 and 16 of the VF are raised. -/
def logHere (s : State) (r : ErrRec) : State :=
  if (s.errs.written + 2048 - rf s fErrStat_head) % 2048 ≥ 1024 then incSat s fErrStat_lost 1
  else
    let r := { r with seq := s.errs.written }
    let s := { s with errs := { s.errs with recs := (s.errs.recs ++ [r]).drop (s.errs.recs.length - 1023)
                                            written := s.errs.written + 1 } }
    let s := irq s 0 64
    if r.part < 16 then irq s (r.part + 1) 16 else s

/-- A record of this device. A member sends it to the master, while it has a working route (R286, R332). -/
def logRec (s : State) (r : ErrRec) : State :=
  let r := { r with time := s.devtime.toNat, member := if isMember s then some (selfPos s) else none }
  let st := rf s fBseBoot_stage
  let s := if 1 ≤ st ∧ st < 10 then
      { s with boot := { s.boot with traceOut := s.boot.traceOut ++ [BitVec.ofNat 512 { r with seq := s.errs.written }.word] } } else s
  match (if isMember s then routePort s 0 else none) with
  | some p => toMaster s p 0x42 0 ⟨2, BitVec.ofNat 2048 r.word, 0, 0⟩
  | none => logHere s r

/-- R379: an entry joins the field defect list, or raises the flags of the entry for the same unit, kind and location;
a full list takes no new entry. -/
def defectAdd (s : State) (unit kind flags loc : Nat) : State :=
  let ds := s.errs.defects
  let same (d : DefEntry) : Bool := decide (d.unit = unit ∧ d.kind = kind ∧ d.loc = loc)
  if ds.any same then
    { s with errs := { s.errs with
        defects := ds.map fun d => if same d then { d with flags := Nat.lor d.flags flags } else d } }
  else if ds.length < 4096 then
    let s := { s with errs := { s.errs with defects := ds ++ [⟨unit, kind, flags, loc, rf s fMrgStat_opsec⟩] } }
    let s := wf s fDfmStat_entries (ds.length + 1)
    if ds.length + 1 = 4096 then setB s fDfmStat_full else s
  else s

/-- The flags of a defect-list entry. -/
def defectFlags (s : State) (unit kind loc : Nat) : Option Nat :=
  (s.errs.defects.find? fun d => decide (d.unit = unit ∧ d.kind = kind ∧ d.loc = loc)).map (·.flags)

/-- A REPAIR record with its defect-list entry (R330). -/
def repair (s : State) (unit kind flags loc : Nat) : State :=
  let s := defectAdd s unit kind flags loc
  let fl := (defectFlags s unit kind loc).getD flags
  logRec s { kind := .repair, status := .ok, unit := unit, part := (partOfUnit s unit).getD 0xFF
             count := rf s (fErrUnit_count unit), level := rf s (fErrUnit_level unit)
             d1 := kind + 256 * fl, d2 := loc }

/-- DEVTIME of 24 hours, in ns (R334). -/
def day : Nat := 86400 * 10 ^ 9

/-- R334: whether the event now is at least the n-th within 24 h, given the DEVTIMEs of the earlier events, newest
first. -/
def nthWithinDay (now n : Nat) (times : List Nat) : Bool :=
  match times[n - 2]? with
  | some t => decide (now ≤ t + day)
  | none => false

/-! Clocks and voltages (R344, R350, R351). Steps are coded 0 for 2.0 GHz to 3 for 1.2 GHz. -/

/-- CCLK of a step in units of 100 MHz. -/
def clkRate (c : Nat) : Nat := match c with | 0 => 20 | 1 => 18 | 2 => 16 | _ => 12

/-- Compute domains that hold clusters of a partition. -/
def domainsOf (s : State) (p : Nat) : List Nat := ((clustersOf s p).map domainOf).eraseDups

/-- Clusters of a compute domain. -/
def domClusters (d : Nat) : List Nat :=
  if d < 64 then (List.range 512).filter fun cl => decide (domainOf cl = d) else []

/-- R350: the lowest of the limits. -/
def clkLimit (s : State) (p : Nat) : Nat :=
  let x := s.part p
  ((domainsOf s p).map fun d => rf s (fMrgDom_fmax d)).foldl max
    (max (max (rf s (fPwrPclk_plan p)) x.capLim) (max x.thmLim x.errLim))

/-- PWR_PCLK.lim, therm and cap follow the limits. -/
def showLimits (s : State) (p : Nat) : State :=
  let x := s.part p
  let plan := rf s (fPwrPclk_plan p)
  let s := wf s (fPwrPclk_lim p) (clkLimit s p)
  let s := wf s (fPwrPclk_therm p) (bit (decide (plan < x.thmLim)))
  wf s (fPwrPclk_cap p) (bit (decide (plan < x.capLim)))

/-- R336, R351: plan voltage of a domain at a step; raise steps apply while ERR_POLICY.vraise is 1. -/
def planMv (s : State) (d clk : Nat) : Nat :=
  nominalMv d clk + rf s (fMrgDom_g d) + (if rb s fErrPolicy_vraise then 5 * rf s (fMrgDom_eraise d) else 0)

/-- The step a domain runs at: that of a partition on it, or its highest allowed one. -/
def domClk (s : State) (d : Nat) : Nat :=
  match (domClusters d).findSome? (partOfCluster s) with
  | some p => rf s (fPwrPclk_cur p)
  | none => rf s (fMrgDom_fmax d)

/-- R351: a domain's voltage starts towards a value, one mV in a period of ns: 100 for a clock step, 10,000 for a guard band or a
raise; a quicker change on its way stays the quicker. -/
def slewTo (s : State) (d mv period : Nat) : State :=
  let old := tfind s.pwr.slews d
  if rf s (fPwrDomctl_mv d) = mv then { s with pwr := { s.pwr with slews := terase s.pwr.slews d } }
  else if old.any (fun x => decide (x.goal = mv ∧ x.period ≤ period)) then s
  else
    let per := match old with | some x => min x.period period | none => period
    { s with pwr := { s.pwr with slews := tset s.pwr.slews d ⟨mv, per, s.devtime.toNat + per⟩ } }

/-- A guard band or a raise has changed. -/
def slewPlan (s : State) (d : Nat) : State := slewTo s d (planMv s d (domClk s d)) 10000

/-- R337: a level-2 event on a domain asks for a clock reduction of every partition owning a cluster of it. The error
limit of R350 is one step below the clock in force. -/
def clockReduce (s : State) (d : Nat) : State :=
  (List.range 16).foldl (fun s p =>
    if (clustersOf s p).any (fun cl => decide (domainOf cl = d)) && !rb s (fErrPart_clkreq p) then
      let s := setB s (fErrPart_clkreq p)
      showLimits (s.setPart p { s.part p with errLim := min 3 (rf s (fPwrPclk_cur p) + 1) }) p
    else s) s

/-- Maximum voltage of a domain (Table 13-3). -/
def vmaxMv (d : Nat) : Nat :=
  if 68 ≤ d ∧ d < 72 then 1150 else if 88 ≤ d ∧ d < 96 then 900 else if d = 99 then 880 else 850

/-- A record that counts against no unit (FAULT, TIME, MARGIN). -/
def errNote (s : State) (kind : ErrKind) (st : Status) (u addr d1 d2 : Nat) (part : Option Nat) : State :=
  logRec s { kind := kind, status := st, unit := u, part := (part.orElse fun _ => partOfUnit s u).getD 0xFF
             count := rf s (fErrUnit_count u), level := rf s (fErrUnit_level u)
             addr := addr, d1 := d1, d2 := d2 }

/-- R344: the highest allowed clock falls a step while the plan voltage at it exceeds the maximum. -/
def fmaxLower (s : State) (d : Nat) : State :=
  if d < 64 ∧ vmaxMv d < planMv s d (rf s (fMrgDom_fmax d)) ∧ rf s (fMrgDom_fmax d) < 3 then
    let s := wf s (fMrgDom_fmax d) (rf s (fMrgDom_fmax d) + 1)
    let s := errNote s .margin .ok unitCp 0 d (rf s (fMrgDom_smin d)) none
    let s := if rb s fErrPolicy_clkdn then clockReduce s d else s
    (List.range 16).foldl showLimits s
  else s

/-- R336, R344: raise of a domain by one step of 5 mV. -/
def voltRaise (s : State) (d : Nat) : State :=
  slewPlan (fmaxLower (wf s (fMrgDom_eraise d) (rf s (fMrgDom_eraise d) + 1)) d) d

/-- Outcome of the thresholds of Table 12-7 on one counted event: the state, the level reached and the action bits. -/
def thresholds (s : State) (u : Nat) (kind : ErrKind) (times : List Nat) : State × Nat × Nat :=
  let d := domainOfUnit u
  let now := s.devtime.toNat
  if u < 0x4200 then
    let (s, lv, act) :=
      if rf s (fMrgDom_eraise d) < 5 then
        if rb s fErrPolicy_vraise then (voltRaise s d, 1, 1) else (s, 1, 0)
      else if rb s fErrPolicy_clkdn then (clockReduce s d, 2, 2)
      else (s, 2, 0)
    if nthWithinDay now 4 times then
      if rb s fErrPolicy_retire then
        (repair s u (if u < 0x4000 then 1 else 2) 0 0, 3, act + 4 + 32)
      else (s, 3, act)
    else (s, lv, act)
  else if 0x4600 ≤ u ∧ u < 0x4800 then
    if kind = .lineCheck ∧ nthWithinDay now 3 times then
      ({ s with errs := { s.errs with vpDue := s.errs.vpDue ++ [u - 0x4600] } }, 0, 0)
    else (s, 0, 0)
  else if 0x4C20 ≤ u ∧ u < 0x4C40 then
    if kind = .lineCheck ∧ nthWithinDay now 3 times then (defectAdd s u 8 0 0, 0, 4) else (s, 0, 0)
  else if 0x4C10 ≤ u ∧ u < 0x4C20 then
    if nthWithinDay now 3 times then
      let e := u - 0x4C10
      (repair (s.setEngine e { s.engine e with out := true }) u 0xC 0 0, 0, 4 + 32)
    else (s, 0, 0)
  else if 0x4C40 ≤ u ∧ ¬ (0x4C00 ≤ u ∧ u < 0x4C08) then
    if rf s (fMrgDom_eraise d) < 5 && rb s fErrPolicy_vraise then (voltRaise s d, 1, 1) else (s, 0, 0)
  else (s, 0, 0)

/-- The events of a unit advance its count, its partition's count and its event times (R333, R334). -/
def countUnit (s : State) (u : Nat) : State :=
  let s := incSat s (fErrUnit_count u) 1
  let s := match partOfUnit s u with
    | some p => incSat s (fErrPart_events p) 1
    | none => s
  let d := domainOfUnit u
  let c := s.pwr.cave
  let s := { s with pwr := { s.pwr with cave := { c with events := tset c.events d (tget 0 c.events d + 1)
                                                         lastEv := tset c.lastEv d (rf s fMrgStat_opsec) } } }
  { s with errs := { s.errs with times := tset s.errs.times u ((s.devtime.toNat :: tget [] s.errs.times u).take 3) } }

/-- A counted event of a unit with its record: count, thresholds, level, record (R330 to R335). Extra bits of the action
byte are those an action outside the table took. -/
def errEventWith (s : State) (kind : ErrKind) (st : Status) (u addr d1 d2 : Nat) (part : Option Nat) (extra : Nat) :
    State :=
  let old := tget [] s.errs.times u
  let s := countUnit s u
  let (s, lv, act) := thresholds s u kind old
  let s := if rf s (fErrUnit_level u) < lv then wf s (fErrUnit_level u) lv else s
  logRec s { kind := kind, status := st, unit := u, part := (part.orElse fun _ => partOfUnit s u).getD 0xFF
             count := rf s (fErrUnit_count u), level := rf s (fErrUnit_level u), actions := act + extra
             addr := addr, d1 := d1, d2 := d2 }

def errEvent (s : State) (kind : ErrKind) (st : Status) (u addr d1 d2 : Nat) : State :=
  errEventWith s kind st u addr d1 d2 none 0

/-- R322, R330: a corrected error of a memory unit counts, and writes a CORRECTED record at each multiple of
2^ccexp. -/
def corrected (s : State) (u row : Nat) : State :=
  let s := incSat s (fErrUnit_count u) 1
  let n := tget 0 s.errs.corrected u + 1
  let s := { s with errs := { s.errs with corrected := tset s.errs.corrected u n } }
  if n % 2 ^ rf s fErrPolicy_ccexp = 0 then
    logRec s { kind := .corrected, status := .ok, unit := u, part := (partOfUnit s u).getD 0xFF
               count := rf s (fErrUnit_count u), level := rf s (fErrUnit_level u), d1 := n, d2 := row }
  else s

/-- A row event (R334, R335): the row keeps its last three DEVTIMEs, and a unit keeps its 256 most recent rows. The
answer says whether this is at least the second within 24 h. -/
def rowEvent (s : State) (u row : Nat) : State × Bool :=
  let hit (h : RowHist) : Bool := decide (h.unit = u ∧ h.row = row)
  let old := ((s.errs.rows.find? hit).map (·.times)).getD []
  let now := s.devtime.toNat
  let rest := s.errs.rows.filter fun h => !hit h
  let mine := rest.filter fun h => decide (h.unit = u)
  let rest := if 256 ≤ mine.length then
      rest.filter fun h => decide (h.unit ≠ u) || (mine.take 255).contains h
    else rest
  ({ s with errs := { s.errs with rows := ⟨u, row, (now :: old).take 3⟩ :: rest } }, nthWithinDay now 2 old)

/-! Trace (R363). -/

/-- A record of 16 bytes of Table 13-8. -/
def traceRec (time type k payload : Nat) : BitVec 128 :=
  BitVec.ofNat 128 (time % 2 ^ 64 + type * 2 ^ 64 + (k % 32) * 2 ^ 72 + (payload % 2 ^ 32) * 2 ^ 96)

/-- A record joins the cluster's buffer of 1,024; a full buffer loses it (R364). -/
def tracePut (s : State) (cl : Nat) (r : BitVec 128) : State :=
  let b := s.traceBuf cl
  if b.recs.length < 1024 then s.setTraceBuf cl { b with recs := b.recs ++ [r] }
  else incSat (s.setTraceBuf cl { b with lost := b.lost + 1 }) (fTrcStat_lost cl) 1

/-- R304: trace of a confidential partition's clusters is off unless its owner allows it. -/
def traceBarred (s : State) (cl : Nat) : Bool :=
  match partOfCluster s cl with
  | some p => rb s (fSecPbind_conf p) && !rb s (fSecPbind_trc p)
  | none => false

/-- An event of a core, recorded when its type is enabled and the cluster takes events. -/
def traceEv (s : State) (c type payload : Nat) : State :=
  let cl := clusterOfCore c
  if rb s (fTrcCtl_en cl) && !traceBarred s cl && !(s.traceBuf cl).gated && decide (rf s (fTrcCtl_src cl) / 2 ^ (type - 1) % 2 = 1) then
    tracePut s cl (traceRec s.devtime.toNat type (c % 32) payload)
  else s

end Sys2Proof.Machine
end

