-- ==== Sys2Proof/Machine/Formats.lean ====
section
/-! DEFINITION. Number formats and conversion (chapter "Number formats and conversion", R25 to R46): exact values,
rounding, encodings and flags. -/
namespace Sys2Proof.Machine

/-- An exact value: NaN, an infinity, or (-1)^neg * m * 2^e. Zero keeps its sign (R28). -/
inductive Val where
  | nan
  | inf (neg : Bool)
  | fin (neg : Bool) (m : Nat) (e : Int)
deriving DecidableEq, Repr

/-- Sticky flags in the order of Table 2-8: nv dz of uf nx from bit 4 down. -/
abbrev Fl := BitVec 5
def flNone : Fl := 0
def flNv : Fl := 16
def flDz : Fl := 8
def flOf : Fl := 4
def flUf : Fl := 2
def flNx : Fl := 1

/-- Layout of a floating-point element format (Table 2-2): exponent bits, mantissa bits, bias, whether the all-ones
exponent holds infinities and NaNs, and the canonical NaN where the format has one (Table 2-3). -/
structure FFmt where
  eb : Nat
  mb : Nat
  bias : Nat
  hasInf : Bool
  nan : Option Nat
  maxMag : Nat
deriving DecidableEq, Repr

def fp32 : FFmt := ⟨8, 23, 127, true, some 0x7FC00000, 0x7F7FFFFF⟩
def fp16 : FFmt := ⟨5, 10, 15, true, some 0x7E00, 0x7BFF⟩
def bf16 : FFmt := ⟨8, 7, 127, true, some 0x7FC0, 0x7F7F⟩
def e4m3 : FFmt := ⟨4, 3, 7, false, some 0x7F, 0x7E⟩
def e5m2 : FFmt := ⟨5, 2, 15, true, some 0x7E, 0x7B⟩
def e3m2 : FFmt := ⟨3, 2, 3, false, none, 0x1F⟩
def e2m3 : FFmt := ⟨2, 3, 1, false, none, 0x1F⟩
def e2m1 : FFmt := ⟨2, 1, 1, false, none, 0x7⟩

/-- Sign position of a format. -/
def FFmt.signBit (f : FFmt) : Nat := 2 ^ (f.eb + f.mb)
/-- Exponent of the subnormal spacing, 1 - bias - M. -/
def FFmt.qmin (f : FFmt) : Int := 1 - (f.bias : Int) - (f.mb : Int)
/-- Exponent of the spacing in the largest binade. -/
def FFmt.qmax (f : FFmt) : Int := f.qmin + ((f.maxMag / 2 ^ f.mb : Nat) : Int) - 1
/-- FP8 formats, on which CORE_CVT.sat acts (Table 2-6). -/
def FFmt.isFp8 (f : FFmt) : Bool := f.eb + f.mb = 7

/-- R26, R27: the value of an encoding. -/
def FFmt.decode (f : FFmt) (x : Nat) : Val :=
  let neg := decide (x / f.signBit % 2 = 1)
  let mag := x % f.signBit
  if mag ≤ f.maxMag then
    let e := mag / 2 ^ f.mb
    let m := mag % 2 ^ f.mb
    if e = 0 then .fin neg m f.qmin
    else .fin neg (2 ^ f.mb + m) (f.qmin + (e : Int) - 1)
  else if f.hasInf && decide (mag = f.maxMag + 1) then .inf neg
  else .nan

/-- Rounding rule of a conversion (R42, R43): nearest even, or stochastic with the 16 drawn bits r. -/
inductive RMode where
  | rne
  | sr (r : Nat)
deriving DecidableEq, Repr

/-- The integer that m * 2^e (plus something below one unit of m when sticky) rounds to in units of 2^q, and whether
the result is exact. -/
def roundAt (md : RMode) (m : Nat) (e q : Int) (sticky : Bool) : Nat × Bool :=
  if q ≤ e then
    let n := m * 2 ^ (e - q).toNat
    (match md with | .rne => n | .sr _ => n, !sticky)
  else
    let k := (q - e).toNat
    let n := m / 2 ^ k
    let rem := m % 2 ^ k
    let exact := decide (rem = 0) && !sticky
    match md with
    | .rne =>
      let twice := 2 * rem
      let up := decide (2 ^ k < twice) || (decide (twice = 2 ^ k) && (sticky || decide (n % 2 = 1)))
      (if up then n + 1 else n, exact)
    | .sr r =>
      let f := rem * 65536 / 2 ^ k
      (if 65536 ≤ f + r then n + 1 else n, exact)

/-- Floor of log2 of m * 2^e for m > 0. -/
def ilog (m : Nat) (e : Int) : Int := (Nat.log2 m : Int) + e

/-- Spacing exponent at the binade of m * 2^e: the subnormal spacing below the smallest normal, and for stochastic
rounding the largest binade's spacing above it (R43). -/
def FFmt.spacing (f : FFmt) (md : RMode) (m : Nat) (e : Int) : Int :=
  let q := max (ilog m e - (f.mb : Int)) f.qmin
  match md with
  | .rne => q
  | .sr _ => min q f.qmax

/-- Magnitude code of n units of 2^q: the encoding without its sign while it does not exceed maxMag. -/
def FFmt.magCode (f : FFmt) (n : Nat) (q : Int) : Nat := (q - f.qmin).toNat * 2 ^ f.mb + n

/-- R46 uf: whether m * 2^e, rounded with an unbounded exponent, lies below the smallest normal. -/
def FFmt.tiny (f : FFmt) (md : RMode) (m : Nat) (e : Int) (sticky : Bool) : Bool :=
  let q := ilog m e - (f.mb : Int)
  if q ≥ f.qmin then false
  else
    let n := (roundAt md m e q sticky).1
    -- n * 2^q < 2^(qmin + mb)
    decide (n < 2 ^ (f.qmin + (f.mb : Int) - q).toNat)

/-- R42 to R46 and Table 2-6: a value to a floating-point format, with its flags. sticky says that the exact value
exceeds the magnitude of v by less than a unit of its m. -/
def FFmt.encode (f : FFmt) (sat : Bool) (md : RMode) (v : Val) (sticky : Bool := false) : Nat × Fl :=
  let sgn (neg : Bool) : Nat := if neg then f.signBit else 0
  match v with
  | .nan =>
    match f.nan with
    | some x => (x, flNone)
    | none => (0, flNv)
  | .inf neg =>
    if f.hasInf then (sgn neg + (f.maxMag + 1), flNone)
    else
      match f.nan with
      | some x => (if sat then sgn neg + f.maxMag else x, flNv)
      | none => (sgn neg + f.maxMag, flNv)
  | .fin neg m e =>
    if m = 0 then (sgn neg, flNone)
    else
      let q := f.spacing md m e
      let (n, exact) := roundAt md m e q sticky
      let mag := f.magCode n q
      if mag ≤ f.maxMag then
        (sgn neg + mag, if exact then flNone else flNx ||| (if f.tiny md m e sticky then flUf else flNone))
      else
        let big := flOf ||| flNx
        if f.isFp8 && !sat then
          if f.hasInf then (sgn neg + (f.maxMag + 1), big)
          else
            match f.nan with
            | some x => (x, big ||| flNv)
            | none => (sgn neg + f.maxMag, big)
        else if f.hasInf && !f.isFp8 then (sgn neg + (f.maxMag + 1), big)
        else (sgn neg + f.maxMag, big)

/-- Two's complement value of an n-bit code (R29). -/
def sint (n : Nat) (x : Nat) : Int := (BitVec.ofNat n x).toInt

/-- An integer scaled by 2^e as an exact value; zero is +0. -/
def valInt (i : Int) (e : Int) : Val := .fin (decide (i < 0)) i.natAbs e

/-- A value to a clamped two's complement integer of n bits, nearest even (R42, R45, R46); lo and hi are the clamp
limits, and the value is first scaled by 2^sh (MXINT8 codes count units of 2^-6). -/
def toInt (n : Nat) (lo hi : Int) (sh : Int) (v : Val) : Nat × Fl :=
  let code (i : Int) : Nat := (BitVec.ofInt n i).toNat
  match v with
  | .nan => (0, flNv)
  | .inf neg => (code (if neg then lo else hi), flNv)
  | .fin neg m e =>
    if m = 0 then (0, flNone)
    else
      let (q, exact) := roundAt .rne m (e + sh) 0 false
      let i : Int := if neg then -(q : Int) else (q : Int)
      if i < lo then (code lo, flOf ||| flNx)
      else if hi < i then (code hi, flOf ||| flNx)
      else (code i, if exact then flNone else flNx)

/-! Format codes of Table 2-1. -/

/-- The floating-point element format of a plain or MX code. -/
def floatOf (code : Nat) : Option FFmt :=
  match code with
  | 0x00 => some fp32
  | 0x01 => some fp16
  | 0x02 => some bf16
  | 0x03 | 0x0A => some e4m3
  | 0x04 | 0x0B => some e5m2
  | 0x05 | 0x0C => some e3m2
  | 0x06 | 0x0D => some e2m3
  | 0x07 | 0x0E => some e2m1
  | _ => none

/-- Element bits of Table 2-1 for the arithmetic formats and INT32; 0 for the rest. -/
def elemBits (code : Nat) : Nat :=
  match code with
  | 0x00 | 0x13 => 32
  | 0x01 | 0x02 => 16
  | 0x03 | 0x04 | 0x08 | 0x0A | 0x0B | 0x0F => 8
  | 0x05 | 0x06 | 0x0C | 0x0D => 6
  | 0x07 | 0x09 | 0x0E => 4
  | _ => 0

/-- Codes 0x0A to 0x0F name MX block formats. -/
def isMx (code : Nat) : Bool := decide (0x0A ≤ code ∧ code ≤ 0x0F)

/-- The value of one element encoding, before any block scale (R26, R27, R29). -/
def elemVal (code x : Nat) : Val :=
  match floatOf code with
  | some f => f.decode x
  | none =>
    match code with
    | 0x08 => valInt (sint 8 x) 0
    | 0x09 => valInt (sint 4 x) 0
    | 0x0F => valInt (sint 8 x) (-6)
    | 0x13 => valInt (sint 32 x) 0
    | _ => .fin false 0 0

/-- v times 2^k. -/
def Val.scale (v : Val) (k : Int) : Val :=
  match v with
  | .fin n m e => .fin n m (e + k)
  | w => w

/-- R33: the value of an MX element under scale X. -/
def mxVal (code x X : Nat) : Val :=
  if X = 0xFF then .nan else (elemVal code x).scale ((X : Int) - 127)

def Val.isNan : Val → Bool
  | .nan => true
  | _ => false
def Val.isInf : Val → Bool
  | .inf _ => true
  | _ => false
def Val.isFin : Val → Bool
  | .fin _ _ _ => true
  | _ => false
def Val.isZero : Val → Bool
  | .fin _ m _ => decide (m = 0)
  | _ => false
def Val.isNeg : Val → Bool
  | .nan => false
  | .inf n => n
  | .fin n _ _ => n
def Val.neg : Val → Val
  | .nan => .nan
  | .inf n => .inf (!n)
  | .fin n m e => .fin (!n) m e
def Val.abs : Val → Val
  | .nan => .nan
  | .inf _ => .inf false
  | .fin _ m e => .fin false m e

/-- Signed significand. -/
def Val.sm : Val → Int
  | .fin true m _ => -(m : Int)
  | .fin false m _ => (m : Int)
  | _ => 0
/-- Exponent of the significand. -/
def Val.ex : Val → Int
  | .fin _ _ e => e
  | _ => 0

/-- Exact product (IEEE 754 for NaN, infinities and zeros; R46 for nv). -/
def mulV (a b : Val) : Val × Fl :=
  match a, b with
  | .nan, _ => (.nan, flNone)
  | _, .nan => (.nan, flNone)
  | .inf n, w => if w.isZero then (.nan, flNv) else (.inf (n != w.isNeg), flNone)
  | v, .inf n => if v.isZero then (.nan, flNv) else (.inf (n != v.isNeg), flNone)
  | .fin n m e, .fin n' m' e' => (.fin (n != n') (m * m') (e + e'), flNone)

/-- Least exponent of a list of finite values. -/
def minExp : List Val → Int
  | [] => 0
  | [v] => v.ex
  | v :: vs => min v.ex (minExp vs)

/-- Exact sum of finite values; a zero is -0 only when every term is negative (R28). -/
def sumFin (vs : List Val) : Val :=
  let e := minExp vs
  let total : Int := (vs.map fun v => v.sm * 2 ^ (v.ex - e).toNat).foldl (· + ·) 0
  .fin (if total = 0 then vs.all Val.isNeg && !vs.isEmpty else decide (total < 0)) total.natAbs e

/-- Exact sum of any values: NaN from a NaN or from opposite infinities, the latter setting nv (R52). -/
def sumV (vs : List Val) : Val × Fl :=
  if vs.any Val.isNan then (.nan, flNone)
  else
    let infs := vs.filter Val.isInf
    match infs with
    | [] => (sumFin vs, flNone)
    | v :: rest => if rest.all (fun w => w.isNeg == v.isNeg) then (v, flNone) else (.nan, flNv)

/-- R45, R46: overflow of a finite exact result is part of encode; here the result of a value computed from operands
rounds once to nearest even in the format. -/
def roundV (f : FFmt) (r : Val × Fl) : Nat × Fl :=
  let (x, g) := f.encode true .rne r.1
  (x, r.2 ||| g)

/-- Order of two non-NaN values, with -0 below +0 when strictZero. -/
def ltV (strictZero : Bool) (a b : Val) : Bool :=
  match a, b with
  | .nan, _ => false
  | _, .nan => false
  | .inf n, .inf n' => n && !n'
  | .inf n, _ => n
  | _, .inf n => !n
  | .fin _ m _, .fin _ m' _ =>
    if m = 0 ∧ m' = 0 then strictZero && a.isNeg && !b.isNeg
    else
      let e := min a.ex b.ex
      decide (a.sm * 2 ^ (a.ex - e).toNat < b.sm * 2 ^ (b.ex - e).toNat)

/-- VMAX of one lane (R104). -/
def maxV (a b : Val) : Val := if a.isNan || b.isNan then .nan else if ltV true a b then b else a
/-- VMIN of one lane (R104). -/
def minV (a b : Val) : Val := if a.isNan || b.isNan then .nan else if ltV true a b then a else b

/-! Functions that are correctly rounded (R104): a value whose magnitude is exact or carries a sticky bit. -/

/-- Integer square root, one bit of the result at a time from bit k - 1 down. -/
def isqrtFrom : Nat → Nat → Nat → Nat
  | 0, _, r => r
  | k + 1, n, r =>
    let c := r + 2 ^ k
    isqrtFrom k n (if c * c ≤ n then c else r)

def isqrt (n : Nat) : Nat := isqrtFrom (Nat.log2 n / 2 + 1) n 0

/-- 1/x (R104): 1/±0 is an infinity and sets dz. -/
def rcpV (v : Val) : Val × Bool × Fl :=
  match v with
  | .nan => (.nan, false, flNone)
  | .inf n => (.fin n 0 0, false, flNone)
  | .fin n m e =>
    if m = 0 then (.inf n, false, flDz)
    else (.fin n (2 ^ 320 / m) (-320 - e), decide (2 ^ 320 % m ≠ 0), flNone)

/-- 1/√x (R104). -/
def rsqV (v : Val) : Val × Bool × Fl :=
  match v with
  | .nan => (.nan, false, flNone)
  | .inf n => if n then (.nan, false, flNv) else (.fin false 0 0, false, flNone)
  | .fin n m e =>
    if m = 0 then (.inf n, false, flDz)
    else if n then (.nan, false, flNv)
    else
      let odd := e % 2 = 1
      let m' := if odd then 2 * m else m
      let e' := if odd then e - 1 else e
      let q := isqrt (2 ^ 640 / m')
      (.fin false q (-320 - e' / 2), decide (q * q * m' ≠ 2 ^ 640), flNone)


/-- The Taylor series of exp at r (units of 2^-320): term is the current r^n / n!. -/
def expSeries (r : Nat) : Nat → Nat → Nat → Nat
  | 0, _, _ => 0
  | fuel + 1, n, term => term + expSeries r fuel (n + 1) (term * r / 2 ^ 320 / (n + 1))

/-- ln 2 in units of 2^-320, from the series 2 * atanh(1/3). -/
def ln2Series : Nat → Nat → Nat → Nat
  | 0, _, _ => 0
  | fuel + 1, k, pow => pow / (2 * k + 1) + ln2Series fuel (k + 1) (pow / 9)

def ln2Fix : Nat := ln2Series 120 0 (2 ^ 352 * 2 / 3) / 2 ^ 32

/-- exp x (R104): exp of a non-zero dyadic number is irrational, so the sticky bit stands for the rest. -/
def expV (v : Val) : Val × Bool × Fl :=
  match v with
  | .nan => (.nan, false, flNone)
  | .inf n => (if n then .fin false 0 0 else .inf false, false, flNone)
  | .fin n m e =>
    if m = 0 then (.fin false 1 0, false, flNone)
    else if 9 ≤ ilog m e then
      (if n then .fin false 1 (-1000) else .fin false 1 1000, true, flNone)
    else
      let x : Int := Int.ofNat (if 0 ≤ e + 320 then m * 2 ^ (e + 320).toNat else m / 2 ^ (-(e + 320)).toNat)
      let x := if n then -x else x
      let k := x / (ln2Fix : Int)
      let r := (x - k * (ln2Fix : Int)).toNat
      (.fin false (expSeries r 90 0 (2 ^ 320)) (k - 320), true, flNone)

/-- A function result rounded once to the format. -/
def roundF (f : FFmt) (r : Val × Bool × Fl) : Nat × Fl :=
  let (x, g) := f.encode true .rne r.1 r.2.1
  (x, r.2.2 ||| g)

/-! Stochastic rounding (R43). -/

/-- One xorshift step of the generator. -/
def srNext (x : BitVec 32) : BitVec 32 :=
  let x := x ^^^ (x <<< 13)
  let x := x ^^^ (x >>> 17)
  x ^^^ (x <<< 5)

/-! Packing (R30): element i of w bits lies at bits w*i of one little-endian string. -/

/-- Element i of width w of a bit string. -/
def bitsAt (x w i : Nat) : Nat := x / 2 ^ (w * i) % 2 ^ w

/-- n elements of width w. -/
def unpackBits (x w : Nat) : Nat → List Nat
  | 0 => []
  | n + 1 => x % 2 ^ w :: unpackBits (x / 2 ^ w) w n

/-- Elements of width w to one bit string. -/
def packBits (w : Nat) : List Nat → Nat
  | [] => 0
  | x :: xs => x % 2 ^ w + 2 ^ w * packBits w xs

/-! MX blocks (R31 to R34). -/

/-- Largest element exponent E of R34 step 3. -/
def mxE (code : Nat) : Int :=
  match code with
  | 0x0A => 8
  | 0x0B => 15
  | 0x0C => 4
  | 0x0D => 2
  | 0x0E => 2
  | _ => 0

/-- Order of magnitudes of finite values. -/
def leMag (a b : Val) : Bool := !(ltV false b.abs a.abs)

/-- Largest magnitude of a list of finite values. -/
def maxMagV : List Val → Val
  | [] => .fin false 0 0
  | v :: vs => let w := maxMagV vs; if leMag v w then w else v.abs

/-- R34 steps 2 and 3: the block scale of finite sources. -/
def mxScale (code : Nat) (vs : List Val) : Nat :=
  match maxMagV vs with
  | .fin _ m e =>
    if m = 0 then 127
    else
      let x := ilog m e - mxE code + 127
      if x < 0 then 0 else if 254 < x then 254 else x.toNat
  | _ => 0xFF

/-- Rounding of successive elements: nearest even, or stochastic steps from a generator state. -/
structure Gen where
  sr : Bool
  st : BitVec 32
deriving DecidableEq, Repr

/-- The rounding mode of the next element and the generator after it (R43, R44). -/
def Gen.draw (g : Gen) : RMode × Gen :=
  if g.sr then
    let x := srNext g.st
    (.sr (x.toNat % 65536), { g with st := x })
  else (.rne, g)

/-- One MX element of a block with scale X (R34 step 4; MXINT8 codes clamp to -127..127, R29). -/
def mxElem (code X : Nat) (md : RMode) (v : Val) : Nat × Fl :=
  let w := v.scale (127 - (X : Int))
  match floatOf code with
  | some f => f.encode true md w
  | none => toInt 8 (-127) 127 6 w

def mxElems (code X : Nat) : Gen → List Val → List Nat × Fl × Gen
  | g, [] => ([], flNone, g)
  | g, v :: vs =>
    let (md, g1) := g.draw
    let (x, fl) := mxElem code X md v
    let (xs, fls, g2) := mxElems code X g1 vs
    (x :: xs, fl ||| fls, g2)

/-- R34: an MX block as its element codes, its scale, the flags and the generator. A block with a NaN or infinite
source still consumes its generator steps (R43, R44). -/
def mxPack (code : Nat) (g : Gen) (vs : List Val) : List Nat × Nat × Fl × Gen :=
  if vs.all Val.isFin then
    let X := mxScale code vs
    let (xs, fl, g') := mxElems code X g vs
    (xs, X, fl, g')
  else
    let (_, _, g') := mxElems code 127 g vs
    (vs.map fun _ => 0, 0xFF, flNv, g')

/-! Operand pairs (Table 2-11) and rates (Table 3-4). -/

/-- A pair of the arrays: slices per MAC V and whether it accumulates INT32. -/
structure PairClass where
  v : Nat
  int : Bool
deriving DecidableEq, Repr

/-- R50: the class of a stationary and a streaming format, where the pair is allowed. -/
def pairClass (st tr : Nat) : Option PairClass :=
  let four := [0x07, 0x09]
  let eight := [0x03, 0x04, 0x05, 0x06, 0x08]
  let mx8 := [0x0A, 0x0B, 0x0F]
  let p8 := [0x03, 0x04, 0x08]
  let mx6 := [0x0C, 0x0D]
  let p6 := [0x05, 0x06]
  if four.contains st && four.contains tr then some ⟨1, decide (st = 9 ∧ tr = 9)⟩
  else if (st = 0x0E && (tr = 0x0E || four.contains tr)) || (tr = 0x0E && four.contains st) then some ⟨1, false⟩
  else if eight.contains st && eight.contains tr then some ⟨2, decide (st = 8 ∧ tr = 8)⟩
  else if (mx8.contains st && (mx8.contains tr || p8.contains tr)) || (mx8.contains tr && p8.contains st) then some ⟨2, false⟩
  else if (mx6.contains st && (mx6.contains tr || p6.contains tr)) || (mx6.contains tr && p6.contains st) then some ⟨2, false⟩
  else if four.contains st && p8.contains tr then some ⟨2, decide (st = 9 ∧ tr = 8)⟩
  else if (st = 1 || st = 2) && (tr = 1 || tr = 2) then some ⟨4, false⟩
  else if st = 0 && tr = 0 then some ⟨16, false⟩
  else none

/-- Formats that Table 2-11 allows as a streaming operand (R98). -/
def streamable (code : Nat) : Bool := decide (code ≤ 0x0F)

/-! Residue code modulo 3 (R83). -/

/-- The residue of a finite value. -/
def rho (v : Val) : Nat :=
  let m := (v.sm % 3).toNat
  if v.ex % 2 = 0 then m else (2 * m) % 3

end Sys2Proof.Machine
end

