-- ==== Sys2Proof/Machine/Queue.lean ====
section
/-! DEFINITION. Entries of command queues: their end, the halt of a queue and what it does to later entries (R249, R253),
the end of a RUN_STEPS (R246), and core faults (R56, R120). -/
namespace Sys2Proof.Machine

/-! Packet fields (Tables 9-4 and 9-7): n bytes from byte b. -/
def pk (x : BitVec 512) (b n : Nat) : Nat := bits x.toNat (8 * b) (8 * n)
def pkOpcode (x : BitVec 512) : Nat := pk x 0 1
def pkIrq (x : BitVec 512) : Bool := bits x.toNat 8 1 == 1
def pkFence (x : BitVec 512) : Bool := bits x.toNat 9 1 == 1
def pkClass (x : BitVec 512) : Nat := bits x.toNat 16 3
def pkHint (x : BitVec 512) : Nat := bits x.toNat 19 2
/-- A 48-bit device address in an 8-byte field. -/
def pkAddr (x : BitVec 512) (b : Nat) : Nat := pk x b 6

/-- R239: sequence number a precedes b. -/
def seqBefore (a b : Nat) : Bool :=
  let d := (b + 2 ^ 32 - a % 2 ^ 32) % 2 ^ 32
  decide (1 ≤ d ∧ d ≤ 2 ^ 31 - 1)

/-- A started entry of a queue. -/
def entryOf (s : State) (q seq : Nat) : Option Entry := (s.queue q).entries.find? fun e => decide (e.seq = seq)

/-- A started entry changed. -/
def mapEntry (s : State) (q seq : Nat) (f : Entry → Entry) : State :=
  let x := s.queue q
  s.setQueue q { x with entries := x.entries.map fun e => if e.seq = seq then f e else e }

/-- The reply of an entry that has none yet (R242), with the DEVTIME of its completion point or, where it did not reach it, of
its end. What waits for an end is looked at again. -/
def setReply (s : State) (q seq : Nat) (st : Status) (detail result : Nat) : State :=
  wake (mapEntry s q seq fun e =>
    match e.reply with
    | some _ => e
    | none => { e with reply := some ⟨st, detail % 2 ^ 32, result % 2 ^ 64, if e.past then e.pastAt else s.devtime.toNat⟩ })

/-- An entry reaches its completion point (R253). -/
def setPast (s : State) (q seq : Nat) : State :=
  mapEntry s q seq fun e => if e.past then e else { e with past := true, pastAt := s.devtime.toNat }

/-- Statuses that do not halt a queue (R249). -/
def Status.good : Status → Bool
  | .ok | .abortTooLate => true
  | _ => false

/-- An end still to be given to an entry. -/
structure Ending where
  q : Nat
  seq : Nat
  st : Status
  detail : Nat
  result : Nat
deriving DecidableEq, Repr

/-- R246, R56: the RUN_STEPS of a partition is over: hold ends with it, its cores stop, and KV_COMMITs that waited for a
boundary act on the stopped partition (R190). The endings are those of its
entry and of the HOLDs that waited for its boundary. -/
def stopRun (s : State) (p : Nat) (st : Status) : State × List Ending :=
  let x := s.part p
  match x.run with
  | none => (s, [])
  | some r =>
    let s := s.setPart p { x with run := none, fault := none, inStep := false, loading := false, bound := false, paused := false, holdReqs := []
                                  line := false, held := false, levels := [], leads := [], single := false
                                  linkWait := [], linkPause := [], readyPos := [], ownReady := false
                                  goWait := false, aborted := false, kvq := [], goAt := none, prevLen := none
                                  rise := false }
    let s := tellOver (s.emit (x.kvq.map fun e => .kvCommit e.1 e.2)) p
    let s := (coresOf s p).foldl (fun s c =>
      let k := s.core c
      if k.waits.isEmpty then s else s.setCore c { k with waits := [] }) s
    (s, ⟨r.q, r.seq, st, r.ran, x.step.toNat⟩ ::
        (r.rel.toList ++ x.holdReqs).map fun h => ⟨h.1, h.2, .busy, 0, x.step.toNat⟩)

/-- Copy-class opcodes (R247). -/
def copyClass (op : Nat) : Bool := decide (1 ≤ op ∧ op ≤ 4)

/-- The engine that runs an entry. -/
def engineOf (s : State) (q seq : Nat) : Option Nat :=
  (List.range 16).find? fun e => (s.engine e).busy && decide ((s.engine e).q = q ∧ (s.engine e).seq = seq)

/-- The partition whose RUN_STEPS an entry is. -/
def runOf (s : State) (q seq : Nat) : Option Nat :=
  (List.range 16).find? fun p =>
    match (s.part p).run with
    | some r => decide (r.q = q ∧ r.seq = seq)
    | none => false

/-- R253: one started entry before its completion point is aborted: a copy ends at its next tile boundary, RUN_STEPS at
its next step boundary (at once when it stands at one, or has not begun); the rest have no safe point. -/
def abortEntry (s : State) (q : Nat) (e : Entry) : State × List Ending :=
  if e.past || e.reply.isSome then (s, [])
  else if !e.begun then (s, if copyClass (pkOpcode e.pkt) || pkOpcode e.pkt == 0x10 then [⟨q, e.seq, .aborted, 0, 0⟩] else [])
  else
    match runOf s q e.seq with
    | some p =>
      let x := s.part p
      if x.paused || (!x.inStep && !x.bound) then stopRun s p .aborted
      else (s.setPart p { x with run := x.run.map fun r => { r with abort := true } }, [])
    | none =>
      match engineOf s q e.seq with
      | some n =>
        let g := s.engine n
        if copyClass (pkOpcode e.pkt) then
          if g.waitPages.isEmpty then (s.setEngine n { g with abort := true }, [])
          else (s.setEngine n { out := g.out }, [⟨q, e.seq, .aborted, g.tile, g.bytes⟩])
        else (s, [])
      | none => (s, [])

/-- Later started entries of a queue are aborted (R249). -/
def abortLater (s : State) (q seq : Nat) : State × List Ending :=
  ((s.queue q).entries.filter fun e => seqBefore seq e.seq).foldl
    (fun (a : State × List Ending) e =>
      let (s', l) := abortEntry a.1 q e
      (s', a.2 ++ l)) (s, [])

/-- Endings one after another: a status that is not good stops the queue, also where a ring access has stopped it already (R257),
and aborts its later entries (R249). -/
def endAll : Nat → List Ending → State → State
  | 0, _, s => s
  | _ + 1, [], s => s
  | n + 1, e :: es, s =>
    let s := setReply s e.q e.seq e.st e.detail e.result
    if e.st.good || decide (64 ≤ e.q) then endAll n es s
    else
      let x := s.queue e.q
      let s := if x.failed.isSome then s
        else wf (s.setQueue e.q { x with stop := true, failed := some e.st }) (fCmdSqstat_laststat e.q) e.st.code
      let (s, more) := abortLater s e.q e.seq
      endAll n (es ++ more) s

/-- An entry ends. -/
def finish (s : State) (q seq : Nat) (st : Status) (detail result : Nat) : State :=
  endAll 8192 [⟨q, seq, st, detail, result⟩] s

/-- The RUN_STEPS of a partition ends with a status. -/
def endRun (s : State) (p : Nat) (st : Status) : State :=
  let (s, es) := stopRun s p st
  endAll 8192 es s

/-! The hold line of a partition (R112, R136). -/

/-- Whether any core of the partition has a hold outstanding or is faulted, or a link holds it (R56, R118, R280, R281). -/
def holdWanted (s : State) (p : Nat) : Bool :=
  let x := s.part p
  !x.linkWait.isEmpty || !x.linkPause.isEmpty ||
    (coresOf s p).any fun c => let k := s.core c; !k.waits.isEmpty || k.dbg || k.faulted

/-- The partition's line follows its outstanding holds; each change reaches the cores one hold lead later. -/
def updateLine (s : State) (p : Nat) : State :=
  let x := s.part p
  if x.run.isNone then s
  else
    let w := holdWanted s p
    if w = x.line then s else s.setPart p { x with line := w, levels := x.levels ++ [w], leads := x.leads ++ [holdLead s p] }

/-- The line of the partition of a core. -/
def updateLineOf (s : State) (c : Nat) : State :=
  match partOfCluster s (clusterOfCore c) with
  | some p => updateLine s p
  | none => s

/-- A fault of a partition's run: the first keeps its status. -/
def faultRun (s : State) (p : Nat) (st : Status) : State :=
  let x := s.part p
  if x.run.isNone then s
  else updateLine (s.setPart p { x with fault := match x.fault with | some e => some e | none => some st }) p

/-- R56, R120: a core enters the faulted state: record, trace event, and hold for its partition, whose RUN_STEPS ends with the
status in the first held cycle, one hold lead later (log entry 79). -/
def coreFault (s : State) (c : Nat) (st : Status) : State :=
  let k := s.core c
  if k.faulted then s
  else
    let s := s.setCore c { k with faulted := true }
    let s := traceEv s c 7 st.code
    let s := errNote s .fault st (unitCore c) 0 0x10 c none
    match partOfCluster s (clusterOfCore c) with
    | some p => faultRun s p st
    | none => s

/-- R111: the credits of flag f's counted requests start their way back; they are there from core cycle due on. -/
def returnCredits (k : Core) (f due : Nat) : Core :=
  let n := tget 0 k.named f
  if n = 0 then k else { k with returning := k.returning ++ [(due, n)], named := terase k.named f }

/-- Hold lead of a core's partition (R112). -/
def coreLead (s : State) (c : Nat) : Nat :=
  match partOfCluster s (clusterOfCore c) with
  | some p => holdLead s p
  | none => 12

/-- The WAITFs that still wait once flag f is set, in the order of their issue: each takes the set flag, and the first without keep
consumes it. -/
def wakeWaits (f : Nat) : List Wait → List Wait × Option Wait
  | [] => ([], none)
  | w :: r =>
    if w.flag ≠ f then
      let (l, u) := wakeWaits f r
      (w :: l, u)
    else if w.keep then wakeWaits f r
    else (r, some w)

/-- R110, R112: flag f of a core is set; a WAITF waiting on it consumes it in the same cycle and its hold ends. -/
def setFlag (s : State) (c f : Nat) : State :=
  let k := s.core c
  let (ws, u) := wakeWaits f k.waits
  let k' := match u with
    | none => { k with flags := k.flags ||| (1#32 <<< f), waits := ws }
    | some w => returnCredits { k with flags := k.flags &&& ~~~(1#32 <<< f), waits := ws } f (w.born + coreLead s c)
  let s := s.setCore c k'
  let s := if ws.length = k.waits.length then s else traceEv s c 3 0
  updateLineOf s c

/-- R110: one request named flag f completes. -/
def requestDone (s : State) (c f : Nat) : State :=
  let k := s.core c
  let n := tget 0 k.outst f
  if n = 0 then s
  else
    let s := s.setCore c { k with outst := tset k.outst f (n - 1) }
    if n = 1 then traceEv (setFlag s c f) c 6 f else s

end Sys2Proof.Machine
end

