-- ==== Sys2Proof/Machine/Flags.lean ====
section
/-! DEFINITION. Flag computations: predicates and guards (R94, R95, R104), scalar comparisons, and the sticky arithmetic
flags of a core (R46, R48). -/
namespace Sys2Proof.Machine

/-- Predicate pn of a predicate register. -/
def predBit (ps : BitVec 8) (n : Nat) : Bool := ps.getLsbD n

/-- Guard of the control field (R95). -/
def guardTrue (ps : BitVec 8) (g : Nat) : Bool :=
  if g = 0 then true
  else if g ≤ 7 then !predBit ps g
  else predBit ps (g - 8)

/-- Predicate select of the vector and memory fields (R104, R106). -/
def predTrue (ps : BitVec 8) (p : Nat) : Bool := if p = 0 then true else predBit ps p

/-- One predicate replaced. -/
def setPred (ps : BitVec 8) (n : Nat) (b : Bool) : BitVec 8 :=
  if b then ps ||| (1#8 <<< n) else ps &&& ~~~(1#8 <<< n)

/-- Comparisons of SETP (Table 4-2). -/
def cmpTrue (cmp : Nat) (x y : Word) : Bool :=
  match cmp with
  | 0 => decide (x = y)
  | 1 => decide (x ≠ y)
  | 2 => x.slt y
  | _ => x.ult y

/-- Functions of PLOG (Table 4-2). -/
def plogFn (fn : Nat) (a b : Bool) : Bool :=
  match fn with
  | 0 => a && b
  | 1 => a || b
  | 2 => a != b
  | _ => a && !b

/-- The sticky flags of a core (Table 2-8). -/
def fpFlags (s : State) (c : Nat) : Fl := BitVec.ofNat 5 (s.reg (offCoreFpflag c)).toNat

/-- Flags set as results are produced; they stay until software clears them (R46, R48). -/
def addFlags (s : State) (c : Nat) (fl : Fl) : State :=
  metSet (s.setReg (offCoreFpflag c) (BitVec.ofNat 256 (fpFlags s c ||| fl).toNat)) ⟨offCoreFpflag c, 0, 5⟩ fl.toNat

/-- Generator state of a core that a conversion draws from (R43): in a cycle with a software write, the state before it (R49). -/
def srState (s : State) (c : Nat) : BitVec 32 :=
  (tfind s.met.sr c).getD (BitVec.ofNat 32 (s.reg (offCoreSrstate c)).toNat)
/-- The generator advanced; a value that software wrote in the same cycle is kept (R49). -/
def setSrState (s : State) (c : Nat) (x : BitVec 32) : State :=
  if (tfind s.met.sr c).isSome then s else s.setReg (offCoreSrstate c) (BitVec.ofNat 256 x.toNat)

end Sys2Proof.Machine
end

