-- ==== Sys2Proof/Machine/Operands.lean ====
section
/-! DEFINITION. Operand forms of a core's fields: the bundle in issue (R92 to R94), register operands, core-local memory
operands (R56, R106), and the completion of a bundle with loops and branches (R96, R97). -/
namespace Sys2Proof.Machine

/-! Registers of a core. -/
def Core.s (k : Core) (n : Nat) : Word := tget 0 k.sregs n
def Core.a (k : Core) (n : Nat) : CAddr := tget 0 k.aregs n
def Core.v (k : Core) (n : Nat) : Vec := tget 0 k.vregs n
/-- The poison tag of a vector register (R85). -/
def Core.vp (k : Core) (n : Nat) : Bool := tget false k.vpsn n
def Core.setS (k : Core) (n : Nat) (x : Word) : Core := { k with sregs := tset k.sregs n x }
def Core.setA (k : Core) (n : Nat) (x : CAddr) : Core := { k with aregs := tset k.aregs n x }
def Core.setV (k : Core) (n : Nat) (x : Vec) (p : Bool) : Core :=
  { k with vregs := tset k.vregs n x, vpsn := if p then tset k.vpsn n true else terase k.vpsn n }

/-- Destinations of drains requested and not complete (R81, R109). -/
def Arr.drainDests (x : Arr) : List Nat :=
  x.draining.map (·.dst) ++ x.reqs.filterMap fun r => match r with | .drain v => some v | _ => none

/-- A scalar register with a write pending (R109). -/
def Core.busyS (k : Core) (n : Nat) : Bool := k.late.any fun l => l.sregs.any fun x => decide (x.1 = n)
/-- A vector register that a drain is to write (R81). -/
def Core.drainV (k : Core) (v : Nat) : Bool := (k.arr0.drainDests ++ k.arr1.drainDests).contains v
/-- A vector register with a write pending (R81, R109). -/
def Core.busyV (k : Core) (v : Nat) : Bool := k.drainV v || k.late.any fun l => l.vregs.any fun x => decide (x.1 = v)

/-! The hold and the run of a core's partition. -/

/-- The partition of a core whose cluster is in service. -/
def corePart (s : State) (c : Nat) : Option Nat := partOfCluster s (clusterOfCore c)

/-- Whether the partition lets its cores advance in this cycle: not held, or in the one cycle of a debug step (R118). -/
def Part.go (x : Part) : Bool := !x.held || x.single

/-- The non-held core cycle in progress of a core's partition, or the next one. -/
def coreCyc (s : State) (c : Nat) : Nat :=
  match corePart s c with
  | some p => (s.part p).cyc
  | none => 0

/-- Whether a core can issue a bundle: it has one of its program, and nothing stops it (R90, R91, R96, R107, R112, R118). -/
def canIssue (s : State) (c : Nat) : Bool :=
  let k := s.core c
  match corePart s c with
  | none => false
  | some p =>
    let x := s.part p
    x.run.isSome && x.inStep && !x.loading && x.go && !k.ended && !k.faulted && !k.resetting && k.mreq.isNone &&
      decide (k.nextAt ≤ x.cyc ∧ k.pc < rf s (fCorePlen_len c))

/-- The core of a slot changed. -/
def onCore (s : State) (c : Nat) (f : Core → Core) : State := s.setCore c (f (s.core c))

/-! Results on their way (R108, Table 4-7). -/

/-- A result of a core that stands n non-held cycles from now. -/
def pushLate (s : State) (c n : Nat) (l : Late) : State :=
  let d := coreCyc s c + n
  onCore s c fun k => { k with late := k.late ++ [{ l with due := d }] }

/-- Destinations that a field whose predicate is false reserves, so that its timing is that of a true one (R94). -/
def reserve (s : State) (c n : Nat) (ss vs : List Nat) : State :=
  if ss.isEmpty && vs.isEmpty then s
  else pushLate s c n { due := 0, sregs := ss.map fun r => (r, none), vregs := vs.map fun r => (r, none) }

/-- A result written to the registers and the table store of its core. -/
def Core.land (k : Core) (l : Late) : Core :=
  let k := l.sregs.foldl (fun k x => match x.2 with | some w => k.setS x.1 w | none => k) k
  let k := l.vregs.foldl (fun k x => match x.2 with | some v => k.setV x.1 v.1 v.2 | none => k) k
  l.table.foldl (fun k x =>
    { k with table := tset k.table x.1 x.2.1
             tablePsn := if x.2.2 then tset k.tablePsn x.1 true else terase k.tablePsn x.1 }) k

/-- A result lands: registers, table entries, exception flags and signal flags. -/
def landLate (s : State) (c : Nat) (l : Late) : State :=
  let s := onCore s c fun k => k.land l
  let s := if l.fl = 0 then s else addFlags s c l.fl
  l.sig.foldl (fun s f => setFlag s c f) s

/-- The results of a core that are due, oldest first. -/
def landCore (s : State) (c : Nat) : State :=
  let t := coreCyc s c
  let k := s.core c
  let due := k.late.filter fun l => decide (l.due ≤ t)
  if due.isEmpty then s
  else due.foldl (fun s l => landLate s c l) (s.setCore c { k with late := k.late.filter fun l => decide (t < l.due) })

/-- Drains of a core that complete with the cycle that has ended (R79). -/
def drainCmds (s : State) (c : Nat) : List Instr :=
  let t := coreCyc s c
  let one (a : Nat) (x : Arr) : List Instr :=
    (x.draining.filter fun d => decide (d.fire + 17 ≤ t)).map fun _ => .drainFire c a []
  one 0 (s.core c).arr0 ++ one 1 (s.core c).arr1

/-- The end of a non-held core cycle of a partition: what takes effect with it stands from now on (R128, Table 4-7). -/
def closeCycle (s : State) (p : Nat) : State :=
  let x := s.part p
  if !x.ran then s
  else
    let s := s.setPart p { x with ran := false, cyc := x.cyc + 1, m := if x.ranStep then x.m + 1 else x.m }
    let cs := coresOf s p
    let s := cs.foldl landCore s
    s.emit (cs.flatMap (drainCmds s))

/-! Bank accesses of a cycle (R59 to R67). -/

/-- R59: the bank of a cluster-memory address. -/
def bankOf (a : Nat) : Nat := Nat.xor (a / 64 % 64) (a / 4096 % 64)

/-- R60, R63, R64: one request to a bank in a cycle, after those of higher priority: the accesses with it, and whether it merges into
one that was not merged before; none where it is not served. -/
def bankServe (us : List BankUse) (bank word : Nat) (rd : Bool) : Option (List BankUse × Bool) :=
  match us.find? fun u => decide (u.bank = bank) with
  | none => some (us ++ [{ bank := bank, word := word, read := rd }], false)
  | some u =>
    if rd && u.read && decide (u.word = word) then
      some (us.map fun v => if v.bank = bank then { v with merged := true } else v, !u.merged)
    else none

/-- The accesses of cycle t. -/
def Banks.now (b : Banks) (t : Nat) : List BankUse := if b.cyc = t then b.uses else []

def State.bank (s : State) (cl : Nat) : Banks := tget {} s.banks cl
def State.setBank (s : State) (cl : Nat) (b : Banks) : State := { s with banks := tset s.banks cl b }

/-- A cluster-memory request of a core that is not served: CLU_CONFLICT counts it, CORE_CMSTALL its cycle once (Tables 3-16,
3-20). -/
def cmLost (s : State) (c t : Nat) : State :=
  let s := incWrap s (fCluConflict_count (clusterOfCore c)) 1
  if (s.core c).lostAt = t + 1 then s
  else incWrap (onCore s c fun k => { k with lostAt := t + 1 }) (fCoreCmstall_count c) 1

/-- R60 to R64: a request of a core to cluster memory; the answer says whether it is served in this cycle. -/
def cmAsk (s : State) (c a : Nat) (rd : Bool) : State × Bool :=
  match corePart s c with
  | none => (s, true)
  | some p =>
    let t := (s.part p).cyc
    let cl := clusterOfCore c
    if (s.part p).m.toNat % 16 = 15 then (cmLost s c t, false)
    else
      match bankServe ((s.bank cl).now t) (bankOf a) (a / 64) rd with
      | none => (cmLost s c t, false)
      | some (us, mg) =>
        let s := s.setBank cl ⟨t, us⟩
        (if mg then incWrap s (fCluMerge_count cl) 1 else s, true)

/-- R67: a request of a core to its local scratch, at byte a of it. -/
def lsAsk (s : State) (c a : Nat) (rd : Bool) : State × Bool :=
  let t := coreCyc s c
  match bankServe ((s.core c).lsBanks.now t) (a / 64 % 4) (a / 64) rd with
  | none => (s, false)
  | some (us, _) => (onCore s c fun k => { k with lsBanks := ⟨t, us⟩ }, true)

/-! A bundle in issue. -/

def State.latch (s : State) (c : Nat) : Option Latch := tfind s.latches c
def State.setLatch (s : State) (c : Nat) (l : Latch) : State := { s with latches := tset s.latches c l }
def State.dropLatch (s : State) (c : Nat) : State := { s with latches := terase s.latches c }

/-- The bundle of a slot: its first field takes the core as it stands at the start of the cycle (R93). -/
def openLatch (s : State) (sl : Slot) : Option (State × Latch) :=
  if sl.first then
    if canIssue s sl.core then
      let l : Latch := { snap := s.core sl.core, sr := srState s sl.core }
      some (s.setLatch sl.core l, l)
    else none
  else
    match s.latch sl.core with
    | some l => if l.dead then none else some (s, l)
    | none => none

/-- A field that cannot issue: no field of its bundle issues, and the core presents the bundle again (R93). st says that
it is not a register that the core stalls on (R109). -/
def killBundle (s : State) (sl : Slot) (l : Latch) (st : Bool) : State :=
  let s := setSrState s sl.core l.sr
  let s := s.setCore sl.core { l.snap with stall := st }
  if sl.last then s.dropLatch sl.core else s.setLatch sl.core { l with dead := true }

/-- R97: the bundle that follows bundle b, with the loop levels left open; the innermost level decides first. -/
def loopNext : List Loop → Nat → Nat × List Loop
  | [], b => (b + 1, [])
  | l :: ls, b =>
    if l.last = b then
      if 1 < l.count then (l.start, { l with count := l.count - 1 } :: ls) else loopNext ls b
    else (b + 1, l :: ls)

/-- Work an array takes from its request queue at the start of cycle t (R103): PRE, DRAIN and DISCARD at the head. A drain fires at
the later of t and the cycle in which its last vector is in accumulator 0 (R79). The flag says that the array has reached an ISS
while no pass has been in force. -/
def takeReqsN (t : Nat) : Nat → Arr → Arr × Bool
  | 0, x => (x, false)
  | n + 1, x =>
    match x.reqs with
    | .pre v :: r => takeReqsN t n { x with reqs := r, preload := some v }
    | .drain v :: r =>
      takeReqsN t n { x with reqs := r, draining := x.draining ++ [⟨v, x.acc, max t x.fillAt⟩], accOpen := false
                             acc := { x.acc with fl := 0, any := false } }
    | .discard :: r => takeReqsN t n { x with reqs := r, accOpen := false, acc := { x.acc with fl := 0, any := false } }
    | .vecs _ false :: _ => (x, decide (x.inForce = 0))
    | _ => (x, false)

def takeReqs (t : Nat) (x : Arr) : Arr × Bool := takeReqsN t 8 x

/-- Both arrays of a core take what they can; an ISS with no pass in force is a fault (R103). -/
def takeBoth (s : State) (c : Nat) : State :=
  let k := s.core c
  if k.arr0.reqs.isEmpty && k.arr1.reqs.isEmpty then s
  else
    let t := coreCyc s c
    let (a0, f0) := takeReqs t k.arr0
    let (a1, f1) := takeReqs t k.arr1
    let s := s.setCore c { k with arr0 := a0, arr1 := a1 }
    if f0 || f1 then coreFault s c .invalid else s

/-- R91, R127: whether the step in progress has met both conditions of its end. -/
def stepDone (s : State) (p : Nat) : Bool :=
  let x := s.part p
  x.run.isSome && x.inStep && !x.loading && x.go &&
    (clustersOf s p).all (fun cl => (s.router cl).done || !(s.router cl).has) && (coresOf s p).all fun c => (s.core c).ended

/-- The boundary follows in the cycle in which a partition's step meets both conditions of its end (R91). -/
def boundaryIfDone (s : State) (p : Option Nat) : State :=
  match p with
  | some p => if stepDone s p then s.emit [.stepBoundary p] else s
  | none => s

/-- A bundle has issued: count, breakpoint, next bundle, and the fault of a program counter at the program's length
(R91, R96, R97, R118). The trace events of its control field come first. -/
def complete (s : State) (c : Nat) (l : Latch) : State :=
  let k := s.core c
  let i := l.snap.pc
  let (pc, loops, lag) := match l.ctl with
    | .seq => let x := loopNext k.loops i
              (x.1, x.2, 1)
    | .goto n lag => (n, k.loops, lag)
    | .skip e => let x := loopNext k.loops e
                 (x.1, x.2, 1)
  let bp := rb s (fCoreDbgctl_bpen c) && decide (rf s (fCoreDbgctl_bpc c) = i)
  let s := s.setCore c { k with pc := pc, loops := loops, stall := k.mreq.isSome, nextAt := coreCyc s c + lag, dbg := k.dbg || bp }
  let s := incWrap (s.dropLatch c) (fCoreBundles_count c) 1
  let s := l.evts.foldl (fun s e => traceEv s c e.1 e.2) s
  let s := if bp then traceEv s c 8 i else s
  let s := match l.ctl with
    | .goto _ _ => traceEv s c 4 i
    | _ => s
  let s := updateLineOf s c
  let k := s.core c
  if k.ended then boundaryIfDone s (corePart s c)
  else if rf s (fCorePlen_len c) ≤ k.pc then coreFault s c .invalid
  else s

/-- One field of a bundle: ss and vs are the scalar and vector registers it names, which must have no write pending (R109). The body
answers none where the field cannot issue: the core then stalls on other than a register, state code 4, a REQ that waits for credits
included, for which the manual names no code (DESIGN CHOICE, log entry 83). A latch changed by the body is found in the state. -/
def field (s : State) (sl : Slot) (ss vs : List Nat) (body : Latch → State → Option State) : State :=
  match openLatch s sl with
  | none => if sl.last then s.dropLatch sl.core else s
  | some (s1, l) =>
    if ss.any l.snap.busyS || vs.any l.snap.busyV then killBundle s1 sl l (vs.any l.snap.drainV)
    else
      match body l s1 with
      | none => killBundle s1 sl l true
      | some s2 =>
        if sl.last then complete s2 sl.core ((s2.latch sl.core).getD l) else s2

/-- A control field: its guard reads the predicates at the start of the cycle (R93 to R95). ss are the scalar registers it names. -/
def ctlField (s : State) (sl : Slot) (g : Nat) (ss : List Nat) (body : Latch → State → State) : State :=
  field s sl ss [] fun l s => some (if guardTrue l.snap.preds g then body l s else s)

/-- A vector field with the scalar and vector registers it names (R94, R104); where its predicate is false it reserves its
destinations ds for the n cycles of its operation. -/
def vecField (s : State) (sl : Slot) (p : Nat) (ss vs : List Nat) (n : Nat) (ds : List Nat) (body : Latch → State → State) :
    State :=
  field s sl ss vs fun l s => some (if predTrue l.snap.preds p then body l s else reserve s sl.core n [] ds)

/-- A memory field; the body answers none where it cannot issue (R94, R106, R107). no is what a field whose predicate is
false leaves. -/
def memField (s : State) (sl : Slot) (p : Nat) (ss vs : List Nat) (no : State → State) (body : Latch → State → Option State) :
    State :=
  field s sl ss vs fun l s => if predTrue l.snap.preds p then body l s else some (no s)

/-- The control target of the bundle in issue. -/
def setCtl (s : State) (c : Nat) (x : CtlNext) : State :=
  match s.latch c with
  | some l => s.setLatch c { l with ctl := x }
  | none => s

/-- Trace events that the bundle in issue records once it has issued. -/
def noteEvts (s : State) (c : Nat) (es : List (Nat × Nat)) : State :=
  match s.latch c with
  | some l => s.setLatch c { l with evts := l.evts ++ es }
  | none => s

/-! Core-local memory (Table 3-2). -/

def cmBase : Nat := 0x030000000000
/-- Device address of a byte of a cluster's memory (R57). -/
def cmAddr (cl a : Nat) : Nat := cmBase + cl * 0x400000 + a

inductive Local where
  | cm | ls
deriving DecidableEq, Repr

/-- The memory a core-local address lies in. -/
def localOf (a : Nat) : Option Local :=
  if a < 0x400000 then some .cm
  else if a < 0x410000 then some .ls
  else none

/-- Whether a finding is one that the code cannot correct. -/
def lostWord (e : Ecc) : Bool := match e with | .uncorrectable | .mismatch _ => true | _ => false

/-- Upsets among words. -/
def upsetIn (t : Tab Ecc) (first last : Nat) : Tab Ecc := t.filter fun e => decide (first ≤ e.1 ∧ e.1 ≤ last)
def upsetOut (t : Tab Ecc) (first last : Nat) : Tab Ecc := t.filter fun e => decide (e.1 < first ∨ last < e.1)

/-- n bytes at a core-local address with the poison marks of the pieces they touch; none outside Table 3-2. A word that its code
cannot correct reads as poisoned (R322). -/
def localRead (s : State) (c a n : Nat) : Option (Nat × Bool) :=
  match localOf a with
  | some .cm =>
    let d := cmAddr (clusterOfCore c) a
    some (memRead s.mem d n, psnAny s.psn d n || (upsetIn s.upsets.cmem (d / 8) ((d + n - 1) / 8)).any (fun e => lostWord e.2))
  | some .ls =>
    let k := s.core c
    let b := 65536 * c + (a - 0x400000)
    some (memRead k.scratch (a - 0x400000) n, psnAny k.scratchPsn (a - 0x400000) n ||
      (upsetIn s.upsets.local' (b / 8) ((b + n - 1) / 8)).any (fun e => lostWord e.2))
  | none => none

/-- n bytes stored at a core-local address. mark is the poison mark of whole pieces written; none leaves the marks (a
partial write of a piece does not clean it, R85, R319). -/
def localWrite (s : State) (c a n x : Nat) (mark : Option Bool) : Option State :=
  match localOf a with
  | some .cm =>
    let d := cmAddr (clusterOfCore c) a
    some { s with mem := memWrite s.mem d n x
                  psn := match mark with | some b => psnSet s.psn d n b | none => s.psn
                  upsets := { s.upsets with cmem := upsetOut s.upsets.cmem (d / 8) ((d + n - 1) / 8) } }
  | some .ls =>
    let b := a - 0x400000
    let u := 65536 * c + b
    let s := { s with upsets := { s.upsets with local' := upsetOut s.upsets.local' (u / 8) ((u + n - 1) / 8) } }
    some (onCore s c fun k =>
      { k with scratch := memWrite k.scratch b n x
               scratchPsn := match mark with | some m => psnSet k.scratchPsn b n m | none => k.scratchPsn })
  | none => none

/-- R322: the record and count of each upset that a read of n bytes at a core-local address meets; a corrected word is rewritten. -/
def localFinds (s : State) (c a n : Nat) : State :=
  let u := unitCluster (clusterOfCore c)
  let note (row : Nat) (s : State) (e : Nat × Ecc) : State :=
    match e.2 with
    | .ok => s
    | .corrected => corrected s u row
    | _ => errEvent s .uncorrectable .uncorrectable u 0 row 0
  match localOf a with
  | some .cm =>
    let d := cmAddr (clusterOfCore c) a
    let hit := upsetIn s.upsets.cmem (d / 8) ((d + n - 1) / 8)
    if hit.isEmpty then s
    else
      let kept (e : Nat × Ecc) : Bool := lostWord e.2 || !hit.contains e
      hit.foldl (note (a / 64)) { s with upsets := { s.upsets with cmem := s.upsets.cmem.filter kept } }
  | some .ls =>
    let b := 65536 * c + (a - 0x400000)
    let hit := upsetIn s.upsets.local' (b / 8) ((b + n - 1) / 8)
    if hit.isEmpty then s
    else
      let kept (e : Nat × Ecc) : Bool := lostWord e.2 || !hit.contains e
      hit.foldl (note ((a - 0x400000) / 64)) { s with upsets := { s.upsets with local' := s.upsets.local'.filter kept } }
  | none => s

/-- Sign extension of an offset of 10 or 12 bits, times a scale, added to a 32-bit address (R95, R106). -/
def addOff {n : Nat} (a : CAddr) (off : BitVec n) (scale : Nat) : CAddr :=
  a + BitVec.ofInt 32 (off.toInt * (scale : Int))

/-- An address with its low k bits ignored. -/
def alignDown (a k : Nat) : Nat := a / 2 ^ k * 2 ^ k

end Sys2Proof.Machine
end

