-- ==== Sys2Proof/Machine/Feeder.lean ====
section
/-! DEFINITION. Feeder fields, array operations and the work of the matrix arrays (R68 to R85, R98 to R103). -/
namespace Sys2Proof.Machine

/-- Whether an array may advance: its partition is not held, and the core is not in reset (R82). -/
def arrGo (s : State) (c : Nat) : Bool :=
  !(s.core c).resetting &&
    match corePart s c with
    | some p => (s.part p).go
    | none => true

def onArr (s : State) (c a : Nat) (f : Arr → Arr) : State := onCore s c fun k => k.setArr a (f (k.arr a))

/-! Feeder fields. -/

/-- Bytes of one vector of a format: 16 elements (R73). -/
def vecBytes (fmt : Nat) : Nat := 2 * elemBits fmt

/-- Vectors that n source bytes of one descriptor yield (R73). -/
def vecsOf (fmt bytes : Nat) : Nat := if vecBytes fmt = 0 then 0 else bytes / vecBytes fmt

/-- A FEED enters the stream queue of two descriptors; a full queue keeps its bundle from issuing (R99). -/
def feedEnter (s : State) (c a : Nat) (snap : Core) (st : Stream) : Option State :=
  if 2 ≤ (snap.arr a).streams.length then none
  else some (onArr s c a fun x => { x with streams := x.streams ++ [st] })

/-- R99: FEED.CM and FEED.LS take the word address from register a and, for MX, the scale address from register
a xor 1; inc advances both at the end of the issue cycle. -/
def feedMem (src : FSrc) (sl : Slot) (arr a words : Nat) (inc : Bool) (fmt : Nat) (s : State) : State :=
  field s sl [] [] fun l s =>
    let base := BitVec.ofNat 32 (alignDown (l.snap.a a).toNat 6)
    let sb := l.snap.a (Nat.xor a 1)
    match feedEnter s sl.core arr l.snap { src := src, fmt := fmt, addr := base, left := words, sbase := sb
                                           total := vecsOf fmt (64 * words), start := coreCyc s sl.core + 1 } with
    | none => none
    | some s =>
      if inc then
        let s := onCore s sl.core fun k => k.setA a (l.snap.a a + BitVec.ofNat 32 (64 * words))
        if isMx fmt then
          let blocks := (vecsOf fmt (64 * words) + 1) / 2
          some (onCore s sl.core fun k => k.setA (Nat.xor a 1) (sb + BitVec.ofNat 32 blocks))
        else some s
      else some s

def execFeedCm (sl : Slot) (arr a words : Nat) (inc : Bool) (fmt : Nat) (s : State) : Host.Outcome State Fault Refusal :=
  .next (feedMem .cm sl arr a words inc fmt s)

def execFeedLs (sl : Slot) (arr a words : Nat) (inc : Bool) (fmt : Nat) (s : State) : Host.Outcome State Fault Refusal :=
  .next (feedMem .ls sl arr a words inc fmt s)

/-- R93, R98: FEED.V streams registers vbase to vbase + n - 1, as they stand at the start of its issue cycle. -/
def execFeedV (sl : Slot) (arr vbase n fmt : Nat) (s : State) : Host.Outcome State Fault Refusal :=
  .next (field s sl [] ((List.range n).map (vbase + ·)) fun l s =>
    feedEnter s sl.core arr l.snap
      { src := .v, fmt := fmt, addr := 0, left := n, sbase := 0, start := coreCyc s sl.core + 1
        regs := (List.range n).map fun i => (l.snap.v (vbase + i), l.snap.vp (vbase + i)) })

/-- R101: FEED.MESH accepts n mesh deliveries. -/
def execFeedMesh (sl : Slot) (arr n fmt : Nat) (s : State) : Host.Outcome State Fault Refusal :=
  .next (field s sl [] [] fun l s =>
    feedEnter s sl.core arr l.snap { src := .mesh, fmt := fmt, addr := 0, left := n, sbase := 0, start := coreCyc s sl.core + 1 })

/-- Bytes of a stationary set of 16 rows of 16 elements (R100). -/
def setBytes (sf : Nat) : Nat := 32 * elemBits sf
/-- Vector registers that hold the rows of a set (R100). -/
def setRegs (sf : Nat) : Nat := elemBits sf / 2

/-- R77, R100: whether a LOADS may issue whose load would start in cycle L: an earlier load is read, its marker has issued, and the
marker has passed every cell of row 15. -/
def loadFree (x : Arr) (L : Nat) : Bool := x.load.isNone && x.shadow.isNone && decide (x.markEnd ≤ L)

/-- A LOADS from memory is taken by the loader (R77, R100); lead is L less its issue cycle. -/
def loadEnter (s : State) (c a : Nat) (snap : Core) (lead : Nat) (ld : LoadReq) : Option State :=
  let t := coreCyc s c
  if loadFree (snap.arr a) (t + lead) then
    some (onArr s c a fun x => { x with load := some { ld with start := t + 1 }, loadL := t + lead })
  else none

/-- R100: L less the issue cycle of a LOADS. -/
def loadLead (src : FSrc) : Nat := match src with | .cm => 5 | .ls => 3 | _ => 1

/-- R100: LOADS.CM and LOADS.LS; inc advances a by the set size, and for MX register a xor 1 by 16. -/
def loadsMem (src : FSrc) (sl : Slot) (arr a : Nat) (inc : Bool) (sf tf : Nat) (s : State) : State :=
  field s sl [] [] fun l s =>
    let base := BitVec.ofNat 32 (alignDown (l.snap.a a).toNat 6)
    let sb := l.snap.a (Nat.xor a 1)
    match loadEnter s sl.core arr l.snap (loadLead src)
        { src := src, addr := base, sbase := BitVec.ofNat 32 (alignDown sb.toNat 4), sf := sf, tf := tf } with
    | none => none
    | some s =>
      if inc then
        let s := onCore s sl.core fun k => k.setA a (l.snap.a a + BitVec.ofNat 32 (setBytes sf))
        if isMx sf then some (onCore s sl.core fun k => k.setA (Nat.xor a 1) (sb + 16)) else some s
      else some s

def execLoadsCm (sl : Slot) (arr a : Nat) (inc : Bool) (sf tf : Nat) (s : State) : Host.Outcome State Fault Refusal :=
  .next (loadsMem .cm sl arr a inc sf tf s)

def execLoadsLs (sl : Slot) (arr a : Nat) (inc : Bool) (sf tf : Nat) (s : State) : Host.Outcome State Fault Refusal :=
  .next (loadsMem .ls sl arr a inc sf tf s)

/-- Registers from vbase as one string. -/
def regString (k : Core) (vbase : Nat) : Nat → Nat × Bool
  | 0 => (0, false)
  | n + 1 =>
    let (y, q) := regString k (vbase + 1) n
    ((k.v vbase).toNat + 2 ^ 512 * y, k.vp vbase || q)

/-- Rows of 16 elements from a string of elements in row order. -/
def rowsOf (w x : Nat) : Nat → List (List (BitVec 32))
  | 0 => []
  | n + 1 => (unpackBits x w 16).map (BitVec.ofNat 32) :: rowsOf w (x / 2 ^ (16 * w)) n

def scalesOf (x : Nat) : List (BitVec 8) := bytesOf 16 x

/-- The set of rows and, for an MX set, 16 column scales that two strings give (R75, R100). -/
def statSet (sf tf x sc : Nat) (p : Bool) : SSet :=
  { rows := rowsOf (elemBits sf) x 16, scales := if isMx sf then scalesOf sc else List.replicate 16 127
    sf := sf, tf := tf, poison := p }

/-- The set that a LOADS.V takes from registers: its rows, then the register of its scales (R100). -/
def regSet (k : Core) (vbase sf tf : Nat) : SSet :=
  let (x, p) := regString k vbase (setRegs sf)
  let r := vbase + setRegs sf
  statSet sf tf x (k.v r).toNat (p || (isMx sf && k.vp r))

/-- R93, R100: LOADS.V loads from registers from vbase, as they stand at the start of its issue cycle. -/
def execLoadsV (sl : Slot) (arr vbase sf tf : Nat) (s : State) : Host.Outcome State Fault Refusal :=
  .next (field s sl [] ((List.range (setRegs sf + (if isMx sf then 1 else 0))).map (vbase + ·)) fun l s =>
    let L := coreCyc s sl.core + loadLead .v
    if loadFree (l.snap.arr arr) L then
      some (onArr s sl.core arr fun x => { x with shadow := some (regSet l.snap vbase sf tf), loadL := L
                                                  loadEnd := L + 15 + bit (isMx sf) })
    else none)

/-! Array operation field. -/

/-- R102: an operation enters the request queue of four entries; a full queue keeps its bundle from issuing. vs is the vector register
that it names (R109). -/
def reqEnter (sl : Slot) (arr : Nat) (vs : List Nat) (r : AReq) (s : State) : State :=
  field s sl [] vs fun l s =>
    if 4 ≤ (l.snap.arr arr).reqs.length then none
    else some (onArr s sl.core arr fun x => { x with reqs := x.reqs ++ [r] })

def execIss (sl : Slot) (arr n : Nat) (s : State) : Host.Outcome State Fault Refusal :=
  .next (reqEnter sl arr [] (.vecs n false) s)
def execPass (sl : Slot) (arr n : Nat) (s : State) : Host.Outcome State Fault Refusal :=
  .next (reqEnter sl arr [] (.vecs n true) s)
def execPre (sl : Slot) (arr v : Nat) (s : State) : Host.Outcome State Fault Refusal :=
  .next (reqEnter sl arr [v] (.pre v) s)
def execDrain (sl : Slot) (arr v : Nat) (s : State) : Host.Outcome State Fault Refusal :=
  .next (reqEnter sl arr [v] (.drain v) s)
def execDiscard (sl : Slot) (arr : Nat) (s : State) : Host.Outcome State Fault Refusal :=
  .next (reqEnter sl arr [] .discard s)

/-! Reads of feeders and loaders: a form reaches only its own memory (R99, R100). -/

/-- Whether an address lies in the memory that a form reaches (R99, R100). -/
def srcIn (src : FSrc) (a : Nat) : Bool :=
  match src, localOf a with
  | .cm, some .cm => true
  | .ls, some .ls => true
  | _, _ => false

/-- A read of an array presented at the bank of its address (R60, R67, R100): it is the array's one read of the cycle. -/
def arrAsk (s : State) (c a : Nat) (src : FSrc) (addr : Nat) : State × Bool :=
  let t := coreCyc s c
  let s := onArr s c a fun x => { x with portUsed := t + 1 }
  match src with
  | .cm => cmAsk s c addr true
  | _ => lsAsk s c (addr - 0x400000) true

/-! Vector issue (R51 to R54, R69, R70, R76, R78, R83). -/

/-- FP32 value of an accumulator or lane, or its INT32 value. -/
def accVal (int : Bool) (x : BitVec 32) : Val := if int then valInt x.toInt 0 else fp32.decode x.toNat

/-- One column of a float accumulation (R51, R52): the sum t of a vector's products with its scale, as an FP32
encoding, whether it is finite, its flags, and the residue prediction of S with the amount rounding changed (R83). -/
structure ColSum where
  t : Nat
  fin : Bool
  fl : Fl
  rho : Nat
deriving DecidableEq, Repr

def colFloat (sv tv : List Val) (scaled : Bool) (k : Int) : ColSum :=
  if sv.any Val.isNan || tv.any Val.isNan then ⟨0x7FC00000, false, flNone, 0⟩
  else
    let prods := (sv.zip tv).map fun ab => mulV ab.1 ab.2
    let pfl := prods.foldl (fun f p => f ||| p.2) flNone
    let (sum, sfl) := sumV (prods.map (·.1))
    let sum := if scaled then sum.scale k else sum
    let fl := pfl ||| sfl
    let (t, rfl') := fp32.encode true .rne sum
    let tv' := fp32.decode t
    let pr := ((sv.zip tv).map fun ab => rho ab.1 * rho ab.2).foldl (· + ·) 0
    let pr := if scaled && decide (k % 2 ≠ 0) then 2 * pr else pr
    let delta := rho (sumFin [tv', sum.neg])
    ⟨t, tv'.isFin, fl ||| (rfl' &&& flOf), (pr + delta) % 3⟩

/-- One accumulator step in FP32 (R51, R52, R78): base is none for clear mode. -/
def accFloat (base : Option (BitVec 32)) (t : Nat) : Nat × Fl × Nat :=
  match base with
  | none => (t, flNone, 0)
  | some b =>
    let sum := sumV [fp32.decode b.toNat, fp32.decode t]
    let (x, fl) := roundV fp32 sum
    let delta := if sum.1.isFin then rho (sumFin [fp32.decode x, sum.1.neg]) else 0
    (x, fl &&& (flNv ||| flOf), delta)

/-- INT32 range. -/
def clamp32 (i : Int) : Int := if i < -2147483648 then -2147483648 else if 2147483647 < i then 2147483647 else i

/-- One column of an integer accumulation (R54). -/
def accInt (base : Option (BitVec 32)) (sv tv : List Val) : Nat × Fl × Nat :=
  let sum := ((sv.zip tv).map fun ab => ab.1.sm * ab.2.sm).foldl (· + ·) 0
  let tot := (base.map (·.toInt)).getD 0 + sum
  let c := clamp32 tot
  let pr := ((sv.zip tv).map fun ab => rho ab.1 * rho ab.2).foldl (· + ·) 0
  ((BitVec.ofInt 32 c).toNat, if c = tot then flNone else flOf, (pr + rho (valInt (c - tot) 0)) % 3)

/-- The whole accumulation after a vector: set is the stationary set, cls the pass's class, v the vector, base the
starting values of a new accumulation (none: clear mode) or the current one's. -/
def accStep (set : SSet) (cls : PairClass) (v : FVec) (new : Bool) (pre : Option (Vec × Bool)) (acc : Accum) : Accum :=
  let lane (c : Nat) : BitVec 32 := (acc.vals[c]?).getD 0
  let base (c : Nat) : Option (BitVec 32) :=
    if new then pre.map fun p => BitVec.ofNat 32 (bitsAt p.1.toNat 32 c) else some (lane c)
  let scaled := isMx set.sf || isMx set.tf
  let col (c : Nat) : Nat × Fl × Nat × Bool :=
    let sc := (set.scales[c]?).getD 127
    let xt := v.scale.getD 127
    let sv := set.rows.map fun r => elemVal set.sf ((r[c]?).getD 0).toNat
    let tv := v.elems.map fun e => elemVal set.tf e.toNat
    let nan := (isMx set.sf && sc == 0xFF) || (isMx set.tf && xt == 0xFF)
    let b := base c
    let rb := match b with
      | some x => if new then rho (accVal cls.int x) else (acc.rho[c]?).getD 0
      | none => 0
    if cls.int then
      let (x, fl, pr) := accInt b sv tv
      (x, fl, (rb + pr) % 3, false)
    else
      let xs : Nat := if isMx set.sf then sc.toNat else 127
      let xv : Nat := if isMx set.tf then xt.toNat else 127
      let cs := if nan then ⟨0x7FC00000, false, flNone, 0⟩ else colFloat sv tv scaled ((xs : Int) + (xv : Int) - 254)
      let (x, fl, pr) := accFloat b cs.t
      (x, cs.fl ||| fl, (rb + cs.rho + pr) % 3, !cs.fin || !(fp32.decode x).isFin)
  let cols := (List.range 16).map col
  { vals := cols.map fun x => BitVec.ofNat 32 x.1
    int := cls.int
    rho := cols.map fun x => x.2.2.1
    skip := cols.zipIdx.map fun x => x.1.2.2.2 || (!new && (acc.skip[x.2]?).getD false)
    fl := cols.foldl (fun f x => f ||| x.2.1) (if new then 0 else acc.fl)
    poison := v.poison || set.poison || (match pre with | some p => new && p.2 | none => false) || (!new && acc.poison)
    any := true }

/-- A vector takes effect in an accumulation, with the set of its pass. -/
def Accum.take (acc : Accum) (set : SSet) (f : Flight) : Accum :=
  match pairClass set.sf set.tf with
  | some cls => accStep set cls f.vec f.new f.pre acc
  | none => acc

/-- The vectors of an accumulation that waited for rows of their set take effect in the order of their issue. One that has been
ended keeps no flag (R79). -/
def Accum.settle (acc : Accum) (set : SSet) : Accum :=
  if acc.pipe.isEmpty then acc
  else
    let r := acc.pipe.foldl (fun x f => x.take set f) { acc with pipe := [] }
    if acc.any then r else { r with fl := 0, any := false }

/-! Stationary loads from memory (R75, R100). -/

/-- The last word of a load has been read: the set stands in the shadow bank, or in the active one where the marker of its pass
has issued. -/
def loadDone (x : Arr) (ld : LoadReq) (sc : Nat) (p : Bool) : Arr :=
  let set := statSet ld.sf ld.tf ld.data sc p
  let x := { x with load := none, loadEnd := x.loadL + 15 + (if isMx ld.sf then 1 + ld.slip else 0) }
  if ld.act then
    { x with active := set, acc := x.acc.settle set, draining := x.draining.map fun d => { d with acc := d.acc.settle set } }
  else { x with shadow := some set }

/-- R100: a read of the loader that is not served is presented again, and L moves on with it. -/
def loadSlip (x : Arr) (ld : LoadReq) (sc : Bool) : Arr :=
  if sc then { x with load := some { ld with slip := ld.slip + 1 } } else { x with loadL := x.loadL + 1 }

/-- R100: a read of the loader is served: a word of the rows, or the column scales. -/
def loadGot (x : Arr) (ld : LoadReq) (n : Nat) (sc : Bool) (w : Nat) (p : Bool) : Arr :=
  if sc then loadDone x ld w (ld.poison || p)
  else
    let ld := { ld with got := ld.got + 1, data := ld.data + 2 ^ (512 * ld.got) * w, poison := ld.poison || p }
    if ld.got = n ∧ isMx ld.sf = false then loadDone x ld 0 ld.poison else { x with load := some ld }

/-- R75, R100: the loader of an array reads one word in a cycle, ahead of its stream, a read of the stream that was not served
included; a word outside the form's range faults the core. -/
def execStationaryLoadStart (core arr : Nat) (s : State) : Host.Outcome State Fault Refusal :=
  .next (
    let x := (s.core core).arr arr
    let t := coreCyc s core
    match x.load with
    | none => s
    | some ld =>
      if !arrGo s core || (s.core core).faulted || decide (t < ld.start ∨ x.portUsed = t + 1) then s
      else
        let n := setBytes ld.sf / 64
        let sc := decide (n ≤ ld.got)
        let a := if sc then ld.sbase.toNat else (ld.addr.toNat + 64 * ld.got) % 2 ^ 32
        if !srcIn ld.src a then coreFault (onArr s core arr fun x => { x with load := none }) core .accessViolation
        else
          let (s, ok) := arrAsk s core arr ld.src a
          if ok then
            let s := localFinds s core a (if sc then 16 else 64)
            match localRead s core a (if sc then 16 else 64) with
            | some (w, p) => onArr s core arr fun x => loadGot x ld n sc w p
            | none => s
          else onArr s core arr fun x => loadSlip x ld sc)

/-! Feeder pushes (R71 to R73, R99). -/

/-- A vector's 16 elements from its bytes. -/
def vecElems (fmt : Nat) (bs : List Byte) : List (BitVec 32) :=
  (unpackBits (natOf bs) (elemBits fmt) 16).map (BitVec.ofNat 32)

/-- The pieces of n bytes read at a, each byte with its piece's mark. -/
def markBytes (s : State) (c a n x : Nat) : List (Byte × Bool) :=
  (bytesOf n x).zipIdx.map fun bi =>
    (bi.1, match localRead s c (a + bi.2) 1 with | some (_, p) => p | none => false)

/-- Sources that a feeder reads through a bank. -/
def FSrc.mem (src : FSrc) : Bool := match src with | .cm | .ls => true | _ => false

/-- Cycles from the one in which a read is served to the one in which its bytes can be pushed (R65, R67). -/
def feedLag (src : FSrc) : Nat := match src with | .cm => 3 | _ => 1

/-- Vectors read and not yet pushed, those on their way among them. -/
def feedAhead (sts : List Stream) : Nat :=
  (sts.map fun st => vecsOf st.fmt (st.fly.foldl (fun n f => n + f.2.length) st.buf.length)).foldl (· + ·) 0

/-- Address of the scale byte of a descriptor's next vector (R53, R73). -/
def scaleAddr (st : Stream) : Nat := (st.sbase.toNat + st.vec / 2) % 2 ^ 32

/-- R73: whether the next vector of a descriptor needs a scale word that the feeder neither holds nor has on its way. -/
def needScale (t : Nat) (st : Stream) : Bool :=
  st.src.mem && isMx st.fmt && decide (st.start ≤ t ∧ st.vec < st.total ∧ st.scaleDue < t) &&
    (match st.scaleWord with | some w => decide (w.1 ≠ alignDown (scaleAddr st) 6) | none => true)

/-- The descriptor that is being read: the first with something left, once it may start (R99). -/
def feedReader (t : Nat) (sts : List Stream) : Option (Stream × Nat) :=
  match sts.zipIdx.find? fun x => decide (x.1.left ≠ 0) with
  | some x => if x.1.start ≤ t then some x else none
  | none => none

/-- R73, R99, R100: the read that a feeder presents in cycle t, by its descriptor, and whether it is for the scale plane: one not
served before, else a scale word that a next vector needs, else the next element word, in time to cover the latency of a read. -/
def pickRead (t : Nat) (sts : List Stream) : Option (Nat × Bool) :=
  match sts.zipIdx.find? fun x => x.1.ask.isSome with
  | some x => some (x.2, x.1.ask == some true)
  | none =>
    let rd := feedReader t sts
    match (sts.zipIdx.take 1 ++ rd.toList).find? fun x => needScale t x.1 with
    | some x => some (x.2, true)
    | none =>
      match rd with
      | some x => if x.1.src.mem && decide (feedAhead sts ≤ feedLag x.1.src) then some (x.2, false) else none
      | none => none

/-- A descriptor after its read in cycle t is served: a scale word, or an element word. -/
def Stream.got (st : Stream) (s : State) (c t : Nat) (sc : Bool) (a : Nat) : Stream :=
  match localRead s c a 64 with
  | none => st
  | some (w, p) =>
    if sc then { st with ask := none, scaleWord := some (a, BitVec.ofNat 512 w, p), scaleDue := t + feedLag st.src }
    else { st with ask := none, addr := st.addr + 64, left := st.left - 1
                   fly := st.fly ++ [(t + feedLag st.src, markBytes s c a 64 w)] }

/-- R99, R100: the feeder of an array presents its read where the loader has not; a word outside the form's range faults the core. -/
def feedPresent (s : State) (c a : Nat) : State :=
  let x := (s.core c).arr a
  let t := coreCyc s c
  if x.portUsed = t + 1 then s
  else
    match pickRead t x.streams with
    | none => s
    | some (i, sc) =>
      match x.streams[i]? with
      | none => s
      | some st =>
        let addr := if sc then alignDown (scaleAddr st) 6 else st.addr.toNat
        if !srcIn st.src addr then coreFault s c .accessViolation
        else
          let (s, ok) := arrAsk s c a st.src addr
          let s := if ok then localFinds s c addr 64 else s
          let st := if ok then st.got s c t sc addr else { st with ask := some sc }
          onArr s c a fun x => { x with streams := x.streams.set i st }

/-- Words that have arrived by cycle t are in the unpack register (R65, R67). -/
def Stream.arrive (st : Stream) (t : Nat) : Stream :=
  { st with buf := st.buf ++ ((st.fly.filter fun f => decide (f.1 ≤ t)).flatMap (·.2)), fly := st.fly.filter fun f => decide (t < f.1) }

/-- R73: a FEED.V in progress takes its next register where no whole vector is left; an MX register gives the two vectors of its
block and the scale in its byte 63. -/
def Stream.takeReg (st : Stream) : Stream :=
  match st.regs with
  | [] => st
  | (v, p) :: rs =>
    let bs := bytesOf 64 v.toNat
    let use := if isMx st.fmt then bs.take (4 * elemBits st.fmt) else bs
    { st with regs := rs, left := st.left - 1, buf := st.buf ++ use.map fun b => (b, p)
              scaleWord := if isMx st.fmt then some (0, BitVec.ofNat 512 (v.toNat / 2 ^ 504), p) else none }

/-- A descriptor with no vector left to push: what remains of it is dropped (R73, R99). -/
def Stream.spent (st : Stream) : Bool := decide (st.left = 0 ∧ st.fly = [] ∧ st.buf.length < vecBytes st.fmt)

def dropSpent : List Stream → List Stream
  | [] => []
  | st :: r => if st.spent then dropSpent r else st :: r

/-- The scale of a descriptor's next vector, where the feeder holds it (R73). -/
def scaleOf (t : Nat) (st : Stream) : Option (BitVec 8 × Bool) :=
  match st.scaleWord with
  | none => none
  | some (w, x, p) =>
    if st.src.mem then
      if w = alignDown (scaleAddr st) 6 ∧ st.scaleDue ≤ t then
        some (BitVec.ofNat 8 (x.toNat / 2 ^ (8 * (scaleAddr st % 64))), p)
      else none
    else some (BitVec.ofNat 8 x.toNat, p)

/-- R73: the vector that a descriptor can push in cycle t. -/
def Stream.vector (st : Stream) (t : Nat) : Option FVec :=
  if st.buf.length < vecBytes st.fmt then none
  else
    let bs := st.buf.take (vecBytes st.fmt)
    let v := vecElems st.fmt (bs.map (·.1))
    if isMx st.fmt then (scaleOf t st).map fun sc => ⟨st.fmt, v, some sc.1, bs.any (·.2) || sc.2⟩
    else some ⟨st.fmt, v, none, bs.any (·.2)⟩

/-- A descriptor after a push; with its last vector it leaves the stream queue (R99). -/
def Stream.pushed (st : Stream) : Stream := { st with buf := st.buf.drop (vecBytes st.fmt), vec := st.vec + 1 }

/-- R72, R73, R99: the work of a feeder in cycle t once its read has been presented: what has arrived, a register taken, one
vector pushed into queues that are not full. -/
def feedWork (t : Nat) (x : Arr) : Arr :=
  let sts := x.streams.map fun st => st.arrive t
  let sts := match feedReader t sts with
    | some (st, i) => if st.src = .v ∧ feedAhead sts = 0 then sts.set i st.takeReg else sts
    | none => sts
  match dropSpent sts with
  | [] => { x with streams := [] }
  | st :: rest =>
    match st.vector t with
    | none => { x with streams := st :: rest }
    | some v =>
      if 8 ≤ x.fq.length then { x with streams := st :: rest }
      else
        let st := st.pushed
        { x with fq := x.fq ++ [v], streams := if st.spent then rest else st :: rest }

/-- R73: one cycle of a feeder with a stream: it presents a read and pushes a vector. -/
def execFeederPush (core arr : Nat) (s : State) : Host.Outcome State Fault Refusal :=
  .next (
    let x := (s.core core).arr arr
    let t := coreCyc s core
    if x.streams.isEmpty || !arrGo s core || (s.core core).faulted || decide (x.fedAt = t + 1) then s
    else
      let s := feedPresent (onArr s core arr fun x => { x with fedAt := t + 1 }) core arr
      if (s.core core).faulted then s else onArr s core arr (feedWork t))

/-- R101: a 64-byte mesh delivery to a feeder; a full feeder, or none of FEED.MESH in progress, faults the core. A delivery
beyond the descriptor's count, while its last vectors are still to be pushed, faults it INVALID too: DESIGN CHOICE, the manual does
not say (log entry 80). It gives no source for the block scale of an MX delivery: that is an open value (log entry 8). -/
def meshFeed (s : State) (c a : Nat) (word : Vec) (psn : Bool × Bool) : State :=
  let x := (s.core c).arr a
  match x.streams with
  | st :: rest =>
    if st.src = .mesh ∧ x.fq.length < 8 ∧ 0 < st.left then
      let bs := (bytesOf 64 word.toNat).zipIdx.map fun bi => (bi.1, if bi.2 < 32 then psn.1 else psn.2)
      let (sc, s) := if isMx st.fmt then
          let (v, s') := s.draw 8
          (some (0, v.setWidth 512, false), s')
        else (none, s)
      let d := coreCyc s c + 1
      onArr s c a fun x =>
        { x with streams := { st with left := st.left - 1, fly := st.fly ++ [(d, bs)], scaleWord := sc } :: rest }
    else coreFault s c .invalid
  | [] => coreFault s c .invalid

/-! Vector issue (R70, R76, R103). -/

/-- The operand pair of the pass that a requested vector belongs to, and its set where it is wholly read (R75, R103). A vector
with the marker begins the pass of the newest load. -/
def passOf (x : Arr) (mark : Bool) : Option (Nat × Nat × Option SSet) :=
  if mark then
    match x.shadow, x.load with
    | some set, _ => some (set.sf, set.tf, some set)
    | none, some ld => if ld.act || decide (ld.got = 0) then none else some (ld.sf, ld.tf, none)
    | none, none => none
  else
    some (x.active.sf, x.active.tf, if x.load.any (·.act) then none else some x.active)

/-- The accumulation after a vector: it takes effect at once where its set is wholly read, else when it is. -/
def accPut (acc : Accum) (set : Option SSet) (int : Bool) (f : Flight) : Accum :=
  match set with
  | some st => if acc.pipe.isEmpty then acc.take st f else { acc with int := int, any := true, pipe := acc.pipe ++ [f] }
  | none => { acc with int := int, any := true, pipe := acc.pipe ++ [f] }

/-- The banks once the marker has issued: the loaded one is active (R76). -/
def Arr.swap (x : Arr) (sf tf : Nat) (t : Nat) : Arr :=
  match x.shadow with
  | some set => { x with active := set, shadow := none, markEnd := t + 32 }
  | none => { x with active := { SSet.zero with sf := sf, tf := tf }, load := x.load.map fun ld => { ld with act := true }
                     markEnd := t + 32 }

/-- R70, R76, R103: an array issues the next requested vector where every condition of R70 holds. -/
def execArrayVectorIssue (core arr : Nat) (s : State) : Host.Outcome State Fault Refusal :=
  .next (
    let k := s.core core
    let x := k.arr arr
    let t := coreCyc s core
    if !arrGo s core || k.faulted || decide (t < x.nextIss) then s
    else
      match x.reqs, x.fq with
      | .vecs left mark :: rs, v :: fq =>
        if !mark && decide (x.inForce = 0) then coreFault s core .invalid
        else if mark && decide (t < x.loadL + 1) then s
        else
          match passOf x mark with
          | none => s
          | some (sf, tf, set) =>
            match pairClass sf tf with
            | none => s
            | some cls =>
              if v.fmt ≠ tf ∨ (x.accOpen = true ∧ x.acc.int ≠ cls.int) then coreFault s core .invalid
              else
                let new := !x.accOpen
                let pre := if new then x.preload.map fun r => (k.v r, k.vp r) else none
                let acc := accPut x.acc set cls.int ⟨v, new, pre⟩
                let rs := if left ≤ 1 then rs else .vecs (left - 1) false :: rs
                let x := { x with reqs := rs, fq := fq, acc := acc, accOpen := true, preload := if new then none else x.preload
                                  inForce := cls.v, nextIss := t + cls.v, fillAt := t + 19 + cls.v }
                s.setCore core (k.setArr arr (if mark then x.swap sf tf t else x))
      | _, _ => s)

/-! Drains (R79, R83, R84). -/

/-- Columns whose residue comparison does not match. -/
def drainMismatch (acc : Accum) (vals : List (BitVec 32)) : List Nat :=
  if acc.any then
    (List.range 16).filter fun c =>
      let v := accVal acc.int ((vals[c]?).getD 0)
      !((acc.skip[c]?).getD false) && v.isFin && decide (rho v ≠ (acc.rho[c]?).getD 0)
  else []

/-- n counted events of a unit in one cycle with one record (R84, R334). -/
def residueEvents (s : State) (c a n mask : Nat) : State :=
  let rec go : Nat → State → State
    | 0, s => s
    | k + 1, s =>
      let old := tget [] s.errs.times (unitCore c)
      let s := countUnit s (unitCore c)
      let (s, lv, _) := thresholds s (unitCore c) .residue old
      go k (if rf s (fErrUnit_level (unitCore c)) < lv then wf s (fErrUnit_level (unitCore c)) lv else s)
  let s := go (n - 1) s
  errEvent s .residue .checkMismatch (unitCore c) 0 (a * 2 ^ 16 + mask) 0

/-- R79: the oldest drain of an array completes once D + 16 is over: the destination register holds the accumulators, and the flags
reach CORE_FPFLAG. upset names bits that hardware flipped between the accumulators and the comparison. -/
def execDrainFire (core arr : Nat) (upset : Upset) (s : State) : Host.Outcome State Fault Refusal :=
  .next (
    let k := s.core core
    let x := k.arr arr
    match x.draining with
    | [] => s
    | ⟨dst, acc, fire⟩ :: rest =>
      if decide (coreCyc s core < fire + 17) || !acc.pipe.isEmpty then s
      else
        let vals := acc.vals.zipIdx.map fun vi =>
          upset.foldl (fun v u => if u.1 = vi.2 then v ^^^ u.2 else v) vi.1
        let bad := drainMismatch acc vals
        let lanes := packBits 32 (vals.map (·.toNat))
        let k := (k.setArr arr { x with draining := rest }).setV dst (BitVec.ofNat 512 lanes)
                   (acc.poison || !bad.isEmpty)
        let s := addFlags (s.setCore core k) core acc.fl
        if bad.isEmpty then s
        else
          let mask := (bad.map (2 ^ ·)).foldl (· + ·) 0
          let s := setB s (if arr = 0 then fCoreArrstat0_rerr core else fCoreArrstat1_rerr core)
          let s := incSat s (if arr = 0 then fCoreReserr_arr0 core else fCoreReserr_arr1 core) bad.length
          residueEvents s core arr bad.length mask)

end Sys2Proof.Machine
end

