-- ==== Sys2Proof/Machine/Mesh.lean ====
section
/-! DEFINITION. The scheduled mesh and Press (R121 to R139): port segments, schedule entries, the sequencer, lanes,
deliveries, and the simulation that LOAD_SCHEDULE makes (R135). -/
namespace Sys2Proof.Machine

/-! Line check of a 32-byte piece (R318). -/

/-- XOR of the bits k of a piece with k mod 3 ≠ r, three bits at a time from the least significant. -/
def parityWithout (r : Nat) : Nat → Nat → Bool
  | 0, _ => false
  | n + 1, x =>
    let b (j : Nat) : Bool := decide (j ≠ r) && decide (x / 2 ^ j % 2 = 1)
    ((b 0 != b 1) != b 2) != parityWithout r n (x / 8)

/-- The two check bits of a piece: c0 leaves out k mod 3 = 1, c1 leaves out k mod 3 = 0. -/
def pieceCheck (x : BitVec 256) : BitVec 2 :=
  BitVec.ofNat 2 (bit (parityWithout 1 86 x.toNat) + 2 * bit (parityWithout 0 86 x.toNat))

/-- A valid lane-flit with its check. -/
def mkFlit (x : BitVec 256) (psn : Bool) : Flit := { valid := true, poison := psn, chk := pieceCheck x, data := x }

/-! Port segments (Tables 5-1 and 5-2). Ports: 0 north, 1 east, 2 south, 3 west. -/

inductive Seg where
  | link (cl latency : Nat)
  | gateway (p : Nat)
  | none
deriving DecidableEq, Repr

/-- Gateway cluster and outward port of each link port (Table 5-2). -/
def gateways : List (Nat × Nat) :=
  [(7, 0), (128 + 8, 0), (128 + 63, 1), (384 + 79, 1), (384 + 120, 2), (256 + 119, 2), (256 + 64, 3), (48, 3)]

/-- The link port whose gateway is this cluster's port. -/
def gatewayAt (cl port : Nat) : Option Nat :=
  (List.range 8).find? fun p => decide (gateways[p]? = some (cl, port))

/-- The neighbour of a cluster at a port, inside the grid. -/
def gridNeighbour (cl port : Nat) : Option Nat :=
  let c := gcolOf cl
  let r := growOf cl
  match port with
  | 0 => if r = 0 then .none else some (clusterAt c (r - 1))
  | 1 => if c = 31 then .none else some (clusterAt (c + 1) r)
  | 2 => if r = 15 then .none else some (clusterAt c (r + 1))
  | _ => if c = 0 then .none else some (clusterAt (c - 1) r)

/-- The segment of a port (R122). -/
def segmentOf (cl port : Nat) : Seg :=
  match gatewayAt cl port with
  | some p => .gateway p
  | none =>
    match gridNeighbour cl port with
    | .none => .none
    | some n =>
      if dieOf n = dieOf cl then .link n (if quadOf n = quadOf cl then 1 else 4)
      else if port = 1 ∨ port = 3 then .link n 24
      else if colOf cl % 2 = 0 then .link n 24
      else .none

/-- The port that faces back. -/
def opposite (port : Nat) : Nat := (port + 2) % 4

/-- The unit that sends on an input lane: the neighbour, the die-bridge port, or the link port (R320, Table 12-6). -/
def laneSender (cl lane : Nat) : Nat :=
  let port := lane / 4
  match segmentOf cl port with
  | .gateway p => unitLink p
  | .link n lat =>
    if lat = 24 then
      let lo := min (dieOf cl) (dieOf n)
      let hi := max (dieOf cl) (dieOf n)
      let pair := if lo = 0 ∧ hi = 1 then 0 else if lo = 2 ∧ hi = 3 then 1 else if lo = 0 then 2 else 3
      unitBridge (8 * pair + (if port % 2 = 1 then rowOf cl else colOf cl / 2))
    else unitCluster n
  | .none => unitCluster cl

/-! Schedule entries (Tables 5-3 and 5-4). -/

def seRun (e : BitVec 512) : Nat := bits e.toNat 496 16
def seSeq (e : BitVec 512) : Nat := bits e.toNat 492 4
def seCnt (e : BitVec 512) : Nat := bits e.toNat 480 12
/-- Stream j: enable, core, channel. -/
def seInject (e : BitVec 512) (j : Nat) : Bool × Nat × Nat :=
  let x := bits e.toNat (440 + 10 * j) 10
  (decide (512 ≤ x), x / 16 % 32, x % 16)
/-- Delivery lane j: generator and lane code. -/
def seDeliver (e : BitVec 512) (j : Nat) : Nat × Nat :=
  let x := bits e.toNat (356 + 21 * j) 21
  (x / 2 ^ 18, x % 2 ^ 18)
def seOut (e : BitVec 512) (j : Nat) : Nat := bits e.toNat (18 * j) 18

def lcOp (c : Nat) : Nat := bits c 15 3
def lcN (c : Nat) : Nat := bits c 13 2
def lcL (c : Nat) : Bool := c % 2 == 1
/-- The input lanes a lane code names. -/
def lcLanes (c : Nat) : List Nat := [bits c 9 4, bits c 5 4, bits c 1 4].take (lcN c)

/-! Press (R133). -/

/-- One element sum of a Press format: 2 FP32, 3 BF16, 4 INT32. The flags are those of MSH_PRSFLAG: nv and of. -/
def pressElem (op : Nat) (xs : List Nat) : Nat × Fl :=
  if op = 4 then
    let t := (xs.map (sint 32)).foldl (· + ·) 0
    let c := clamp32 t
    ((BitVec.ofInt 32 c).toNat, if c = t then flNone else flOf)
  else
    let f := if op = 2 then fp32 else bf16
    let (x, fl) := roundV f (sumV (xs.map f.decode))
    (x, fl &&& (flNv ||| flOf))

/-- A Press result of lane-flits. -/
def pressFlit (op : Nat) (fs : List Flit) : Flit × Fl :=
  let w := if op = 3 then 16 else 32
  let cols := fs.map fun f => unpackBits f.data.toNat w (256 / w)
  let rs := (List.range (256 / w)).map fun i => pressElem op (cols.map fun c => c.getD i 0)
  let x := BitVec.ofNat 256 (packBits w (rs.map (·.1)))
  ({ valid := fs.all (·.valid), poison := fs.any (·.poison), chk := pieceCheck x, data := x },
   rs.foldl (fun f r => f ||| r.2) flNone)

/-! Router work of one non-held core cycle (R129 to R131, R138). -/

def Router.lane (r : Router) (j : Nat) : Lane := tget {} r.lanes j
def Router.setLane (r : Router) (j : Nat) (l : Lane) : Router := { r with lanes := tset r.lanes j l }

/-- What the input lanes present: the oldest skid entry, else the arrival (R138). -/
def Router.presented (r : Router) (j : Nat) : Flit :=
  match (r.lane j).skid with
  | f :: _ => f
  | [] => ((r.lane j).pres).getD {}

/-- Input lanes that an entry takes. -/
def takenLanes (e : BitVec 512) : List Nat :=
  ((List.range 16).map (seOut e) ++ (List.range 4).map fun j => (seDeliver e j).2).flatMap fun c =>
    if lcOp c = 0 then [] else lcLanes c

/-- The lanes after a cycle in which the router took what they presented. A gateway's receive queue stays unless the entry
takes its head (R278). -/
def Router.advance (r : Router) (cl : Nat) (e : BitVec 512) : Router :=
  let after (x : Nat × Lane) : Nat × Lane :=
    if (gatewayAt cl (x.1 / 4)).isSome && !(takenLanes e).contains x.1 then x
    else
      match x.2.skid with
      | _ :: sk => (x.1, { x.2 with skid := sk })
      | [] => (x.1, { x.2 with pres := none })
  { r with lanes := r.lanes.map after }

/-- R130: stream j takes 32 bytes of its channel; an empty channel faults the core and gives a poisoned lane-flit, whose
data the manual leaves open. -/
def takeStream (s : State) (cl k ch : Nat) : State × Flit :=
  let c := 32 * cl + k
  match tget [] (s.core c).chans ch with
  | e :: r =>
    if e.half then
      (onCore s c fun x => { x with chans := tset x.chans ch r }, mkFlit (BitVec.ofNat 256 (e.v.toNat / 2 ^ 256)) e.poison)
    else
      (onCore s c fun x => { x with chans := tset x.chans ch ({ e with half := true } :: r) },
       mkFlit (BitVec.ofNat 256 e.v.toNat) e.poison)
  | [] =>
    let (x, s) := s.draw 256
    (coreFault s c .invalid, mkFlit x true)

/-- The streams of an entry. -/
def takeStreams (s : State) (cl : Nat) (e : BitVec 512) : State × List Flit :=
  (List.range 4).foldl (fun (a : State × List Flit) j =>
    let (en, k, ch) := seInject e j
    if en then
      let (s, f) := takeStream a.1 cl k ch
      (s, a.2 ++ [f])
    else (a.1, a.2 ++ [{}])) (s, [])

/-- The result of a lane code in a cycle, and its flags. -/
def laneResult (r : Router) (streams : List Flit) (j code : Nat) : Flit × Fl :=
  let srcs := (lcLanes code).map r.presented ++ (if lcL code then [(streams[(j % 4)]?).getD {}] else [])
  match lcOp code with
  | 0 => ({}, flNone)
  | 1 => ((srcs[0]?).getD {}, flNone)
  | op => pressFlit op srcs

/-- The partition that owns a port. -/
def portOwner (s : State) (b : Nat) : Option Nat := if rb s (fLnkPcfg_own b) then some (rf s (fLnkPcfg_part b)) else none

/-- R283: a transmit queue of a gateway lane holds 2,048 lane-flits; a full one holds the local partition by a link-pause. Which lanes are
full is looked at as lane-flits join and leave. -/
def txPauses (s : State) (b : Nat) : State :=
  match portOwner s b with
  | none => s
  | some p =>
    let x := s.part p
    let full (j : Nat) : Bool := decide (2048 ≤ ((tget [] s.gwTx b).filter fun f => decide (f.1 = j)).length)
    let pause := (x.linkPause.filter fun n => !decide (32 + 4 * b ≤ n ∧ n < 36 + 4 * b)) ++
      ((List.range 4).filter full).map fun j => 32 + 4 * b + j
    if x.run.isNone || pause == x.linkPause then s else updateLine (s.setPart p { x with linkPause := pause }) p

/-- A lane-flit placed on output lane j travels the port's segment (R122); at a gateway a valid one joins the transmit queue
of its link port (R264). An idle one is not carried over the border of a partition, whose two sides are not held together: DESIGN
CHOICE (log entry 84). -/
def placeFlit (s : State) (cl j : Nat) (f : Flit) : State :=
  match segmentOf cl (j / 4) with
  | .link n lat =>
    if !f.valid && decide (partOfCluster s n ≠ partOfCluster s cl) then s else
    let r := s.router n
    let i := 4 * opposite (j / 4) + j % 4
    let l := r.lane i
    s.setRouter n (r.setLane i { l with seg := l.seg ++ [(lat, f)] })
  | .gateway p => if !f.valid then s else txPauses { s with gwTx := tset s.gwTx p (tget [] s.gwTx p ++ [(j % 4, f)]) } p
  | .none => s

/-- MSH_PRSFLAG bits of a Press result. -/
def pressFlags (s : State) (cl : Nat) (fl : Fl) (psn : Bool) : State :=
  let s := if fl &&& flNv ≠ 0 then setB s (fMshPrsflag_nv cl) else s
  let s := if fl &&& flOf ≠ 0 then setB s (fMshPrsflag_of cl) else s
  if psn then setB s (fMshPrsflag_psn cl) else s

/-- What the output lanes carry in a cycle: the Press result that is due, else what the entry forwards (R129). Every non-held cycle
places one lane-flit, valid or idle, on each lane (R138). -/
def placeOuts (s : State) (cl : Nat) (fwd : Nat → Flit) : State :=
  (List.range 16).foldl (fun s j =>
    placeFlit s cl j (match (s.router cl).press.find? fun p => decide (p.1 = 1 ∧ p.2.1 = j) with
      | some p => p.2.2
      | none => fwd j)) s

/-- Press results that are still to come, a cycle nearer. -/
def Router.pressOn (r : Router) : List (Nat × Nat × Flit) :=
  (r.press.filter fun p => decide (1 < p.1)).map fun p => (p.1 - 1, p.2)

/-- A cycle of a router without an entry in force: Press results go on to their lanes, and the other lanes are idle. -/
def pressRest (s : State) (cl : Nat) : State :=
  let s := placeOuts s cl fun _ => {}
  let r := s.router cl
  s.setRouter cl { r.advance cl 0 with press := r.pressOn }

/-- One core cycle of a router whose entry e is in force: it takes sources, places results, and its pipelines advance. -/
def routerCycle (s : State) (cl : Nat) : State :=
  let r := s.router cl
  if r.done || !r.has || decide (r.rem = 0) then s
  else
    let e := tget 0 r.sched r.slot
    let (s, streams) := takeStreams s cl e
    let r := s.router cl
    -- output lanes
    let outs := (List.range 16).map fun j => (j, seOut e j, laneResult r streams j (seOut e j))
    let s := outs.foldl (fun s o =>
      let (_, code, f, fl) := o
      if lcOp code ≤ 1 then s else pressFlags s cl fl f.poison) s
    let s := placeOuts s cl fun j =>
      if lcOp (seOut e j) = 1 then (laneResult r streams j (seOut e j)).1 else {}
    let newPress := (outs.filter fun o => decide (2 ≤ lcOp o.2.1)).map fun o => (2, o.1, o.2.2.1)
    let press := r.pressOn ++ newPress
    -- delivery lanes
    let dels := (List.range 4).map fun j => (j, (seDeliver e j).1, (seDeliver e j).2,
      laneResult r streams j (seDeliver e j).2)
    let s := dels.foldl (fun s o =>
      let (_, _, code, f, fl) := o
      if lcOp code = 0 then s else pressFlags s cl fl f.poison) s
    let r := s.router cl
    let dlv := dels.foldl (fun t o =>
      let (j, g, code, f, _) := o
      if lcOp code = 0 then t
      else tset t j (tget [] t j ++ [{ due := if lcOp code = 1 then 1 else 3, gen := g, flit := f }])) r.dlv
    s.setRouter cl { (r.advance cl e) with press := press, dlv := dlv, rem := r.rem - 1 }

/-! Sequencer (R126). -/

/-- FINISH: levels considered innermost first; the answer is the entry to go to, if any, and the levels left open. -/
def finishLoops : Nat → List (Nat × Nat) → Option Nat × List (Nat × Nat)
  | 0, ls => (none, ls)
  | _ + 1, [] => (none, [])
  | n + 1, (e, cnt) :: ls => if 1 < cnt then (some e, (e, cnt - 1) :: ls) else finishLoops n ls

/-- An entry comes into force for run + 1 core cycles. -/
def Router.enter (r : Router) (n : Nat) : Router := { r with slot := n, rem := seRun (tget 0 r.sched n) + 1 }

/-- R126, Table 5-5: what follows the run of the entry in force. An entry that FINISH returned to does not open its
level again. -/
def Router.sequence (r : Router) : Router :=
  let e := tget 0 r.sched r.slot
  match seSeq e with
  | 1 =>
    if (r.loops.head?).map (·.1) = some r.slot then r.enter (r.slot + 1)
    else { r with loops := (r.slot, seCnt e + 1) :: r.loops }.enter (r.slot + 1)
  | 2 =>
    let (t, ls) := finishLoops (seCnt e % 4 + 1) r.loops
    { r with loops := ls }.enter (t.getD (r.slot + 1))
  | 3 => { r with done := true, rem := 0 }
  | _ => r.enter (r.slot + 1)

/-- Whether a cluster's router runs in this cycle. -/
def routerGo (s : State) (cl : Nat) : Bool :=
  match partOfCluster s cl with
  | some p => (s.part p).run.isSome && (s.part p).inStep && (s.part p).go
  | none => false

/-- R126: the run of the entry in force has expired. -/
def execScheduleEntryEnd (cl : Nat) (s : State) : Host.Outcome State Fault Refusal :=
  .next (
    let r := s.router cl
    if routerGo s cl && r.has && !r.done && decide (r.rem = 0) then
      let s := s.setRouter cl r.sequence
      if (s.router cl).done then boundaryIfDone s (partOfCluster s cl) else s
    else s)

/-- R138: in a held cycle what the lanes would present enters the skid. -/
def Router.heldLanes (r : Router) : Router :=
  { r with lanes := r.lanes.map fun x =>
      (x.1, match x.2.pres with
        | some f => { x.2 with skid := x.2.skid ++ [f], pres := none }
        | none => x.2) }

/-- The largest occupancy of a skid buffer at the end of a cycle. A gateway's receive queue is none (R278). -/
def skidTop (r : Router) (cl : Nat) : Nat :=
  (r.lanes.map fun x => if (gatewayAt cl (x.1 / 4)).isSome then 0 else x.2.skid.length).foldl max 0

/-- MSH_SKIDHW after a cycle. -/
def skidMark (s : State) (cl : Nat) : State :=
  let n := skidTop (s.router cl) cl
  if rf s (fMshSkidhw_max cl) < n then hwf s (fMshSkidhw_max cl) n else s

/-- R138, R320: the oldest lane-flit of an input lane's segment arrives and is checked; in a held cycle or behind
others it enters the skid, else the lane presents it in the next cycle, unless that is held. err names data bits that flipped on the
way. -/
def execLaneFlitArrival (cl lane : Nat) (err : BitVec 256) (s : State) : Host.Outcome State Fault Refusal :=
  .next (
    let r := s.router cl
    let l := r.lane lane
    match l.seg with
    | [] => s
    | (_, f) :: seg =>
      let f := { f with data := f.data ^^^ err }
      let bad := f.valid && !f.poison && decide (pieceCheck f.data ≠ f.chk)
      let f := if bad then { f with poison := true } else f
      let held := ((partOfCluster s cl).map fun p => !(s.part p).go).getD false
      let l := if held || !l.skid.isEmpty then { l with seg := seg, skid := l.skid ++ [f] }
               else { l with seg := seg, pres := some f }
      let s := s.setRouter cl (r.setLane lane l)
      if bad then errEvent s .lineCheck .checkMismatch (laneSender cl lane) 0 (unitCluster cl) 0 else s)

/-! Deliveries (R131). -/

def genKind (s : State) (cl g : Nat) : Nat := rf s (fMshDgen_kind (8 * cl + g))

/-- Byte address of lane-flit i of a generator, before it is taken modulo the target's size. -/
def genAddr (s : State) (cl g i : Nat) : Int :=
  let n := 8 * cl + g
  let inner := rf s (fMshDgen_inner n) + 1
  (rf s (fMshDgen_base n) : Int) + 32 * ((i % inner : Nat) : Int)
    + 32 * sint 16 (rf s (fMshDgen_stride n)) * ((i / inner : Nat) : Int)

/-- The access of a delivery write, which is served before every core request of its cycle (R60, R64, R67). -/
def Banks.deliver (b : Banks) (t bank word : Nat) : Banks :=
  let us := b.now t
  ⟨t, if us.any fun u => decide (u.bank = bank) then us else us ++ [{ bank := bank, word := word, read := false }]⟩

/-- The index of a lane-flit in its generator's count, and the count after it. A lane-flit of a step that is over has the index it was
given at its end. -/
def Router.flitIndex (r : Router) (x : Dlv) : Nat × Tab Nat :=
  match x.idx with
  | some i => (i, r.gcount)
  | none => let i := tget 0 r.gcount x.gen; (i, tset r.gcount x.gen (i + 1))

/-- Deliveries of a router a cycle nearer. -/
def Router.dlvOn (r : Router) : Router :=
  { r with dlv := r.dlv.map fun e => (e.1, e.2.map fun x => { x with due := x.due - 1 }) }

/-- The oldest of the lane-flits of a delivery lane that are due, and the others. -/
def dueDlv (xs : List Dlv) : Option (Dlv × List Dlv) :=
  match xs.find? fun x => decide (x.due = 0) with
  | some x => some (x, xs.erase x)
  | none => none

/-- R131: a lane-flit of a delivery lane that is due goes to its generator's target. No delivery is made in a held cycle. -/
def execMeshDelivery (cl d : Nat) (s : State) : Host.Outcome State Fault Refusal :=
  .next (
    let r := s.router cl
    match dueDlv (tget [] r.dlv d) with
    | none => s
    | some (x, rest) =>
      if !(((partOfCluster s cl).map fun p => (s.part p).go).getD true) then s
      else
        let (i, gcount) := r.flitIndex x
        let s := s.setRouter cl { r with dlv := tset r.dlv d rest, gcount := gcount }
        let n := 8 * cl + x.gen
        let core := 32 * cl + rf s (fMshDgen_core n)
        match genKind s cl x.gen with
        | 0 =>
          let b := (genAddr s cl x.gen i % 0x400000).toNat
          let a := cmAddr cl b
          let s := s.setBank cl ((s.bank cl).deliver (coreCyc s (32 * cl)) (bankOf b) (b / 64))
          { s with mem := memWrite s.mem a 32 x.flit.data.toNat, psn := psnSet s.psn a 32 x.flit.poison }
        | 1 =>
          let a := (genAddr s cl x.gen i % 0x10000).toNat
          let t := coreCyc s core
          onCore s core fun k => { k with scratch := memWrite k.scratch a 32 x.flit.data.toNat
                                          lsBanks := k.lsBanks.deliver t (a / 64 % 4) (a / 64)
                                          scratchPsn := psnSet k.scratchPsn a 32 x.flit.poison }
        | 2 =>
          let r := s.router cl
          if i % 2 = 0 then
            s.setRouter cl { r with flow := tset r.flow x.gen x.flit.data
                                    flowPsn := tset r.flowPsn x.gen x.flit.poison }
          else
            let lo := tget 0 r.flow x.gen
            let word := BitVec.ofNat 512 (lo.toNat + 2 ^ 256 * x.flit.data.toNat)
            meshFeed s core (rf s (fMshDgen_array n)) word (tget false r.flowPsn x.gen, x.flit.poison)
        | _ => s)

end Sys2Proof.Machine
end

