-- ==== Sys2Proof/Machine/Tiers.lean ====
section
/-! DEFINITION. The device address map, the near tier and the far tier (R148 to R170, R307, R320 to R322). -/
namespace Sys2Proof.Machine

/-- The ranges of Table 6-1. -/
inductive Rng where
  | near | far | scratch | cmem | regs | host | remote | reserved
deriving DecidableEq, Repr

def farBase : Nat := 0x010000000000
def scrBase : Nat := 0x020000000000
def hostBase : Nat := 0x080000000000
def remBase : Nat := 0x100000000000
def regBase : Nat := 0x040000000000

/-- R148: the range of a device address. -/
def rangeOf (a : Nat) : Rng :=
  if a < 0x002000000000 then .near
  else if farBase ≤ a ∧ a < 0x016000000000 then .far
  else if scrBase ≤ a ∧ a < 0x020018000000 then .scratch
  else if cmBase ≤ a ∧ a < 0x030080000000 then .cmem
  else if regBase ≤ a ∧ a < 0x040004000000 then .regs
  else if hostBase ≤ a ∧ a < 0x100000000000 then .host
  else if remBase ≤ a ∧ a < 0x300000000000 then .remote
  else .reserved

/-- R150: cascade position and local address of a remote address. -/
def remSplit (a : Nat) : Nat × Nat :=
  let off := (a - remBase) % 0x008000000000
  ((a - remBase) / 0x008000000000, if off < 0x002000000000 then off else farBase + (off - 0x002000000000))

/-- Whether the unpopulated part of R149 is addressed. -/
def unpopulated (a : Nat) : Bool :=
  match rangeOf a with
  | .near => decide (0x0C000000 ≤ a % 2 ^ 28)
  | .remote => let o := (a - remBase) % 0x008000000000
               decide (o < 0x002000000000 ∧ 0x0C000000 ≤ o % 2 ^ 28)
  | _ => false

/-- Line address. -/
def lineBase (a : Nat) : Nat := a / 256 * 256

/-! Byte masks and merges of a line. -/

def wholeMask : Nat := 2 ^ 256 - 1

/-- A line with the masked bytes replaced. -/
def mergeLine (old data mask : Nat) : Nat :=
  if mask = wholeMask then data % 2 ^ 2048
  else natOf ((List.range 256).map fun i =>
    BitVec.ofNat 8 (if mask / 2 ^ i % 2 = 1 then data / 2 ^ (8 * i) else old / 2 ^ (8 * i)))

/-- Pieces of a line that a byte mask touches, as an eight-bit mask. -/
def piecesOf (mask : Nat) : Nat :=
  (List.range 8).foldl (fun m i => if mask / 2 ^ (32 * i) % 2 ^ 32 ≠ 0 then m + 2 ^ i else m) 0

/-! Keys (R305, R307). -/

/-- The key a slot holds now: one number for each key drawn, 0 for a key of zeros (R306). -/
def keyId (s : State) (slot : Nat) : Nat := tget 0 s.slotKey slot

/-- A line stored under a key number; a line with any poisoned piece is stored poisoned whole (R321). -/
def storeNum (s : State) (num a data : Nat) (psn : Bool) : State :=
  { s with mem := memWrite s.mem a 256 data, psn := psnSet s.psn a 256 psn
           lineKey := tset s.lineKey (a / 256) num }

/-- A line stored under a slot's key. -/
def storeLine (s : State) (slot a data : Nat) (psn : Bool) : State := storeNum s (keyId s slot) a data psn

/-! The near tier. -/

def State.near (s : State) (i : Nat) : NearCh := tget {} s.nears i
def State.setNear (s : State) (i : Nat) (x : NearCh) : State := { s with nears := tset s.nears i x }
def State.far (s : State) (i : Nat) : FarCh := tget {} s.fars i
def State.setFar (s : State) (i : Nat) (x : FarCh) : State := { s with fars := tset s.fars i x }

/-- R153: channel 128e + c, bank and row of a near-tier address. -/
def nearChan (a : Nat) : Nat :=
  let n := a / 2 ^ 28
  128 * (2 * (n / 128) + a / 2 ^ 11 % 2) + n % 128
def nearBank (a : Nat) : Nat := bits a 12 4
def nearRow (a : Nat) : Nat := bits a 16 12
/-- The address of line i of channel ch, i from 0 to 393,215: row, bank, line within the row. -/
def nearLineAddr (ch i : Nat) : Nat :=
  let e := ch / 128
  let n := 128 * (e / 2) + ch % 128
  n * 2 ^ 28 + (i / 128) * 2 ^ 16 + (i / 8 % 16) * 2 ^ 12 + (e % 2) * 2 ^ 11 + (i % 8) * 256
/-- The cluster whose slice a channel serves. -/
def nearOwner (ch : Nat) : Nat := 128 * (ch / 256) + ch % 128

/-- R158: writes are queued and not written in hot and cold inhibit. -/
def inhibited (s : State) (ch : Nat) : Bool := decide (2 ≤ rf s (fNtcChstat_tstate ch))

/-- Location of a row in the defect list: row in the low half, bank above (log entry 20). -/
def rowLoc (bank row : Nat) : Nat := bank * 65536 + row

/-- R161, Table 12-7: a near-tier row is entered for repair, once. -/
def nearRowRepair (s : State) (ch bank row : Nat) : State :=
  let u := 0x4200 + ch
  match defectFlags s u 4 (rowLoc bank row) with
  | some _ => s
  | none => repair s u 4 0 (rowLoc bank row)

/-- The finding for a line. -/
def eccOf (t : Eccs) (a : Nat) : Ecc := tget .ok t (a / 256)

/-- A memory's own check of a stored piece fails (R320). -/
def ownMismatch (s : State) (u a piece : Nat) : State :=
  errEvent s .lineCheck .checkMismatch u a (u + piece * 65536) 0

/-- The data unit of a line (R307): its 256 bytes and the 2 bytes of its line check. -/
def lineUnit (d : Nat) : BitVec 2064 :=
  BitVec.ofNat 2064 (d % 2 ^ 2048 + 2 ^ 2048 * (List.range 8).foldl (fun m i =>
    m + 4 ^ i * (pieceCheck (BitVec.ofNat 256 (d / 2 ^ (256 * i)))).toNat) 0)

/-- Pieces of a data unit whose check does not hold. -/
def unitBad (x : BitVec 2064) : List Nat :=
  (List.range 8).filter fun i =>
    decide (pieceCheck (BitVec.ofNat 256 (x.toNat / 2 ^ (256 * i))) ≠ BitVec.ofNat 2 (x.toNat / 2 ^ (2048 + 2 * i)))

/-- What a line written under key number j, with marks p, yields to a read under a slot's key (R307, log entry 4). Under another
key the data unit is not the one written, and its memory, unit u, finds the pieces whose check does not hold (R320). -/
def underKey (s : State) (u slot j a d p : Nat) : State × Nat × Nat :=
  let id := keyId s slot
  if j = id then (s, d, p)
  else
    let x := Config.wrongKey id j (a / 256) (lineUnit d)
    let bad := (unitBad x).filter fun i => decide (p / 2 ^ i % 2 = 0)
    (bad.foldl (fun s i => ownMismatch s u a i) s, x.toNat % 2 ^ 2048, bad.foldl (fun m i => m + 2 ^ i) p)

/-- What memory, unit u, holds at a line whose code found marks m, decrypted with the key of a slot: bytes and piece marks. -/
def rawLine (s : State) (u slot a m : Nat) : State × Nat × Nat :=
  let d := memRead s.mem a 256
  let p := if psnAny s.psn a 256 then 255 else m
  match tfind s.lineKey (a / 256) with
  | none => (s, d, p)
  | some j => underKey s u slot j a d p

/-- What the code of a near-tier channel finds in a line it reads (R161, R320 to R322, R335). -/
def nearFinds (s : State) (a : Nat) (e : Ecc) : State × Nat :=
  let ch := nearChan a
  let u := 0x4200 + ch
  let loc := rowLoc (nearBank a) (nearRow a)
  match e with
  | .ok => (s, 0)
  | .corrected =>
    let s := corrected s u (nearRow a)
    let (s, again) := rowEvent s u loc
    (if again then nearRowRepair s ch (nearBank a) (nearRow a) else s, 0)
  | .uncorrectable =>
    let s := errEvent s .uncorrectable .uncorrectable u a (nearRow a) (nearBank a)
    let (s, _) := rowEvent s u loc
    (nearRowRepair s ch (nearBank a) (nearRow a), 255)
  | .mismatch p => (ownMismatch s u a p, 2 ^ (p % 8))

/-- R156, R158, R159: a read of a near-tier line: the newest of a queued write and a discarded one, else the DRAM. -/
def nearFetch (s : State) (q : Acc) (a : Nat) : State × Nat × Nat :=
  let x := s.near (nearChan a)
  let w := (x.wq.filter fun w => decide (w.line = a / 256)).getLast?
  let t := (x.table.find? fun t => decide (t.1 = a / 256)).map (·.2)
  let stored : State × Nat × Nat :=
    let (s, m) := nearFinds s a (eccOf q.ecc a)
    rawLine s (0x4200 + nearChan a) q.key a m
  match w, t with
  | none, none => stored
  | some w, none => underKey s (0x4200 + nearChan a) q.key w.key a w.data (if w.psn then 255 else 0)
  | none, some _ => let (s, d, _) := stored; (s, d, 255)
  | some w, some n => if w.seq < n then (let (s, d, _) := stored; (s, d, 255)) else underKey s (0x4200 + nearChan a) q.key w.key a w.data (if w.psn then 255 else 0)

/-- R156, R158, R159: a write of the masked bytes of a near-tier line; none while the queue takes no write. -/
def nearWrite (s : State) (q : Acc) (a data mask psn : Nat) : Option State :=
  let ch := nearChan a
  let x := s.near ch
  if inhibited s ch && (x.deferred || decide (64 ≤ x.wq.length)) then none
  else
    let (s, old, p) := if mask = wholeMask then (s, 0, 0) else nearFetch s q a
    let d := mergeLine old data mask
    let bad := decide (psn ≠ 0 ∨ p ≠ 0)
    if inhibited s ch then
      let x := s.near ch
      some (s.setNear ch { x with
        wq := x.wq ++ [{ seq := x.next, line := a / 256, data := d, psn := bad
                         due := s.devtime.toNat + rf s fNtcCtl_winh * 10 ^ 6
                         op := q.op, node := q.node, part := q.part, key := keyId s q.key }]
        next := x.next + 1 })
    else some (storeLine s q.key a d bad)

/-- Insertion by order of entry. -/
def insSeq (x : Nat × Option NWrite × Nat) : List (Nat × Option NWrite × Nat) → List (Nat × Option NWrite × Nat)
  | [] => [x]
  | y :: r => if x.1 < y.1 then x :: y :: r else y :: insSeq x r

/-- R158, R159: a channel that leaves inhibit writes its queued writes, and the lines of its table marked poisoned, in
the order in which they entered (log entry 21); the table and the queue are then empty. -/
def leaveInhibit (s : State) (ch : Nat) : State :=
  let x := s.near ch
  let items := (x.wq.map fun w => (w.seq, some w, w.line)) ++ x.table.map fun t => (t.2, none, t.1)
  let s := (items.foldr insSeq []).foldl (fun (s : State) i =>
    match i.2.1 with
    | some w => storeNum s w.key (256 * w.line) w.data w.psn
    | none => { s with psn := psnSet s.psn (256 * i.2.2) 256 true }) s
  wake (s.setNear ch { x with wq := [], table := [], deferred := false })

/-- One transition of Table 6-4 on an estimate in units of 1/128 °C; none: no valid estimate. A channel that leaves cold inhibit on an
estimate from 83.0 °C to below 85.0 °C meets the entry condition of no state: it goes to normal (DESIGN CHOICE, log entry 86). -/
def tstep (st : Nat) (t : Option Int) : Nat :=
  match t with
  | none => 2
  | some t =>
    if 95 * 128 < t then 2
    else if st = 2 then (if t ≤ 94 * 128 then (if t < 128 then 3 else 1) else 2)
    else if st = 3 then (if 128 ≤ t then 0 else 3)
    else if st = 0 then (if 85 * 128 ≤ t then 1 else if t < 0 then 3 else 0)
    else (if t < 83 * 128 then 0 else 1)

/-- R157: transitions one after another until none applies; at most three states are passed through. -/
def tsettle (st : Nat) (t : Option Int) : Nat := tstep (tstep (tstep (tstep st t) t) t) t

/-- R157: the channel of a die acts on the die's estimate. -/
def channelEstimate (s : State) (ch : Nat) (t : Option Int) : State :=
  let was := inhibited s ch
  let s := wf s (fNtcChstat_tstate ch) (tsettle (rf s (fNtcChstat_tstate ch)) t)
  if was && !inhibited s ch then leaveInhibit s ch else s

/-- R157, R354: near-tier node 8e + i is over channels 16i to 16i + 15 of die e, which act on its estimate. -/
def nearNodeEstimate (s : State) (n : Nat) (t : Option Int) : State :=
  (List.range 16).foldl (fun s c => channelEstimate s (128 * (n / 8) + 16 * (n % 8) + c) t) s

/-! The far tier. -/

/-- R163: pseudo-channel of a far-tier address. -/
def farPc (a : Nat) : Nat :=
  let l := (a - farBase) / 256
  Nat.xor (Nat.xor (bits l 0 9) (bits l 9 9)) (Nat.xor (bits l 18 9) (bits l 27 4))
/-- R163: index within the pseudo-channel. -/
def farIdx (a : Nat) : Nat := (a - farBase) / 256 / 512
/-- R164. -/
def farGroup (a : Nat) : Nat := bits (farIdx a) 2 2
def farBank (a : Nat) : Nat := bits (farIdx a) 4 2
def farRow (a : Nat) : Nat := bits (farIdx a) 6 16
def farQuarter (a : Nat) : Nat := bits (farIdx a) 0 2
/-- The address of line index j of a pseudo-channel: the one line of its 512 whose hash is P. -/
def farLineAddr (pc j : Nat) : Nat :=
  let low := Nat.xor pc (Nat.xor (bits j 0 9) (Nat.xor (bits j 9 9) (bits j 18 4)))
  farBase + 256 * (512 * j + low)

/-- R167: the far tier is available only when every stack is. -/
def farAvail (s : State) : Bool := (List.range 8).all fun h => rb s (fHbcStat_avail h)

/-- The other three lines of a far-tier line's row (R164). -/
def rowMates (a : Nat) : List Nat :=
  ((List.range 4).map fun i => farLineAddr (farPc a) (farIdx a / 4 * 4 + i)).filter fun b => decide (b ≠ lineBase a)

/-- R168: one of the row's other lines read, corrected where it can be, and written back, marked where it cannot. -/
def readBack (s : State) (a : Nat) (e : Ecc) : State :=
  let u := unitFar (farPc a)
  match e with
  | .ok => s
  | .corrected => corrected s u (farRow a)
  | .uncorrectable =>
    let s := errEvent s .uncorrectable .uncorrectable u a (farRow a) (4 * farBank a + farGroup a)
    { s with psn := psnSet s.psn a 256 true }
  | .mismatch p => let s := ownMismatch s u a p; { s with psn := psnSet s.psn a 256 true }

/-- R168: a row that meets the repair condition is soft-repaired, or left waiting while its bank group holds a repair; either way it
is entered in the defect list, once. Its four lines are written back, one that could not be corrected poisoned. t names what is found
in the row's lines. -/
def farRowRepair (s : State) (a : Nat) (t : Eccs) (bad : Bool) : State :=
  let pc := farPc a
  let u := unitFar pc
  let bank := 4 * farBank a + farGroup a
  let loc := rowLoc bank (farRow a)
  let h := pc / 64
  let listed := (defectFlags s u 5 loc).isSome
  let s := if listed then s else incSat s (fHbcStat_hrepq h) 1
  let x := s.far pc
  if x.soft.contains (farGroup a) then (if listed then s else repair s u 5 0 loc)
  else
    let s := s.setFar pc { x with soft := farGroup a :: x.soft }
    let s := incSat s (fHbcStat_srep h) 1
    let s := if bad then { s with psn := psnSet s.psn (lineBase a) 256 true } else s
    let s := (rowMates a).foldl (fun s b => readBack s b (eccOf t b)) s
    repair s u 5 8 loc

/-- What the code of a far-tier pseudo-channel finds in a line it reads (R168, R320 to R322, R335). t names what it would find in
the other lines of its row. -/
def farFinds (s : State) (a : Nat) (e : Ecc) (t : Eccs := []) : State × Nat :=
  let u := unitFar (farPc a)
  let bank := 4 * farBank a + farGroup a
  match e with
  | .ok => (s, 0)
  | .corrected =>
    let s := corrected s u (farRow a)
    let (s, again) := rowEvent s u (rowLoc bank (farRow a))
    (if again then farRowRepair s a t false else s, 0)
  | .uncorrectable =>
    let s := errEvent s .uncorrectable .uncorrectable u a (farRow a) bank
    let (s, _) := rowEvent s u (rowLoc bank (farRow a))
    (farRowRepair s a t true, 255)
  | .mismatch p => (ownMismatch s u a p, 2 ^ (p % 8))

/-- A far-tier line read by its controller (R165). -/
def farFetch (s : State) (q : Acc) (a : Nat) : State × Nat × Nat :=
  let (s, m) := farFinds s a (eccOf q.ecc a) q.ecc
  rawLine s (unitFar (farPc a)) q.key a m

/-- A write of the masked bytes of a far-tier line; a part write reads, merges and writes the line (R165). -/
def farWrite (s : State) (q : Acc) (a data mask psn : Nat) : State :=
  let (s, old, p) := if mask = wholeMask then (s, 0, 0) else farFetch s q a
  storeLine s q.key a (mergeLine old data mask) (decide (psn ≠ 0 ∨ p ≠ 0))

end Sys2Proof.Machine
end

