-- ==== Sys2Proof/Machine/Audit.lean ====
section
/-! DEFINITION. The audit log: entries, the ring in scratch block 0, gap mode and checkpoints (R312 to R316). -/
namespace Sys2Proof.Machine

/-- The 64 bytes of an entry with its number and DEVTIME (Table 11-8). -/
def AEnt.word (e : AEnt) (seq time : Nat) : BitVec 512 :=
  let pas := match e.pasid with | some p => 2 ^ 31 + p % 2 ^ 20 | none => 0
  BitVec.ofNat 512 (seq % 2 ^ 64 + time % 2 ^ 64 * 2 ^ 64 + e.kind % 256 * 2 ^ 128 +
    (e.origin % 4 + 4 * (e.member % 64)) * 2 ^ 136 + e.fn % 256 * 2 ^ 144 + e.part % 256 * 2 ^ 152 + pas * 2 ^ 160 +
    e.target % 2 ^ 64 * 2 ^ 192 + e.old % 2 ^ 64 * 2 ^ 256 + e.new % 2 ^ 64 * 2 ^ 320 + e.mask % 2 ^ 64 * 2 ^ 384)

/-- Targets: a BAR0 offset, an opcode with a slot. -/
def tgtOff (off : Nat) : Nat := off
def tgtOp (opcode slot : Nat) : Nat := 2 * 2 ^ 62 + opcode + slot * 256

/-- A word of the ring: entry seq lies at index seq mod 65,536 of scratch block 0 (R314). -/
def ringPut (s : State) (seq : Nat) (w : BitVec 512) : State :=
  let a := scrBase + seq % 65536 * 64
  { s with mem := memWrite s.mem a 64 w.toNat, psn := psnSet s.psn a 64 false }

/-- The bytes that a checkpoint hashes. -/
def sealBytes (h : BitVec 384) (es : List (BitVec 512)) : List Byte :=
  digestBytes h ++ es.flatMap fun e => bytesOf 64 e.toNat

/-- Bytes 0 to 415 of a checkpoint record (Table 11-9). -/
def Ckpt.text (c : Ckpt) : List Byte :=
  bytesOf 8 c.k ++ bytesOf 8 c.time ++ bytesOf 8 c.last ++ digestBytes c.h ++ digestBytes c.prev ++
    [BitVec.ofNat 8 (bit c.part)] ++ List.replicate 295 0

/-- The 512 bytes of a checkpoint record. -/
def Ckpt.bytes (c : Ckpt) : List Byte := c.text ++ bytesOf 96 c.sig.toNat

/-- R316: the record of the checkpoint whose last entry is numbered last, over entries that follow the digest prev, signed with the alias
key of Rind (log entry 6). -/
def sealRec (s : State) (prev : BitVec 384) (es : List (BitVec 512)) (last : Nat) (part : Bool) : Ckpt :=
  let c : Ckpt := { k := last / 4096, time := s.devtime.toNat, last := last, h := sha384 (sealBytes prev es), prev := prev, part := part
                    sig := 0 }
  { c with sig := match s.sec.keys with | some k => Config.ecdsaSign k.alEc c.text | none => 0 }

/-- R316: a partial checkpoint over the entries since the last full one. -/
def sealPartial (s : State) : State :=
  let x := s.aud
  if x.buf.isEmpty then s
  else
    let c := sealRec s x.h x.buf (x.wseq - 1) true
    { s with aud := { x with ckpts := tset x.ckpts (c.k % 2048) c, done := c.last } }

/-- An entry joins the chain, and the last of 4,096 asks for its checkpoint to be sealed (R316). -/
def chainPut (s : State) (w : BitVec 512) : State :=
  let x := s.aud
  let s := { s with aud := { x with buf := x.buf ++ [w], wseq := x.wseq + 1 } }
  if x.wseq % 4096 = 4095 then { s with pending := .checkpointSeal (x.wseq / 4096) true :: s.pending } else s

/-- The gap record (R315): first and last lost number. It carries the number of the index at which it lies. -/
def gapWord (s : State) (seq first last : Nat) : BitVec 512 :=
  ({ kind := 7, old := first, new := last } : AEnt).word seq s.devtime.toNat

/-- R315: an entry goes into the ring, in gap mode over the oldest entry with the gap record behind it. -/
def auditPut (s : State) (e : AEnt) : State :=
  let x := s.aud
  let time := e.time.getD (x.stamp.getD s.devtime.toNat)
  match x.gap with
  | none =>
    let w := e.word x.wseq time
    let s1 := chainPut (ringPut s x.wseq w) w
    if 65536 ≤ x.wseq - x.rd then
      let lost := (x.wseq - 65536, x.wseq - 65535)
      let s1 := ringPut s1 (x.wseq + 1) (gapWord s (x.wseq + 1) lost.1 lost.2)
      irq { s1 with aud := { s1.aud with gap := some lost, freed := false } } 0 68
    else s1
  | some (f, l) =>
    if x.freed then
      let s := chainPut s (gapWord s x.wseq f l)
      let w := e.word (x.wseq + 1) time
      let s := chainPut (ringPut s (x.wseq + 1) w) w
      { s with aud := { s.aud with gap := none, freed := false } }
    else
      let w := e.word x.wseq time
      let s := chainPut (ringPut s x.wseq w) w
      let s := ringPut s (x.wseq + 1) (gapWord s (x.wseq + 1) f (l + 1))
      { s with aud := { s.aud with gap := some (f, l + 1) } }

/-- R312: an event of Table 11-7. Before the ring is in use the entry waits for it. -/
def audit (s : State) (e : AEnt) : State :=
  if s.aud.live then auditPut s e
  else { s with aud := { s.aud with early := s.aud.early ++ [{ e with time := some (e.time.getD s.devtime.toNat) }] } }

/-- R316, R372: the ring comes into use: a reset entry that names the last number sealed, then the entries that waited. -/
def auditResume (s : State) : State :=
  let x := s.aud
  let s := { s with aud := { x with live := true, early := [], gap := none, freed := false } }
  let s := auditPut s { kind := 8, origin := 3, old := x.done }
  x.early.foldl auditPut s

/-- Oldest entry that the ring still holds. -/
def oldestHeld (s : State) : Nat :=
  match s.aud.gap with
  | some (_, l) => l + 1
  | none => s.aud.wseq - 65536

/-- Table 11-14, R315: a write of AUD_RD. -/
def setAudRd (s : State) (v : Nat) : State :=
  let x := s.aud
  let v := min (max v (oldestHeld s)) x.wseq
  let frees := x.gap.isSome && decide (x.wseq - 65534 ≤ v)
  { s with aud := { x with rd := v, freed := x.freed || frees } }

/-- R316: the seal of a full checkpoint reaches flash, or fails. -/
def sealFull (s : State) (ok : Bool) : State :=
  let x := s.aud
  let es := x.buf.take 4096
  if es.length < 4096 then s
  else
    let rest := x.buf.drop 4096
    let last := x.wseq - rest.length - 1
    let c := sealRec s x.h es last false
    let s := { s with aud := { x with buf := rest, h := c.h } }
    if ok then { s with aud := { s.aud with ckpts := tset x.ckpts (c.k % 2048) c, done := last } }
    else irq (setB s fAudStat_sealerr) 0 68

/-- CHECKPOINT_SEAL (R316): the seal of checkpoint k, and whether the flash write succeeded. -/
def execCheckpointSeal (k : Nat) (ok : Bool) (s : State) : Host.Outcome State Fault Refusal :=
  .next (if decide (4096 ≤ s.aud.buf.length) && decide ((s.aud.wseq - s.aud.buf.length) / 4096 = k) then sealFull s ok else s)

/-- AUDIT_READ_POINTER_WRITE (R315). -/
def execAuditReadPointerWrite (v : BitVec 64) (s : State) : Host.Outcome State Fault Refusal := .next (setAudRd s v.toNat)

/-- R316, Table 11-14: a checkpoint record is selected; it is in the window within 1 ms. -/
def selectCkpt (s : State) (k : Nat) : State :=
  let s := wf s fAudStat_cksel k
  { s with aud := { s.aud with ready := true } }


end Sys2Proof.Machine
end

