-- ==== Sys2Proof/Machine/HostPort.lean ====
section
/-! DEFINITION. Host addresses: the translation cache, page requests and the host's memory (R255 to R258, R203, R248). -/
namespace Sys2Proof.Machine

/-- PASID number that stands for an access without a PASID. -/
def noPasid : Nat := 2 ^ 20

def Xlat.covers (x : Xlat) (pasid va : Nat) : Bool :=
  decide (x.pasid = pasid ∧ va / 2 ^ x.lg = x.va / 2 ^ x.lg)
def Xlat.allows (x : Xlat) (write : Bool) : Bool := if write then x.w else x.r

/-- Outcome of a translation: usable, being asked for, in want of a page request, or failed. -/
inductive Tr where
  | hit | wait | need | fault
deriving DecidableEq, Repr

def XWait.is (w : XWait) (pasid page : Nat) (write : Bool) : Bool :=
  decide (w.pasid = pasid ∧ w.page = page) && w.write == write

/-- R255, R256: a look-up of one 4 KiB page. A hit moves its entry to the front (least recently used leaves first); a miss
asks ATS; a page whose page request failed answers the failure to all that waited for it (log entry 88). -/
def translate (s : State) (pasid va : Nat) (write : Bool) : State × Tr :=
  let h := s.host
  let page := va / 4096
  match h.cache.find? fun x => x.covers pasid va && x.allows write with
  | some x => ({ s with host := { h with cache := x :: h.cache.filter fun y => decide (y ≠ x) } }, .hit)
  | none =>
    match h.waits.find? fun w => w.is pasid page write with
    | some w =>
      match w.phase with
      | .need => (s, .need)
      | .failed => (s, .fault)
      | _ => (s, .wait)
    | none =>
      if h.cache.any fun x => x.covers pasid va then
        ({ s with host := { h with waits := h.waits ++ [⟨pasid, page, write, .need, 0⟩] } }, .need)
      else ({ s with host := { h with waits := h.waits ++ [⟨pasid, page, write, .ats, 0⟩] } }, .wait)

/-- R256, R231: one page request group for every page of a list that lacks its translation; with 512 page requests
outstanding the group waits. -/
def sendPrg (s : State) (pages : List (Nat × Nat × Bool)) : State :=
  let h := s.host
  let mine (w : XWait) : Bool :=
    decide (w.phase = .need) && pages.any fun p => w.is p.1 p.2.1 p.2.2
  let out := (h.waits.filter fun w => match w.phase with | .pri _ => true | _ => false).length
  if (h.waits.filter mine).isEmpty || 512 < out + (h.waits.filter mine).length then s
  else
    { s with host := { h with
        waits := h.waits.map fun w => if mine w then { w with phase := .pri h.nextPrg, sent := s.devtime.toNat } else w
        nextPrg := (h.nextPrg + 1) % 512 } }

/-- R257: a translation for one line or ring access alone. -/
def translateOne (s : State) (pasid va : Nat) (write : Bool) : State × Tr :=
  match translate s pasid va write with
  | (s, .need) => (sendPrg s [(pasid, va / 4096, write)], .wait)
  | r => r

/-- Failures that those who waited have met: two nanoseconds after them a look-up asks again. -/
def dropFailed (s : State) : State :=
  let old (y : XWait) : Bool := decide (y.phase = .failed ∧ y.sent + 2 ≤ s.devtime.toNat)
  { s with host := { s.host with waits := s.host.waits.filter fun y => !old y } }

/-! Host memory. -/

def hostCells (s : State) (pasid : Nat) : List Host.Cell := tget [] s.hostMem pasid
def hostMarks (s : State) (pasid : Nat) : Tab Bool := tget [] s.hostPsn pasid

/-- n bytes of host memory with whether any piece of them is poisoned. -/
def hostRead (s : State) (pasid va n : Nat) : Nat × Bool :=
  (memRead (hostCells s pasid) va n, psnAny (hostMarks s pasid) va n)

/-- n bytes written to host memory; poisoned data goes in TLPs with the poison bit set (R248). -/
def hostWrite (s : State) (pasid va n x : Nat) (psn : Bool) : State :=
  let whole := decide (va % 32 = 0 ∧ n % 32 = 0)
  { s with hostMem := tset s.hostMem pasid (memWrite (hostCells s pasid) va n x)
           hostPsn := tset s.hostPsn pasid
             (if psn then psnSet (hostMarks s pasid) va n true
              else if whole then psnSet (hostMarks s pasid) va n false
              else hostMarks s pasid) }

/-- The masked bytes of a line written to host memory with piece marks. -/
def hostWriteLine (s : State) (pasid va data mask psn : Nat) : State :=
  (List.range 8).foldl (fun s i =>
    if mask / 2 ^ (32 * i) % 2 ^ 32 = 0 then s
    else
      let a := va + 32 * i
      let old := memRead (hostCells s pasid) a 32
      let m := mask / 2 ^ (32 * i) % 2 ^ 32
      let x := natOf ((List.range 32).map fun j =>
        BitVec.ofNat 8 (if m / 2 ^ j % 2 = 1 then data / 2 ^ (8 * (32 * i + j)) else old / 2 ^ (8 * j)))
      let bad := psn / 2 ^ i % 2 == 1
      { s with hostMem := tset s.hostMem pasid (memWrite (hostCells s pasid) a 32 x)
               hostPsn := tset s.hostPsn pasid
                 (if bad then psnSet (hostMarks s pasid) a 32 true
                  else if m = 2 ^ 32 - 1 then psnSet (hostMarks s pasid) a 32 false
                  else hostMarks s pasid) }) s

/-- Piece marks of a line of host memory. -/
def hostPieces (s : State) (pasid va : Nat) : Nat :=
  (List.range 8).foldl (fun m i => if tget false (hostMarks s pasid) (va / 32 + i) then m + 2 ^ i else m) 0

/-! The host's answers. -/

/-- R255, R256: ATS answers for a page of 2^lg bytes at va with its permissions, none granted meaning no translation. The
entry is installed; pages that wait are served, go on to a page request, or have failed. -/
def execAtsTranslationCompletion (pasid va lg : Nat) (r w : Bool) (s : State) : Host.Outcome State Fault Refusal :=
  let x : Xlat := ⟨pasid, va / 2 ^ lg * 2 ^ lg, lg, r, w⟩
  let h := s.host
  let cache := if r || w then
      (x :: h.cache.filter fun y => !(decide (y.pasid = pasid) && (y.covers pasid x.va || x.covers pasid y.va))).take 4096
    else h.cache
  let waits := h.waits.filterMap fun y =>
    if x.covers y.pasid (4096 * y.page) then
      match y.phase with
      | .ats => if x.allows y.write then none else some { y with phase := .need }
      | .ats2 => if x.allows y.write then none else some { y with phase := .failed, sent := s.devtime.toNat }
      | _ => some y
    else some y
  .next (wake { s with host := { h with cache := cache, waits := waits } })

/-- A page request group ended: its pages are translated again, or have failed. -/
def endPrg (s : State) (idx : Nat) (ok : Bool) : State :=
  let h := s.host
  let ended (y : XWait) : XWait :=
    if y.phase = .pri idx then (if ok then { y with phase := .ats2 } else { y with phase := .failed, sent := s.devtime.toNat }) else y
  wake { s with host := { h with waits := h.waits.map ended } }

/-- R256: a PRG response. -/
def execPrgResponse (idx : Nat) (ok : Bool) (s : State) : Host.Outcome State Fault Refusal := .next (endPrg s idx ok)

/-- R256, R257: no response within CMD_PRITO.ms of the request. -/
def execPriTimeout (idx : Nat) (s : State) : Host.Outcome State Fault Refusal :=
  .next (if s.host.waits.any fun y =>
      decide (y.phase = .pri idx ∧ y.sent + rf s fCmdPrito_ms * 10 ^ 6 ≤ s.devtime.toNat)
    then endPrg s idx false else s)

/-! Configuration space (R231, R232, R261). -/

/-- Size of a BAR of a function, and whether it is prefetchable (R232, Table 9-2). All are 64-bit. -/
def barSize (fn bar : Nat) : Option (Nat × Bool) :=
  match bar with
  | 0 => some (if fn = 0 then 2 ^ 26 else 2 ^ 14, false)
  | 2 => some (if fn = 0 then 2 ^ 20 else 2 ^ 16, false)
  | 4 => if fn = 0 then some (2 ^ 36, true) else none
  | _ => none

/-- The words of a BAR: the bits below its size do not store and read its type, 64-bit and prefetchable or not. -/
def barBits (fn bar : Nat) (high : Bool) : Nat × Nat :=
  match barSize fn bar with
  | some (n, pf) => if high then ((n - 1) / 2 ^ 32, 0) else ((n - 1) % 2 ^ 32, 4 + 8 * bit pf)
  | none => (2 ^ 32 - 1, 0)

/-- MSI-X vectors of a function (Table 9-1). -/
def msixCount (fn : Nat) : Nat := if fn = 0 then 72 else 17

/-- Bits of a capability's words that Table 9-1 fixes, as a mask and a value: word n of capability id, extended ones from 256 on. The
places are the PCIe standard's (log entry 34). -/
def capBits (fn id n : Nat) : Nat × Nat :=
  match id, n with
  -- power management: no D1 or D2
  | 0x01, 0 => (3 * 2 ^ 25, 0)
  -- PCI Express: payload 512 bytes, FLR; no ASPM L0s or L1
  | 0x10, 1 => (7 + 2 ^ 28, 2 + 2 ^ 28)
  | 0x10, 3 => (3 * 2 ^ 10, 0)
  -- MSI-X table size
  | 0x11, 0 => (2047 * 2 ^ 16, (msixCount fn - 1) * 2 ^ 16)
  -- ATS: invalidation queue depth 32, coded 0
  | 0x10F, 1 => (31, 0)
  -- page requests: the response carries the PASID; 512 outstanding
  | 0x113, 1 => (2 ^ 31, 2 ^ 31)
  | 0x113, 2 => (2 ^ 32 - 1, 512)
  -- PASID: 20 bits, no execute or privileged-mode permission
  | 0x11B, 1 => (31 * 2 ^ 8 + 6, 20 * 2 ^ 8)
  -- SR-IOV on PF0: 16 VFs, and their BARs
  | 0x110, 3 => if fn = 0 then (2 ^ 32 - 1, 16 + 16 * 2 ^ 16) else (0, 0)
  | 0x110, 9 => if fn = 0 then barBits 1 0 false else (0, 0)
  | 0x110, 10 => if fn = 0 then barBits 1 0 true else (0, 0)
  | 0x110, 11 => if fn = 0 then barBits 1 2 false else (0, 0)
  | 0x110, 12 => if fn = 0 then barBits 1 2 true else (0, 0)
  | 0x110, 13 => if fn = 0 then barBits 1 4 false else (0, 0)
  | 0x110, 14 => if fn = 0 then barBits 1 4 true else (0, 0)
  | _, _ => (0, 0)

/-- Capabilities of Table 9-1 whose words hold a value it gives. -/
def capIds : List Nat := [0x01, 0x10, 0x11, 0x10F, 0x113, 0x11B, 0x110]

/-- Bits of a configuration word that R231 and R232 fix: those of PF0's BARs, words 4 to 9 of the header, whose VF copies read zero, and
those of the capabilities. -/
def cfgFixed (fn off : Nat) : Nat × Nat :=
  if 4 ≤ off ∧ off < 10 then (if fn = 0 then barBits 0 ((off - 4) / 2 * 2) (off % 2 == 1) else (2 ^ 32 - 1, 0))
  else
    match capIds.find? fun id => decide (Config.capWord id ≤ off ∧ off < Config.capWord id + 16) with
    | some id => capBits fn id (off - Config.capWord id)
    | none => (0, 0)

/-- A word with its fixed bits. -/
def cfgKeep (fn off : Nat) (w : BitVec 32) : BitVec 32 :=
  let (m, v) := cfgFixed fn off
  (w &&& ~~~(BitVec.ofNat 32 m)) ||| BitVec.ofNat 32 (Nat.land v m)

/-- A configuration word of a function; the bits that the manual does not fix are open (log entry 34). -/
def cfgRead (s : State) (fn off : Nat) : BitVec 32 :=
  cfgKeep fn off (match tfind s.host.cfg (1024 * fn + off) with
    | some w => w
    | none => Config.cfgWord fn off)

/-- Base of VFn's BAR of a number and its size, as SR-IOV places the VFs one after another (R232). -/
def vfBar (s : State) (n bar : Nat) : Nat × Nat :=
  let w := Config.capWord 0x110 + 9 + bar
  let base := (cfgRead s 0 w).toNat / 16 * 16 + (cfgRead s 0 (w + 1)).toNat * 2 ^ 32
  match barSize 1 bar with
  | some (size, _) => (base + n * size, size)
  | none => (base, 0)

end Sys2Proof.Machine
end

