-- ==== Sys2Proof/Machine/Regulate.lean ====
section
/-! DEFINITION. The regulators of the slices and the far-tier controllers: counts, windows, levels, admission pools (R222 to R230). -/
namespace Sys2Proof.Machine

def State.slice (s : State) (i : Nat) : BSlice := tget {} s.slices i
def State.setSlice (s : State) (i : Nat) (x : BSlice) : State := { s with slices := tset s.slices i x }
def allSlices : List Nat := List.range 32

def xorAll : List Nat → Nat
  | [] => 0
  | x :: r => Nat.xor x (xorAll r)

/-- R193: slice and set of a line number. -/
def sliceOf (l : Nat) : Nat := xorAll ((List.range 8).map fun i => bits l (5 * i) 5)
def setOf (l : Nat) : Nat := xorAll [bits l 5 12, bits l 17 12, bits l 29 11]

/-- The address of a line number. -/
def lineAddr (l : Nat) : Nat := 256 * l

/-- PASID in the tag of a line: host-window lines only (R194). -/
def tagPasid (a pasid : Nat) : Nat := if rangeOf a = .host then pasid else 0

/-- R213: group, slice and set of a scratch address. -/
def scrGroup (a : Nat) : Nat := (a - scrBase) / 0x2000000
def scrLine (a : Nat) : Nat := (a - scrBase) % 0x2000000 / 256
def scrSlice (a : Nat) : Nat :=
  let m := scrLine a
  xorAll [bits m 0 5, bits m 5 5, bits m 10 5, bits m 15 2]
def scrSet (a : Nat) : Nat := bits (scrLine a) 5 12
/-- R215: block of a scratch address. -/
def scrBlock (a : Nat) : Nat := (a - scrBase) / 0x400000

/-- R150: an address of this device's own remote range is its local address. -/
def resolve (s : State) (a : Nat) : Nat :=
  if rangeOf a = .remote ∧ (remSplit a).1 = selfPos s then (remSplit a).2 else a

/-- Bytes that a slice counts for a request (R225). -/
def LineOp.bytes : LineOp → Nat
  | .read _ n => n
  | .write _ n _ _ => n
  | .masked m _ _ => ((List.range 256).filter fun i => m / 2 ^ i % 2 = 1).length
  | .zero => 256
  | .atomic _ _ _ _ _ _ => 64
  | .lineAdd _ _ _ => 256

def addAt (t : Tab Nat) (k n : Nat) : Tab Nat := tset t k (tget 0 t k + n)

/-- The class word in force for a partition and class (R223): the register as it stood at the last window start. -/
def qosForce (s : State) (part cls : Nat) : Nat :=
  tget (resetWord (offQosClass (8 * part + cls))).toNat s.qos.force (8 * part + cls)

/-- Way share q of a partition and class (R197). -/
def wayShare (s : State) (part cls : Nat) : Nat := bits (qosForce s part cls) 11 5

/-- Sum of the guarantees of every partition and class but one (R223). -/
def guarSum (s : State) (but : Nat) : Nat :=
  (List.range 128).foldl (fun n k => if k = but then n else n + rf s (fQosClass_guar k)) 0

/-- R227: the budget in bytes of a guarantee at a regulator for a window of len ns. -/
def qosBudget (r guar len : Nat) : Nat := guar * len / (if r < 32 then 32 else 8) / 256 * 256

/-! What waits at a regulator. -/

/-- The regulator, request and bytes of a service request that has not been admitted (R225, R228). -/
def waitsAt (s : State) (c : Instr) : Option (Nat × Req × Nat) :=
  let at' (rq : Req) (n : Nat) : Option (Nat × Req × Nat) :=
    let a := resolve s rq.addr
    match rangeOf a with
    | .far | .host => some (sliceOf (a / 256), rq, n)
    | .scratch => some (scrSlice a, rq, n)
    | _ => none
  match c with
  | .read rq _ => at' rq (bits rq.imm.toNat 0 8 + 1)
  | .write rq fl _ => at' rq (32 * fl.n)
  | .writeMasked rq _ _ => at' rq (LineOp.masked (bits rq.imm.toNat 0 32) 0 0).bytes
  | .zeroLine rq _ => at' rq 256
  | .atomicAdd rq _ _ => at' rq 64
  | .atomicMin rq _ _ => at' rq 64
  | .atomicMax rq _ _ => at' rq 64
  | .atomicSwap rq _ _ => at' rq 64
  | .atomicCas rq _ _ => at' rq 64
  | .lineadd rq _ _ => at' rq 256
  | _ => none

/-- The pool of a regulator. -/
def poolOf (s : State) (r : Nat) : Pool := tget {} s.qos.pools r
def setPool (s : State) (r : Nat) (x : Pool) : State :=
  { s with qos := { s.qos with pools := if x.held.isEmpty && x.bufs.isEmpty then terase s.qos.pools r else tset s.qos.pools r x } }

/-- Bytes of requests that wait at a regulator for a partition and class: in its miss table, or the lines asked of its stack and not
yet transferred; in its pool and input buffers; and those that wait to reach them (R230). -/
def waitingBytes (s : State) (r part cls : Nat) : Nat :=
  let mine (x : PoolReq) : Bool := decide (x.part = part ∧ x.cls = cls)
  let p := poolOf s r
  let kept := ((p.held ++ p.bufs).filter mine).foldl (fun n x => n + x.bytes) 0
  let up := s.waiting.foldl (fun n c =>
    match waitsAt s c with
    | some (r', rq, b) => if r' = r ∧ rq.part = part ∧ rq.cls = cls then n + b else n
    | none => n) 0
  let here :=
    if r < 32 then
      ((s.slice r).miss.flatMap (·.waiters)).foldl (fun n w =>
        if w.acc.part = part ∧ w.acc.cls = cls ∧ w.acked = false then n + w.op.bytes else n) 0
    else
      (List.range 32).foldl (fun n sl => (s.slice sl).miss.foldl (fun n m =>
        if m.got.isEmpty ∧ rangeOf (lineAddr m.line) = .far ∧ farPc (lineAddr m.line) / 64 = r - 32 ∧ m.acc.part = part ∧
          m.acc.cls = cls then n + 256 else n) n) 0
  kept + up + here

/-! Windows (R226, R227, R230). -/

/-- R230: a miss record enters the queue of 64, or is dropped and counted. -/
def missRecord (s : State) (m : MissRec) : State :=
  let t := rf s fQosMissstat_tail
  if (t + 128 - rf s fQosMissstat_head) % 128 = 64 then incSat s fQosMissstat_lost 1
  else wf { s with qos := { s.qos with recs := tset s.qos.recs (t % 64) m } } fQosMissstat_tail ((t + 1) % 128)

/-- R230: one regulator, partition and class at a window's end; the flag says that a record was due. -/
def windowCheck (s : State) (r part cls : Nat) : State × Bool :=
  let k := r * 128 + part * 8 + cls
  let b := qosBudget r (bits (qosForce s part cls) 16 14) (s.qos.fin - s.qos.start)
  let sv := tget 0 s.qos.served k
  if b ≤ sv then (s, false)
  else
    let g := min b (tget 0 s.qos.demand k + waitingBytes s r part cls)
    if sv < g then
      (missRecord s ⟨s.qos.start, g - sv, sv, r, part, cls, s.qos.fin - s.qos.start⟩, true)
    else (s, false)

/-- R226: the window after one that ends at t, with its length in µs in force and asked for: its end, and whether the
length asked for takes effect in it. -/
def nextWindow (t cur us : Nat) : Nat × Bool :=
  if cur = us then ((t / (cur * 1000) + 1) * (cur * 1000), false)
  else
    let w := us * 1000
    if t % w = 0 then (t + w, true) else ((t + w - 1) / w * w, false)

/-- R226, R230: a window ends: guarantees are checked, counts start again, and the class table takes effect (R223). -/
def windowEnd (s : State) : State :=
  let ks := (List.range 40).flatMap fun r => (List.range 128).map fun k => (r, k)
  let (s, any) := ks.foldl (fun (a : State × Bool) e =>
    let (s, x) := windowCheck a.1 e.1 (e.2 / 8) (e.2 % 8)
    (s, a.2 || x)) (s, false)
  let s := if any then irq s 0 65 else s
  let (fin, takes) := nextWindow s.qos.fin (rf s fQosWin_cur) (rf s fQosWin_us)
  let s := if takes then wf s fQosWin_cur (rf s fQosWin_us) else s
  { s with qos := { s.qos with served := [], demand := [], start := s.qos.fin, fin := fin
                               force := (List.range 128).map fun k => (k, (s.reg (offQosClass k)).toNat) } }

/-- R226: what a regulator counts at the end of a window or later counts in the next one. -/
def windowDue (s : State) : State := if s.qos.fin ≤ s.devtime.toNat then windowEnd s else s

/-- R225: bytes that a regulator has served a partition and class. -/
def regCount (s : State) (r part cls n : Nat) : State :=
  let s := windowDue s
  let k := r * 128 + part * 8 + cls
  let s := incWrap s (fQosCnt_bytes k) n
  { s with qos := { s.qos with served := addAt s.qos.served k n, demand := addAt s.qos.demand k n } }

/-! Admission and grants (R228, R229). -/

/-- R228: level of a partition and class at a regulator. -/
def qosLevel (s : State) (r part cls : Nat) : Nat :=
  if cls = 6 ∨ cls = 7 then 4
  else
    let b := qosBudget r (bits (qosForce s part cls) 16 14) (s.qos.fin - s.qos.start)
    if tget 0 s.qos.served (r * 128 + part * 8 + cls) < b then bits (qosForce s part cls) 3 3 else 0

/-- R229: entries of a regulator's pool. -/
def poolSize (r : Nat) : Nat := if r < 32 then 512 else 2048

/-- R229: entries that a partition and class may hold. Classes 6 and 7 have all of them (R223). -/
def poolShare (s : State) (r part cls : Nat) : Nat :=
  (if 6 ≤ cls then 16 else bits (qosForce s part cls) 6 5) * poolSize r / 16

/-- R229: whether a request of a partition and class finds an entry in the pool. -/
def poolRoom (s : State) (r : Nat) (x : PoolReq) : Bool :=
  let p := poolOf s r
  decide (p.held.length < poolSize r ∧
    (p.held.filter fun y => decide (y.part = x.part ∧ y.cls = x.cls)).length < poolShare s r x.part x.cls)

/-- R229: a request that must wait takes an entry of the pool, else room in its class's input buffer of 8 flits, else it waits before
the regulator. -/
def letIn (s : State) (r : Nat) (x : PoolReq) : State :=
  let p := poolOf s r
  let used := (p.bufs.filter fun y => decide (y.cls = x.cls)).foldl (fun n y => n + y.flits) 0
  if used = 0 && poolRoom s r x then setPool s r { p with held := p.held ++ [x] }
  else if used + x.flits ≤ 8 then setPool s r { p with bufs := p.bufs ++ [x] }
  else { s with waiting := s.waiting ++ [x.cmd] }

/-- R228: the level of a request; one of a prefetch stands below every other. -/
def heldLevel (s : State) (r : Nat) (x : PoolReq) : Nat := if x.pre then 0 else 1 + qosLevel s r x.part x.cls

/-- R228: how far a partition and class is from its turn. -/
def turnOf (last : Nat) (x : PoolReq) : Nat := (8 * x.part + x.cls + 127 - last) % 128

/-- R228: the request that is granted next: of the highest level, then of the partition and class whose turn it is, then the oldest. -/
def pickHeld (s : State) (r : Nat) (p : Pool) : Option PoolReq :=
  p.held.foldl (fun best x =>
    match best with
    | none => some x
    | some b =>
      let lx := heldLevel s r x
      let lb := heldLevel s r b
      if lb < lx ∨ lb = lx ∧ turnOf p.last x < turnOf p.last b then some x else best) none

/-- R229: requests of the input buffers take entries of the pool that are free, the oldest of each class first. -/
def refill (s : State) (r : Nat) : State :=
  (poolOf s r).bufs.foldl (fun (s : State) x =>
    let p := poolOf s r
    let first := (p.bufs.find? fun y => decide (y.cls = x.cls)) == some x
    if first && poolRoom s r x then setPool s r { p with held := p.held ++ [x], bufs := p.bufs.erase x } else s) s

/-- R228: up to n requests of a regulator are granted: their commands come to the front of the queue in the order of the grants. -/
def grantHeld (s : State) (r : Nat) : Nat → State × List Instr
  | 0 => (s, [])
  | n + 1 =>
    let p := poolOf s r
    match pickHeld s r p with
    | none => (s, [])
    | some x =>
      let s := refill (setPool s r { p with held := p.held.erase x, last := 8 * x.part + x.cls }) r
      let (s, l) := grantHeld s r n
      (s, x.cmd :: l)

/-- Grants of a regulator that has room for n requests behind it. -/
def grants (s : State) (r n : Nat) : State :=
  if (poolOf s r).held.isEmpty then s
  else
    let (s, l) := grantHeld s r n
    { s with pending := l ++ s.pending }

end Sys2Proof.Machine
end

