-- ==== Sys2Proof/Machine/Remote.lean ====
section
/-! DEFINITION. Line requests that this device's units send over the links: to the memory of another position, and from a member to
the master's host port (R265, R273, R285). -/
namespace Sys2Proof.Machine

/-- Cascade position of a node number (R142). -/
def nodePos (n : Nat) : Nat := n / 1024

/-- Data flits of n bytes that begin at offset off of a line with the line's piece marks; each flit's check is that of
its bytes (R319, R320). -/
def flitsOf (off n data psn : Nat) : Flits :=
  let k := (n + 31) / 32
  let bad (i : Nat) : Bool :=
    psn / 2 ^ ((off + 32 * i) / 32) % 2 == 1 || (decide (off % 32 ≠ 0) && psn / 2 ^ ((off + 32 * i + 31) / 32) % 2 == 1)
  { n := k, data := BitVec.ofNat 2048 data
    psn := BitVec.ofNat 8 ((List.range k).foldl (fun m i => if bad i then m + 2 ^ i else m) 0)
    chk := BitVec.ofNat 16 ((List.range k).foldl (fun m i =>
      m + 4 ^ i * (pieceCheck (BitVec.ofNat 256 (data / 2 ^ (256 * i)))).toNat) 0) }

def noFlits : Flits := ⟨0, 0, 0, 0⟩

/-- What a requester holds for a tag. -/
def rspKey (dst tag : Nat) : Nat := dst * 65536 + tag % 65536

/-- The bytes a write-like request replaces, and its data in place: mask, data, piece marks. -/
def LineOp.writes : LineOp → Option (Nat × Nat × Nat)
  | .write off n d p => some ((2 ^ n - 1) * 2 ^ off, d * 2 ^ (8 * off), p)
  | .masked m d p => some (m, d, p)
  | .zero => some (2 ^ 256 - 1, 0, 0)
  | _ => none

/-- The packets that make a line request (Table 5-10), in the order in which they are sent. Each whole piece of a part write goes as a
WRITE, the rest under a mask. -/
def askPkts (src dst tag : Nat) (q : Acc) (line : Nat) (op : LineOp) : List Pkt :=
  let pkt (opc off : Nat) (imm : Nat) (fl : Flits) : Pkt :=
    { op := opc, dst := dst, fl := fl
      rq := ⟨src, tag, lineAddr line + off, q.hint, 7, q.part, q.key, q.pasid, BitVec.ofNat 64 imm⟩ }
  match op with
  | .read off n => [pkt 0x01 off (n - 1) noFlits]
  | .zero => [pkt 0x05 0 0 noFlits]
  | .atomic o ty off a b p => [pkt 0x04 off (o + 16 * ty) (flitsOf 0 32 (a + 2 ^ 64 * b) (if p then 255 else 0))]
  | .lineAdd ty d p => [pkt 0x04 0 (6 + 16 * ty) (flitsOf 0 256 d (if p then 255 else 0))]
  | _ =>
    match op.writes with
    | none => []
    | some (m, d, p) =>
      if m = 2 ^ 256 - 1 then [pkt 0x02 0 0 (flitsOf 0 256 d p)]
      else if m = 0 then [pkt 0x03 0 0 (flitsOf 0 32 0 0)]
      else
        (List.range 8).filterMap fun i =>
          let k := bits m (32 * i) 32
          let fl := flitsOf (32 * i) 32 (bits d (256 * i) 256) p
          if k = 0 then none
          else if k = 2 ^ 32 - 1 then some (pkt 0x02 (32 * i) 0 fl)
          else some (pkt 0x03 (32 * i) k fl)

/-- What the packets received for a request amount to. -/
def Rsp.got (r : Rsp) (op : LineOp) : Got :=
  match op with
  | .read off _ =>
    let data := (r.parts.map fun p => p.2.2.1 * 2 ^ (8 * (p.1 - off))).foldl (· + ·) 0
    let marks := r.parts.foldl (fun m p =>
      (List.range 8).foldl (fun m i =>
        if p.2.2.2 / 2 ^ i % 2 = 1 then Nat.lor m (Nat.lor (2 ^ ((p.1 + 32 * i) / 32)) (2 ^ ((p.1 + min p.2.1 (32 * i + 32) - 1) / 32)))
        else m) m) 0
    .ok data marks 0
  | _ => .ok 0 0 r.imm

/-- A packet of a request sent by the port of its destination (R273); none: there is no route. -/
def sendAsk (s : State) (x : Pkt) : Option State :=
  (routePort s (nodePos x.dst)).map fun p =>
    let s := linkSend { s with rsp := terase s.rsp (rspKey x.rq.src x.rq.tag) } p x
    { s with outReqs := s.outReqs ++ [⟨x.rq.src, x.rq.tag, x.rq.addr, p, s.devtime.toNat⟩] }

/-- A line request of node src of this device to node dst of another: sent the first time, waited for, and answered once its last packet
is. A response that no unit asks for again is dropped (log entry 90). -/
def askRemote (s : State) (src dst : Nat) (q : Acc) (line : Nat) (op : LineOp) : State × Got :=
  let q := { q with ecc := [] }
  let key (k : Ask) : Bool := decide (k.src = src ∧ k.dst = dst ∧ k.acc = q ∧ k.line = line ∧ k.op = op)
  match s.asks.find? key with
  | none =>
    let tag := 0x8000 + s.askTag % 0x8000
    match askPkts src dst tag q line op with
    | [] => (s, .ok 0 0 0)
    | x :: r =>
      match sendAsk s x with
      | none => (s, .err .linkDown)
      | some s => ({ s with asks := s.asks ++ [⟨src, dst, q, line, op, tag, r, false⟩], askTag := s.askTag + 1 }, .wait)
  | some k =>
    let x := tget {} s.rsp (rspKey src k.tag)
    let gone (s : State) : State := { s with asks := s.asks.erase k, rsp := terase s.rsp (rspKey src k.tag) }
    if !x.done then (s, .wait)
    else if x.status ≠ .ok then (gone s, .err x.status)
    else
      match k.rest with
      | [] => (gone s, x.got op)
      | y :: r =>
        match sendAsk s y with
        | none => (gone s, .err .linkDown)
        | some s => ({ s with asks := s.asks.map fun j => if j = k then { k with rest := r, old := false } else j }, .wait)

/-- Whether a response belongs to a request of askRemote. -/
def asksFor (s : State) (src tag : Nat) : Bool := s.asks.any fun k => decide (k.src = src ∧ k.tag = tag)

/-- Answers that have stood for a tick without being asked for again are dropped. -/
def dropAsks (s : State) : State :=
  let done (k : Ask) : Bool := (tget {} s.rsp (rspKey k.src k.tag)).done
  let gone := s.asks.filter fun k => done k && k.old
  { s with asks := (s.asks.filter fun k => !(done k && k.old)).map fun k => { k with old := done k }
           rsp := gone.foldl (fun r k => terase r (rspKey k.src k.tag)) s.rsp }

/-! A member and the host (R285). -/

/-- A host-window line request of slice sl of a member, at the master's host port. -/
def hostAsk (s : State) (sl : Nat) (q : Acc) (line : Nat) (op : LineOp) : State × Got :=
  askRemote s (0x200 + sl + 1024 * selfPos s) nodeHost q line op

/-- A translation of one page: this device's host port looks it up; a member asks the master's by a request of a page's first line that
moves no data (R285). -/
def translatePage (s : State) (pasid va : Nat) (write : Bool) : State × Tr :=
  if isMember s then
    let line := (hostBase + va / 4096 * 4096) / 256
    let q : Acc := { node := nodeHost, part := 0, key := 63, pasid := pasid }
    match askRemote s (nodeHost + 1024 * selfPos s) nodeHost q line (if write then .masked 0 0 0 else .read 0 1) with
    | (s, .ok _ _ _) => (s, .hit)
    | (s, .wait) => (s, .wait)
    | (s, .err _) => (s, .fault)
  else translate s pasid va write

end Sys2Proof.Machine
end

