-- ==== Sys2Proof/Machine/Slice.lean ====
section
/-! DEFINITION. A slice of the shared buffer: placement, pseudo-LRU, fills, hints, the victim cache, and what one request
does to a line (R193 to R215, R218). -/
namespace Sys2Proof.Machine

/-- Ways that cache: enabled and not locked for scratch. -/
def cacheWays (s : State) (sl : Nat) : List Nat :=
  (List.range 16).filter fun w => rf s (fSbfWaydis_mask sl) / 2 ^ w % 2 == 0 && !(s.slice sl).locked.contains w

/-- R218, R219: the slice serves without its tags. -/
def uncached (s : State) (sl : Nat) : Bool := !rb s (fSbfCtl_en sl) || (cacheWays s sl).isEmpty

/-! Pseudo-LRU (R196). -/

/-- Bit b_n of a set's field. -/
def plruBit (b : BitVec 15) (n : Nat) : Bool := b.getLsbD (n - 1)

/-- Update on the path of way w. -/
def plruTouch (b : BitVec 15) (w : Nat) : BitVec 15 :=
  [4, 3, 2, 1].foldl (fun b d =>
    let n := (16 + w) / 2 ^ d
    if (16 + w) / 2 ^ (d - 1) = 2 * n + 1 then b &&& ~~~(1#15 <<< (n - 1)) else b ||| (1#15 <<< (n - 1))) b

/-- Whether the subtree below node c, d levels above the leaves, holds a candidate. -/
def plruHas (cands : List Nat) (c d : Nat) : Bool := cands.any fun w => decide ((16 + w) / 2 ^ d = c)

/-- Victim search from node n, d levels above the leaves. -/
def plruWalk (b : BitVec 15) (cands : List Nat) : Nat → Nat → Nat
  | 0, n => n - 16
  | d + 1, n =>
    let c := 2 * n + (if plruBit b n then 1 else 0)
    plruWalk b cands d (if plruHas cands c d then c else Nat.xor c 1)

def plruVictim (b : BitVec 15) (cands : List Nat) : Nat := plruWalk b cands 4 1

/-! Tags. -/

def CLine.is (x : CLine) (line pasid : Nat) : Bool := decide (x.line = line ∧ x.pasid = pasid)

/-- Where a slice finds a line (R195). -/
inductive Found where
  | way (w : Nat) (ln : CLine)
  | victim (ln : CLine)
  | side (ln : CLine)
  | absent
deriving DecidableEq, Repr

def BSlice.set (x : BSlice) (n : Nat) : BSet := tget {} x.sets n

def BSlice.find (x : BSlice) (line pasid : Nat) : Found :=
  match (x.set (setOf line)).ways.find? fun e => e.2.is line pasid with
  | some (w, ln) => .way w ln
  | none =>
    match x.victim.find? fun v => v.ln.is line pasid with
    | some v => .victim v.ln
    | none =>
      match x.side.find? fun v => v.ln.is line pasid with
      | some v => .side v.ln
      | none => .absent

def BSlice.missOf (x : BSlice) (line pasid : Nat) : Option Miss :=
  x.miss.find? fun m => decide (m.line = line ∧ tagPasid (256 * line) m.acc.pasid = pasid)

/-- Way w of the line's set takes a line. -/
def BSlice.putWay (x : BSlice) (w : Nat) (ln : CLine) : BSlice :=
  let n := setOf ln.line
  let st := x.set n
  { x with sets := tset x.sets n { st with ways := tset st.ways w ln } }

def BSlice.touch (x : BSlice) (line w : Nat) : BSlice :=
  let n := setOf line
  let st := x.set n
  { x with sets := tset x.sets n { st with plru := plruTouch st.plru w } }

/-- A line leaves wherever it is held. -/
def BSlice.remove (x : BSlice) (line pasid : Nat) : BSlice :=
  let n := setOf line
  let st := x.set n
  { x with sets := tset x.sets n { st with ways := st.ways.filter fun e => !e.2.is line pasid }
           victim := x.victim.filter fun v => !v.ln.is line pasid
           side := x.side.filter fun v => !v.ln.is line pasid }

/-- A line changed where it is held. -/
def BSlice.update (x : BSlice) (ln : CLine) : BSlice :=
  let n := setOf ln.line
  let st := x.set n
  let f (y : CLine) : CLine := if y.is ln.line ln.pasid then ln else y
  { x with sets := tset x.sets n { st with ways := st.ways.map fun e => (e.1, f e.2) }
           victim := x.victim.map fun v => { v with ln := f v.ln }
           side := x.side.map fun v => { v with ln := f v.ln } }

/-! Memory behind the slice. -/

/-- R348: a request to an HBM controller whose domain sleeps wakes it and waits. -/
def hbmAsleep (s : State) (a : Nat) : Bool := decide (rf s (fPwrDomctl_state (80 + farPc a / 64)) ≠ 0)
def hbmWake (s : State) (a : Nat) : State :=
  if rf s (fPwrDomctl_state (80 + farPc a / 64)) = 1 then s.emit [.domainWake (80 + farPc a / 64)] else s

/-- A line fetched from the far tier or the host. -/
def fetchLine (s : State) (q : Acc) (line : Nat) : State × Got :=
  let a := lineAddr line
  if rangeOf a = .host then
    if isMember s then hostAsk s (sliceOf line) q line (.read 0 256) else
    match translateOne s q.pasid (a - hostBase) false with
    | (s, .hit) => (s, .ok (hostRead s q.pasid (a - hostBase) 256).1 (hostPieces s q.pasid (a - hostBase)) 0)
    | (s, .fault) => (s, .err .translationFault)
    | (s, _) => (s, .wait)
  else if hbmAsleep s a then (hbmWake s a, .wait)
  else
    let (s, d, p) := farFetch s q a
    (regCount s (32 + farPc a / 64) q.part q.cls 256, .ok d p 0)

/-- Masked bytes of a line forwarded to the far tier or the host (R202, R218). -/
def forwardLine (s : State) (q : Acc) (line data mask psn : Nat) : State × Got :=
  let a := lineAddr line
  if rangeOf a = .host then
    if isMember s then hostAsk s (sliceOf line) q line (.masked mask data psn) else
    match translateOne s q.pasid (a - hostBase) true with
    | (s, .hit) => (hostWriteLine s q.pasid (a - hostBase) data mask psn, .ok 0 0 0)
    | (s, .fault) => (s, .err .translationFault)
    | (s, _) => (s, .wait)
  else if hbmAsleep s a then (hbmWake s a, .wait)
  else
    let s := regCount s (32 + farPc a / 64) q.part q.cls (if mask = wholeMask then 256 else 512)
    (farWrite s q a data mask psn, .ok 0 0 0)

/-- A dirty line written back whole; its poison goes with it (R203). -/
def writeBack (s : State) (ecc : Eccs) (ln : CLine) : State × Got :=
  forwardLine s { node := 0x200 + sliceOf ln.line, part := ln.part, key := ln.key, pasid := ln.pasid, cls := ln.cls
                  op := 2, ecc := ecc } ln.line ln.data wholeMask (if ln.psn then 255 else 0)

/-! Fills and evictions. -/

/-- R203: room for a line in the victim cache. With 64 entries held, the oldest that is not already leaving makes room: a clean one is
dropped at once, a dirty one once its writeback is accepted, of which one is under way at a time. False: there is no room yet. -/
def makeRoom (s : State) (sl : Nat) : State × Bool :=
  let x := s.slice sl
  if x.victim.length < 64 then (s, true)
  else
    match x.victim.find? fun e => !e.wb with
    | none => (s, false)
    | some o =>
      if !o.ln.dirty then (s.setSlice sl { x with victim := x.victim.erase o }, true)
      else if x.victim.any (·.wb) then (s, false)
      else
        ((s.setSlice sl { x with victim := x.victim.map fun e => if e = o then { e with wb := true } else e }).emit
          [.writebackAccepted sl o.ln.line o.ln.pasid []], false)

/-- A line enters the victim cache, which has room for it. -/
def victimPut (s : State) (sl : Nat) (ln : CLine) : State :=
  let x := s.slice sl
  s.setSlice sl { x with victim := x.victim ++ [{ ln := { ln with keep := false } }] }

/-- R203: a line goes to the victim cache. False: it has no room yet. -/
def victimPush (s : State) (sl : Nat) (ln : CLine) : State × Bool :=
  match makeRoom s sl with
  | (s, true) => (victimPut s sl ln, true)
  | r => r

/-- Whether a line's writeback is being waited for by a maintenance operation (R197). -/
def lineWaits (s : State) (sl : Nat) (ln : CLine) : Bool :=
  match s.walk with
  | some w => w.1.left.contains (sl, ln.line, ln.pasid)
  | none => false

/-- R197: the way a fill of a partition and class takes; none when no way is a candidate. -/
def fillWay (s : State) (sl : Nat) (line part cls : Nat) : Option Nat :=
  let st := (s.slice sl).set (setOf line)
  let c1 := (cacheWays s sl).filter fun w => match tfind st.ways w with | some e => !lineWaits s sl e | none => true
  let q := wayShare s part cls
  let mine := st.ways.filter fun e => decide (e.2.part = part ∧ e.2.cls = cls)
  let c2 := if q ≤ mine.length then c1.filter fun w => mine.any fun e => decide (e.1 = w) else c1
  let kept (w : Nat) : Bool := match tfind st.ways w with | some e => e.keep | none => false
  let c3 := if c2.all kept then c2 else c2.filter fun w => !kept w
  match c3.find? fun w => (tfind st.ways w).isNone with
  | some w => some w
  | none => if c3.isEmpty then none else some (plruVictim st.plru c3)

/-- R198: whether a set can take one more line with keep set. -/
def keepRoom (s : State) (sl line : Nat) : Bool :=
  let st := (s.slice sl).set (setOf line)
  decide ((st.ways.filter fun e => e.2.keep).length < rf s fSbfCfg_keepmax)

/-- R197, R198, R203: a line placed in its set, the victim leaving for the victim cache; under a way share of 0 it goes to the victim
cache itself. False: the fill waits, for a candidate or for room in the victim cache. -/
def placeLine (s : State) (sl : Nat) (ln : CLine) (keep : Bool) : State × Bool :=
  if wayShare s ln.part ln.cls = 0 then victimPush s sl ln
  else
    match fillWay s sl ln.line ln.part ln.cls with
    | none => (s, false)
    | some w =>
      let n := setOf ln.line
      let put (s : State) : State :=
        let x := s.slice sl
        let st := x.set n
        let s := s.setSlice sl { x with sets := tset x.sets n { st with ways := terase st.ways w } }
        let ln := { ln with keep := keep && keepRoom s sl ln.line }
        s.setSlice sl (((s.slice sl).putWay w ln).touch ln.line w)
      match tfind ((s.slice sl).set n).ways w with
      | none => (put s, true)
      | some o =>
        match makeRoom s sl with
        | (s, true) => (victimPut (put s) sl o, true)
        | r => r

/-! What a request does to a line. -/

/-- Atomic arithmetic on one element (Table 8-3, R210). -/
def atomicFn (op ty x a b : Nat) : Nat :=
  match op with
  | 1 =>
    if ty = 0 then (x + a) % 2 ^ 32
    else
      let f := if ty = 1 then fp32 else bf16
      (roundV f (sumV [f.decode x, f.decode a])).1
  | 2 => if ty = 0 then (if sint 32 x ≤ sint 32 a then x else a)
         else (fp32.encode true .rne (minV (fp32.decode x) (fp32.decode a))).1
  | 3 => if ty = 0 then (if sint 32 x ≤ sint 32 a then a else x)
         else (fp32.encode true .rne (maxV (fp32.decode x) (fp32.decode a))).1
  | 4 => a
  | _ => if x = b then a else x

/-- Bytes of an element by type code: INT32, FP32, BF16, B32, B64. -/
def atomicBytes (ty : Nat) : Nat := if ty = 2 then 2 else if ty = 4 then 8 else 4

/-- Whether Table 8-3 has the combination (R209). -/
def atomicAllowed (op ty : Nat) : Bool :=
  match op with
  | 1 => decide (ty ≤ 2)
  | 2 => decide (ty ≤ 1)
  | 3 => decide (ty ≤ 1)
  | 4 => decide (ty = 3 ∨ ty = 4)
  | 5 => decide (ty = 3 ∨ ty = 4)
  | 6 => decide (ty ≤ 2)
  | _ => false

/-- LINEADD (R133, R210): element sums as a Press lane makes them. -/
def lineAddData (ty x d : Nat) : Nat :=
  let w := if ty = 2 then 16 else 32
  let op := if ty = 0 then 4 else if ty = 1 then 2 else 3
  packBits w ((List.range (2048 / w)).map fun i => (pressElem op [bitsAt x w i, bitsAt d w i]).1)

def LineOp.isRead : LineOp → Bool
  | .read _ _ => true
  | _ => false
def LineOp.isAtomic : LineOp → Bool
  | .atomic _ _ _ _ _ _ => true
  | .lineAdd _ _ _ => true
  | _ => false

/-- A request applied to a line that the slice holds: the line after it and the answer (R199, R202, R208 to R210). -/
def LineOp.apply (op : LineOp) (ln : CLine) : CLine × Got :=
  match op with
  | .read off n => (ln, .ok (ln.data / 2 ^ (8 * off) % 2 ^ (8 * n)) (if ln.psn then 255 else 0) 0)
  | .atomic o ty off a b p =>
    if ln.psn || p then (ln, .err .uncorrectable)
    else
      let k := 8 * atomicBytes ty
      let x := bits ln.data (8 * off) k
      ({ ln with data := putBits ln.data (8 * off) k (atomicFn o ty x (a % 2 ^ k) (b % 2 ^ k)), dirty := true }, .ok 0 0 x)
  | .lineAdd ty d p =>
    if ln.psn || p then (ln, .err .uncorrectable)
    else ({ ln with data := lineAddData ty ln.data d, dirty := true }, .ok 0 0 0)
  | .zero => ({ ln with data := 0, psn := false, dirty := true }, .ok 0 0 0)
  | .write off n d p =>
    let m := (2 ^ n - 1) * 2 ^ off
    let stays := decide (m ≠ wholeMask) && ln.psn
    ({ ln with data := mergeLine ln.data (d * 2 ^ (8 * off)) m, psn := stays || decide (p ≠ 0), dirty := true }, .ok 0 0 0)
  | .masked m d p =>
    let stays := decide (m ≠ wholeMask) && ln.psn
    ({ ln with data := mergeLine ln.data d m, psn := stays || decide (p ≠ 0), dirty := true }, .ok 0 0 0)

/-- The hint a request acts under: atomics ignore it, writes treat whey as none (R206). -/
def effHint (q : Acc) (op : LineOp) : Nat :=
  if op.isAtomic then 0 else if !op.isRead && decide (q.hint = 3) then 0 else q.hint

/-- R196, R198, R206, R207: a request that hits, in the set or beside it. Where a recall must wait for room, a read is served and the
line stays; a write to a line of the side buffer waits. -/
def hitLine (s : State) (sl : Nat) (q : Acc) (op : LineOp) (f : Found) (ln : CLine) : State × Got :=
  let h := effHint q op
  let (l2, g) := op.apply ln
  let gone := s.setSlice sl ((s.slice sl).remove ln.line ln.pasid)
  match f with
  | .way w _ =>
    if h = 3 then (s.setSlice sl (((s.slice sl).touch ln.line w).remove ln.line ln.pasid), g)
    else
      let l2 := if h = 2 then { l2 with keep := l2.keep || keepRoom s sl ln.line } else l2
      let x := (s.slice sl).update l2
      (s.setSlice sl (if h = 1 then x else x.touch ln.line w), g)
  | .victim _ =>
    if h = 3 then (gone, g)
    else if h = 1 then (s.setSlice sl ((s.slice sl).update l2), g)
    else
      match placeLine gone sl { l2 with cls := q.cls } (decide (h = 2)) with
      | (s, true) => (s, g)
      | _ => (s.setSlice sl ((s.slice sl).update l2), g)
  | _ =>
    if h = 3 then (gone, g)
    else
      match (if h = 1 && op.isRead then victimPush gone sl l2 else placeLine gone sl { l2 with cls := q.cls } (decide (h = 2))) with
      | (s, true) => (s, g)
      | (t, _) => (t.setSlice sl { t.slice sl with side := (s.slice sl).side }, if op.isRead then g else .wait)

/-- The line of a request, as it would be filled. -/
def freshLine (q : Acc) (line data : Nat) (psn dirty : Bool) : CLine :=
  { line := line, pasid := tagPasid (lineAddr line) q.pasid, dirty := dirty, psn := psn, keep := false
    cls := q.cls, part := q.part, key := q.key, data := data }

/-- Where a line goes that arrives for a request under hint h, and where a later request under h leaves it (Table 8-2): 0 in its set,
1 in the victim cache, 2 in its set with keep, 3 nowhere. -/
def placeAfter (p h : Nat) : Nat := if h = 3 then 3 else if h = 2 then 2 else if h = 0 ∧ p = 1 then 0 else p

/-- A line placed as a code of placeAfter says. False: it waits. -/
def placeBy (s : State) (sl p : Nat) (ln : CLine) : State × Bool :=
  if p = 3 then (s, true)
  else if p = 1 then victimPush s sl ln
  else placeLine s sl ln (decide (p = 2))

/-- Table 8-2: a line that arrived for a request is placed by its hint. -/
def placeMissed (s : State) (sl : Nat) (q : Acc) (op : LineOp) (ln : CLine) : State × Bool := placeBy s sl (effHint q op) ln

/-- A line that leaves its way for good (R214, R219): a clean one is dropped, a dirty one written back; where that waits it is kept
until it is accepted. One that the memory behind it refuses is lost, with a record (log entry 87). -/
def sendOut (s : State) (sl : Nat) (ln : CLine) : State :=
  let s := s.setSlice sl ((s.slice sl).remove ln.line ln.pasid)
  if !ln.dirty then s
  else
    match writeBack s [] ln with
    | (s, .ok _ _ _) => s
    | (s, .err st) => errNote s .fault st (unitSlice sl) (lineAddr ln.line) 2 (0x200 + sl) (some ln.part)
    | (s, .wait) =>
      let x := s.slice sl
      (s.setSlice sl { x with out := x.out ++ [ln] }).emit [.writebackAccepted sl ln.line ln.pasid []]

/-! Errors of a slice's own memories (R219, R321, R322). -/

/-- R219: a way is disabled: its mask bit set and its inv bit cleared, and its lines move out. -/
def wayOut (s : State) (sl w : Nat) : State :=
  let s := hwf s (fSbfWaydis_mask sl) (Nat.lor (rf s (fSbfWaydis_mask sl)) (2 ^ w))
  let inv := rf s (fSbfWaystat_inv sl)
  let s := if inv / 2 ^ w % 2 = 1 then wf s (fSbfWaystat_inv sl) (inv - 2 ^ w) else s
  (s.slice sl).sets.foldl (fun s e =>
    match tfind e.2.ways w with
    | none => s
    | some ln => sendOut s sl ln) s

/-- Location of a line of a way in the defect list (log entry 20). -/
def wayLoc (set w : Nat) : Nat := set * 16 + w

/-- R219, R312: a way meets the threshold: disabled, or marked failing while it is locked. -/
def wayFails (s : State) (sl w set : Nat) : State :=
  if (s.slice sl).locked.contains w then
    let l := rf s (fSbfWaystat_lfail sl)
    repair (metSet (wf s (fSbfWaystat_lfail sl) (Nat.lor l (2 ^ w))) (fSbfWaystat_lfail sl) (2 ^ w)) (unitWay sl w) 6 0 (wayLoc set w)
  else
    let old := rf s (fSbfWaydis_mask sl)
    let s := repair (wayOut s sl w) (unitWay sl w) 6 0 (wayLoc set w)
    audit s { kind := 4, origin := 3, target := tgtOff (offSbfWaydis sl), old := old, new := rf s (fSbfWaydis_mask sl)
              mask := 2 ^ w }

/-- What the code of a way finds when line a of set `set` is read: marks, and the state with counts, records and the
way's fate. fate is applied after the request has been served. -/
def wayFinds (s : State) (sl w set a : Nat) (e : Ecc) : State × Nat × Bool :=
  let u := unitWay sl w
  match e with
  | .ok => (s, 0, false)
  | .mismatch p => (ownMismatch s u a p, 2 ^ (p % 8), false)
  | .uncorrectable => (errEvent s .uncorrectable .uncorrectable u a set w, 255, true)
  | .corrected =>
    let s := corrected s u set
    let old := tget [] s.errs.wayTimes u
    let now := s.devtime.toNat
    ({ s with errs := { s.errs with wayTimes := tset s.errs.wayTimes u ((now :: old).take 3) } }, 0,
     nthWithinDay now 3 old)

/-- What the code of the victim cache or the side buffer finds. -/
def sideFinds (s : State) (sl set a : Nat) (e : Ecc) : State × Nat :=
  let u := unitSlice sl
  match e with
  | .ok => (s, 0)
  | .mismatch p => (ownMismatch s u a p, 2 ^ (p % 8))
  | .uncorrectable => (errEvent s .uncorrectable .uncorrectable u a set 0, 255)
  | .corrected => (corrected s u set, 0)

/-- Findings about a line that a slice holds, applied before the request is. -/
def foundFinds (s : State) (sl : Nat) (q : Acc) (f : Found) (ln : CLine) : State × CLine × Option Nat :=
  let a := lineAddr ln.line
  let e := eccOf q.ecc a
  match f with
  | .way w _ =>
    let (s, m, out) := wayFinds s sl w (setOf ln.line) a e
    (s, { ln with psn := ln.psn || decide (m ≠ 0) }, if out then some w else none)
  | _ =>
    let (s, m) := sideFinds s sl (setOf ln.line) a e
    (s, { ln with psn := ln.psn || decide (m ≠ 0) }, none)

/-- Outcome of a slice's look-up: answered, or the line must be fetched or is being fetched. -/
inductive Look where
  | done (g : Got)
  | fetch
  | join
deriving DecidableEq, Repr

/-- R195, R202, R208, R218: what a slice does with a request before any fetch. One for a line on its way out waits. -/
def lookSlice (s : State) (sl : Nat) (q : Acc) (line : Nat) (op : LineOp) : State × Look :=
  let x := s.slice sl
  let pas := tagPasid (lineAddr line) q.pasid
  if x.out.any fun ln => ln.is line pas then (s, .done .wait)
  else if uncached s sl then
    match op.writes with
    | some (m, d, p) =>
      (match forwardLine s q line d m p with
       | (s, .ok a b c) => (regCount s sl q.part q.cls op.bytes, .done (.ok a b c))
       | (s, g) => (s, .done g))
    | none =>
      if op.isAtomic then (s, .done (.err .busy))
      else
        match fetchLine s q line with
        | (s, .ok d p _) =>
          let (_, g) := op.apply (freshLine q line d (decide (p ≠ 0)) false)
          (regCount s sl q.part q.cls op.bytes, .done g)
        | (s, g) => (s, .done g)
  else
    match x.missOf line pas with
    | some _ => (s, .join)
    | none =>
      let hit (f : Found) (ln : CLine) : State × Look :=
        if ln.part ≠ q.part ∨ ln.key ≠ q.key then (s, .done (.err .accessViolation))
        else
          let (t, ln, out) := foundFinds (incWrap s (fSbfCnt_hit sl) 1) sl q f ln
          match hitLine t sl q op f ln with
          | (_, .wait) => ((hitLine s sl q op f ln).1, .done .wait)
          | (t, g) =>
            let t := regCount t sl q.part q.cls op.bytes
            (match out with | some w => wayFails t sl w (setOf line) | none => t, .done g)
      match x.find line pas with
      | .way w ln => hit (.way w ln) ln
      | .victim ln => hit (.victim ln) ln
      | .side ln => hit (.side ln) ln
      | .absent =>
        match op.writes with
        | some (m, d, p) =>
          let h := effHint q op
          if m = wholeMask then
            let ln := freshLine q line d (decide (p ≠ 0)) true
            (match placeMissed s sl q op ln with
             | (s, true) => (regCount s sl q.part q.cls 256, .done (.ok 0 0 0))
             | (s, false) => (s, .done .wait))
          else if h = 1 || decide (wayShare s q.part q.cls = 0) then
            (match forwardLine s q line d m p with
             | (s, .ok a b c) => (regCount s sl q.part q.cls op.bytes, .done (.ok a b c))
             | (s, g) => (s, .done g))
          else (s, .fetch)
        | none => (s, .fetch)

/-! The miss table (R200, R201). -/

/-- Sectors of a line from the one that holds the first requested byte, wrapping (R165). -/
def sectorOrder (off : Nat) : List Nat := (List.range 4).map fun i => (off / 64 + i) % 4

def LineOp.first : LineOp → Nat
  | .read off _ => off
  | .write off _ _ _ => off
  | .atomic _ _ off _ _ _ => off
  | _ => 0

/-- R207: whether a request of an entry leaves the line absent for every later one. -/
def Miss.ends (m : Miss) : Bool := m.waiters.any fun w => decide (effHint w.acc w.op = 3)

/-- A miss-table entry replaced. -/
def putMiss (s : State) (sl : Nat) (m : Miss) : State :=
  let x := s.slice sl
  s.setSlice sl { x with miss := x.miss.map fun y =>
    if y.line = m.line ∧ tagPasid (lineAddr y.line) y.acc.pasid = tagPasid (lineAddr m.line) m.acc.pasid then m else y }

/-- R200: a request joins an entry; a prefetch that a request joins is one no more. -/
def joinMiss (s : State) (sl : Nat) (m : Miss) (w : Waiter) : State × Miss :=
  let m2 : Miss := if m.side then { m with side := false, acc := w.acc, waiters := [w] } else { m with waiters := m.waiters ++ [w] }
  (incWrap (putMiss s sl m2) (fSbfCnt_miss sl) 1, m2)

/-- R200: a request takes an entry, and its line is asked for. -/
def openMiss (s : State) (sl line : Nat) (w : Waiter) : State :=
  let x := s.slice sl
  let s := s.setSlice sl { x with miss := x.miss ++ [{ line := line, acc := w.acc, waiters := [w] }] }
  (incWrap s (fSbfCnt_miss sl) 1).emit
    ((sectorOrder w.op.first).map fun k => .missSectorArrival sl line (tagPasid (lineAddr line) w.acc.pasid) k w.acc.ecc)

/-- R202: whether a request completes when the entry has taken its data. -/
def LineOp.posted (op : LineOp) : Bool := !op.isRead && !op.isAtomic

/-- A unit that asks again for its outcome waits in an entry; its write is complete (R202). -/
def heldAnswer (s : State) (sl : Nat) (q : Acc) (op : LineOp) : State × Got :=
  if op.posted then (regCount s sl q.part q.cls op.bytes, .ok 0 0 0) else (s, .wait)

def heldWaiter (q : Acc) (op : LineOp) : Waiter := { acc := q, tag := 0, op := op, early := false, acked := op.posted, held := true }

/-- A request of a unit that asks again for its outcome where it waits: a cluster DMA, a copy engine, the command processor, the host
port. A line that can be fetched at once is; else the request waits in the miss table, with 512 entries taken before it. -/
def sliceAccess (s : State) (q : Acc) (line : Nat) (op : LineOp) : State × Got :=
  let sl := sliceOf line
  let x := s.slice sl
  match x.ready.find? fun r => decide (r.1 = q ∧ r.2.1 = line ∧ r.2.2.1 = op) with
  | some r => (s.setSlice sl { x with ready := x.ready.erase r }, r.2.2.2)
  | none =>
    match lookSlice s sl q line op with
    | (s, .done g) => (s, g)
    | (s, .join) =>
      (match (s.slice sl).missOf line (tagPasid (lineAddr line) q.pasid) with
       | none => (s, .wait)
       | some m =>
         if m.acc.part ≠ q.part ∨ m.acc.key ≠ q.key then (s, .err .accessViolation)
         else if m.ends then (s, .wait)
         else heldAnswer (joinMiss s sl m (heldWaiter q op)).1 sl q op)
    | (s, .fetch) =>
      if 512 ≤ (s.slice sl).miss.length then (s, .wait)
      else
        let later (s : State) : State × Got := heldAnswer (openMiss s sl line (heldWaiter q op)) sl q op
        match fetchLine s q line with
        | (t, .ok d p _) =>
          let (ln, g) := op.apply (freshLine q line d (decide (p ≠ 0)) false)
          (match placeMissed t sl q op ln with
           | (t, true) => (regCount (incWrap t (fSbfCnt_miss sl) 1) sl q.part q.cls op.bytes, g)
           | (_, false) => later s)
        | (t, .wait) => later t
        | r => r

end Sys2Proof.Machine
end

