-- ==== Sys2Proof/Machine/Views.lean ====
section
/-! DEFINITION. What a read of a register returns: stored fields, and fields that show state held elsewhere (R4, R7, R119,
R261, R276; the register tables of each chapter). -/
namespace Sys2Proof.Machine

/-! A core. -/

/-- CORE_STAT.state (Table 3-13). -/
def coreStateCode (s : State) (c : Nat) : Nat :=
  let k := s.core c
  if k.faulted then 5
  else
    match corePart s c with
    | none => 0
    | some p =>
      let x := s.part p
      if x.run.isNone then 0
      else if !k.waits.isEmpty then 3
      else if x.held then 2
      else if k.stall then 4
      else if !x.inStep || x.paused then 0
      else 1

def anyPoison (k : Core) : Bool := (List.range 16).any fun i => k.vp i

/-- V of the pass in force as CORE_ARRSTAT.cls codes it. -/
def clsCode (v : Nat) : Nat := match v with | 1 => 1 | 2 => 2 | 4 => 3 | 16 => 4 | _ => 0

/-- Fields of CORE_ARRSTATn but rerr (Table 3-14) in cycle t. The shadow bank is free once the marker has issued; a load is in
progress until its last row, or its scales, are written (R75). -/
def arrView (x : Arr) (t : Nat) : Nat :=
  let shadow := if x.load.any (!·.act) then 1 else if x.shadow.isNone then 0 else if x.loadEnd < t then 2 else 1
  2 ^ 16 * clsCode x.inForce + 2 ^ 12 * x.fq.length + 2 ^ 10 * shadow +
    2 ^ 9 * bit (decide (t < x.markEnd)) + 2 ^ 8 * bit (!x.draining.isEmpty)

/-- R119: whether CORE_DBGDATA reaches the registers of a core, R304 included. -/
def dbgOpen (s : State) (c : Nat) : Bool :=
  let conf := match corePart s c with
    | some p => rb s (fSecPbind_conf p) && !rb s (fSecPbind_dbg p)
    | none => false
  let halted := match corePart s c with
    | some p => let x := s.part p
                x.run.isNone || (x.held && (coresOf s p).any fun j => (s.core j).dbg)
    | none => true
  !conf && halted

/-- R119: selectors that name a register. -/
def dbgSelOk (n : Nat) : Bool := decide (n ≤ 0x2C ∨ (0x80 ≤ n ∧ n ≤ 0xFF))

/-- R119: value of the selected register. Loop level 0 is the outermost. -/
def dbgRead (k : Core) (n : Nat) : Nat :=
  if n < 0x20 then (k.s n).toNat
  else if n < 0x28 then (k.a (n - 0x20)).toNat
  else if n = 0x28 then k.preds.toNat
  else if n < 0x2D then (match k.loops.reverse[n - 0x29]? with | some l => l.count | none => 0)
  else bits (k.v ((n - 0x80) / 8)).toNat (64 * ((n - 0x80) % 8)) 64

/-! Fields that show other state. -/

def b2 (x : Bool) (i : Nat) : Nat := if x then 2 ^ i else 0

/-- The cluster-local views. -/
def viewRouter (s : State) (cl : Nat) : Nat :=
  let r := s.router cl
  let running := match partOfCluster s cl with | some p => !stopped s p && (s.part p).inStep | none => false
  let held := match partOfCluster s cl with | some p => (s.part p).held | none => false
  let st := if !r.has then 0 else if !running then 1 else if held then 3 else 2
  2 ^ 62 * st + b2 r.done 61 + 2 ^ 58 * r.loops.length + 2 ^ 32 * r.slot + (r.rem - 1)

def viewDma (s : State) (cl : Nat) : Nat :=
  let x := s.dma cl
  let swap := (x.queue ++ x.active).any fun d => decide (bits d.x.toNat 0 8 = 6)
  2 ^ 22 * (x.queue.length + x.active.length) + 2 ^ 18 * x.active.length + 2 ^ 17 * x.half + b2 swap 16

def viewPart (s : State) (p : Nat) : Nat :=
  let x := s.part p
  let dbg := (coresOf s p).any fun c => (s.core c).dbg
  let st := if x.run.isNone then 0 else if !x.held then 1 else if dbg then 3 else 2
  let cls := clustersOf s p
  let sched := !cls.isEmpty && cls.all fun cl => (s.router cl).has
  let ql := cls.any (fun cl => (s.router cl).qsched.isSome) || (coresOf s p).any fun c => (s.core c).qload.isSome
  2 ^ 30 * st + b2 (spans s p) 29 + 2 ^ 23 * holdLead s p + b2 sched 22 + b2 ql 21

/-- The part of a register's word that is not in the register file, with the mask of the bits it replaces. CORE_DBGSEL.valid reads 1 on a
stopped partition, at reset too, as R119 has it, where Table 4-16 gives a reset value of 0: DESIGN CHOICE (log entry 83). -/
def viewOf (s : State) (r : RegName) (i : Nat) : Option (Nat × Nat) :=
  match r with
  | .coreStat => let k := s.core i
                 some (0x00FF07FF, 2 ^ 21 * coreStateCode s i + b2 (anyPoison k) 20 +
                   2 ^ 16 * rf s (fCluCfg_part (clusterOfCore i)) + k.pc)
  | .coreArrstat0 => some (0x0007FF00, arrView (s.core i).arr0 (coreCyc s i))
  | .coreArrstat1 => some (0x0007FF00, arrView (s.core i).arr1 (coreCyc s i))
  | .coreFlags => some (2 ^ 32 - 1, (s.core i).flags.toNat)
  | .corePcfg => some (0x3F1F, 2 ^ 8 * (match corePart s i with | some p => holdLead s p | none => 12) + (s.core i).credits)
  | .coreDbgctl => some (2 ^ 27 + 7 * 2 ^ 29, b2 (s.core i).dbg 27)
  | .coreDbgsel => some (2 ^ 31, b2 (dbgOpen s i && dbgSelOk (rf s (fCoreDbgsel_sel i))) 31)
  | .coreDbgdata => some (2 ^ 64 - 1, if dbgOpen s i && dbgSelOk (rf s (fCoreDbgsel_sel i))
                                      then dbgRead (s.core i) (rf s (fCoreDbgsel_sel i)) else 0)
  | .cluDmastat => some (0xFFFF0000, viewDma s i)
  | .mshRstat => some (2 ^ 64 - 1, viewRouter s i)
  | .mshPctl => some (0xFFE00000, viewPart s i)
  | .mshPstep => some (2 ^ 64 - 1, (s.part i).step.toNat)
  | .mshPcyc => some (2 ^ 32 - 1, (s.part i).m.toNat)
  | .ntcChstat => let x := s.near i
                  some (0x3FFFF800, 2 ^ 23 * x.wq.length + 2 ^ 19 * ((x.refr.map (·.2)).foldl max 0) +
                    2 ^ 12 * x.table.length + b2 s.nearCal 11)
  | .cmdSqstat => let x := s.queue i
                  some (2 ^ 61 + 0x7F * 2 ^ 40 + (2 ^ 32 - 1), b2 x.cqfull 61 + 2 ^ 40 * x.entries.length + x.nextseq)
  | .bseTime => some (2 ^ 64 - 1, s.devtime.toNat)
  | .pwrCap => let b := min 800000 (s.pwr.floor - s.pwr.load)
               some ((2 ^ 12 - 1) * 2 ^ 40 + (2 ^ 10 - 1) * 2 ^ 18, 2 ^ 40 * (s.pwr.floor / 1000) + 2 ^ 18 * (b / 1000))
  | .pwrPclk => let w := ((tfind s.pwr.pests (4 * i + rf s (fPwrPclk_plan i))).getD
                  (1500 * (clustersOf s i).length * (match rf s (fPwrPclk_plan i) with | 0 => 20 | 1 => 18 | 2 => 16 | _ => 12) / 20)) / 1000
                some (2 ^ 12 - 1, min 4095 w)
  | .secStat => some (63 * 2 ^ 56, 2 ^ 56 * s.sec.sessions.length)
  | .audWseq => some (2 ^ 64 - 1, s.aud.wseq)
  | .audRd => some (2 ^ 64 - 1, s.aud.rd)
  | .audStat => some (2 ^ 31 + 2 ^ 29, b2 s.aud.gap.isSome 31 + b2 s.aud.ready 29)
  | .qosClass => if 6 ≤ i % 8 then some (0x7F8, 16 * 2 ^ 6 + 4 * 2 ^ 3) else none
  | .bsePinstat =>
    let stage := rf s fBseBoot_stage
    (match rf s fBsePhase_cur with
     | 2 => some (0xC004, b2 s.ring.alerts.isEmpty 2 + b2 (decide (stage = 0xA)) 14 + b2 (decide (stage = 0xE ∨ stage = 0xF)) 15)
     | 3 => some (0xE, b2 (decide (s.devtime.toNat < s.links.pulseEnd)) 1 + b2 (!rb s fThmCfg_alert) 2 +
              b2 (!rb s fPwrPfstat_relay) 3)
     | _ => none)
  | .errStat => some (2 ^ 32 * (2 ^ 11 - 1), 2 ^ 32 * (s.errs.written % 2 ^ 11))
  | _ => none

/-- The word a read sees. -/
def State.view (s : State) (off : Nat) : Nat :=
  let w := (s.reg off).toNat
  match regFind off with
  | none => 0
  | some (r, i) =>
    match viewOf s r.name i with
    | some (m, v) => Nat.lor (Nat.land w (Nat.xor (2 ^ 256 - 1) m)) (Nat.land v m)
    | none => w

/-! Power domains of registers (R261). -/

/-- The domain a register instance lies in; none for the always-on ones and those of domains that never go off, the trace
registers of a cluster among them (R365). -/
def domainOfReg (off : Nat) : Option Nat :=
  if 0x1000000 ≤ off ∧ off < 0x2000000 then
    let die := (off - 0x1000000) / 0x400000
    let o := (off - 0x1000000) % 0x400000
    if 0x100000 ≤ o ∧ o < 0x180000 then
      if 0x300 ≤ o % 0x1000 ∧ o % 0x1000 < 0x318 then none
      else some (domainOf (128 * die + (o - 0x100000) / 0x1000))
    else if 0x200000 ≤ o then some (domainOf (128 * die + (o - 0x200000) / 0x1000))
    else none
  else if 0x30000 ≤ off ∧ off < 0x38000 then some (68 + (off - 0x30000) / 0x1000 / 2)
  else if 0x40000 ≤ off ∧ off < 0x40800 then some (80 + (off - 0x40000) / 0x100)
  else if 0x50000 ≤ off ∧ off < 0x52000 then some (72 + (off - 0x50000) / 0x100 / 4)
  else none

/-- Whether the domain of a register is off. -/
def regOff (s : State) (off : Nat) : Bool :=
  match domainOfReg off with
  | some d => decide (rf s (fPwrDomctl_state d) = 2)
  | none => false

/-- Write-only fields read as zero (R4). -/
def woMask : List FieldSpec → Nat
  | [] => 0
  | f :: fs => (if f.acc = .wo then (2 ^ f.w - 1) * 2 ^ f.lo else 0) + woMask fs

/-- One register's word as software reads it. -/
def regWord (s : State) (off : Nat) : Nat :=
  match regFind off with
  | none => 0
  | some (r, i) =>
    if regOff s off then specReset r i
    else Nat.land (s.view off) (Nat.xor (2 ^ 256 - 1) (woMask r.fields))

/-- The register that a byte offset lies in, with the byte's place in it. -/
def regAt (off : Nat) : Option (RegSpec × Nat × Nat) :=
  ([0, 4, 8, 12, 16, 20, 24, 28].filterMap fun d =>
    if d ≤ off / 4 * 4 then
      match regFind (off / 4 * 4 - d) with
      | some (r, i) => if 8 * d < r.width then some (r, i, d) else none
      | none => none
    else none).head?

/-! Windows onto buffers. -/

/-- The 32 bytes of a miss record (Table 8-5). -/
def MissRec.word (m : MissRec) : Nat :=
  m.start % 2 ^ 64 + m.short % 2 ^ 48 * 2 ^ 64 + m.served % 2 ^ 48 * 2 ^ 128 + m.reg % 64 * 2 ^ 192 + m.part % 16 * 2 ^ 200 +
    m.cls % 8 * 2 ^ 208 + m.len % 2 ^ 32 * 2 ^ 224

/-- The record at index i of the error queue: the newest whose number is i modulo 1,024 (R332). -/
def errAt (s : State) (i : Nat) : Nat :=
  match s.errs.recs.find? fun r => decide (r.seq % 1024 = i) with
  | some r => r.word
  | none => 0

/-- The selected checkpoint record (Table 11-14). -/
def ckptWord (s : State) : Nat :=
  match tfind s.aud.ckpts (rf s fAudStat_cksel % 2048) with
  | some c => if s.aud.ready then natOf c.bytes else 0
  | none => 0

/-- 32 bits of the read windows: mailbox buffers (Table 10-12), miss queue, error queue, audit ring (R314) and the selected
checkpoint. -/
def windowRead (s : State) (off : Nat) : Option Nat :=
  let w (x o : Nat) : Option Nat := some (bits x (8 * o) 32)
  if 0x92100 ≤ off ∧ off < 0x92140 then w (natOf s.links.mbx.tx) (off - 0x92100)
  else if 0x92200 ≤ off ∧ off < 0x92240 then w (natOf s.links.mbx.rx) (off - 0x92200)
  else if 0x61800 ≤ off ∧ off < 0x62000 then
    match tfind s.qos.recs ((off - 0x61800) / 32) with
    | some m => w m.word (off % 32)
    | none => some 0
  else if 0x120000 ≤ off ∧ off < 0x130000 then w (errAt s ((off - 0x120000) / 64)) (off % 64)
  else if 0x800000 ≤ off ∧ off < 0xC00000 then some (memRead s.mem (scrBase + (off - 0x800000)) 4)
  else if 0xC00000 ≤ off ∧ off < 0xC00200 then w (ckptWord s) (off - 0xC00000)
  else none

/-- 32 bits at a BAR0 offset; zero where nothing is assigned (R7). -/
def regRead32 (s : State) (off : Nat) : Nat :=
  match windowRead s (off / 4 * 4) with
  | some x => x
  | none =>
    match regAt off with
    | some (_, _, d) => bits (regWord s (off / 4 * 4 - d)) (8 * d) 32
    | none => 0

/-- A 32-bit read (R276): that of the low half of BSE_TIME latches the high half, which the next read of that half
returns. -/
def regRead1 (s : State) (off : Nat) : State × Nat :=
  if off = offBseTime then
    ({ s with host := { s.host with hiLatch := some (s.devtime.toNat / 2 ^ 32) } }, s.devtime.toNat % 2 ^ 32)
  else if off = offBseTime + 4 then
    match s.host.hiLatch with
    | some h => ({ s with host := { s.host with hiLatch := none } }, h)
    | none => (s, regRead32 s off)
  else (s, regRead32 s off)

end Sys2Proof.Machine
end

