-- ==== Sys2Proof/Machine/Access.lean ====
section
/-! DEFINITION. A request to any device address: the checks of Table 11-6, the unit that serves it, and its answer (R148 to
R152, R156, R192, R215, R273, R308, R380). -/
namespace Sys2Proof.Machine

/-! The cascade, as far as addresses need it. -/

/-- Whether a position is present (R149, R150). -/
def present (s : State) (n : Nat) : Bool :=
  decide (n = selfPos s) || (decide (rf s fLnkCasc_topo ≠ 0) && decide (n ≤ rf s fLnkCasc_ndev))
/-! Checks (R308). -/

/-- Requests of the command processor and Rind (R152, R305), of this device or of another of the cascade (log entry 85). -/
def isFirmware (node : Nat) : Bool := decide (node % 1024 = nodeCp ∨ node % 1024 = nodeRind)
/-- Local node numbers that R142 does not reserve. -/
def nodeKnown (node : Nat) : Bool :=
  let l := node % 1024
  decide (l < 0x239 ∨ 0x240 ≤ l ∧ l < 0x248 ∨ l = nodeCp ∨ l = nodeRind)
/-- R57: the requesters that reach cluster memory through its window: cluster DMAs and copy engines. -/
def reachesCmem (node : Nat) : Bool := decide (node % 1024 < 0x200 ∨ 0x228 ≤ node % 1024 ∧ node % 1024 < 0x238)
/-- R161, R380: a withdrawn cluster. -/
def withdrawn (s : State) (cl : Nat) : Bool := decide (rf s (fCluCoremap_dis cl) = 2 ^ 32 - 1)
/-- R301. -/
def confidential (s : State) (p : Nat) : Bool := rb s (fSecPbind_conf p)

/-- Check 1: the address is in no range, or where nothing answers this requester (R57, R149, R152, R380; log entry 78). -/
def rangeBad (s : State) (node a : Nat) : Bool :=
  match rangeOf a with
  | .reserved => true
  | .near => unpopulated a || withdrawn s (a / 2 ^ 28) || rb s (fNtcChstat_fail (nearChan a))
  | .scratch => decide (rf s fSbfScr_ways ≤ scrGroup a)
  | .cmem => withdrawn s ((a - cmBase) / 0x400000) || !reachesCmem node
  | .regs => !isFirmware node
  | .remote => unpopulated a || !present s (remSplit a).1
  | _ => false

/-- Check 2: the key slot is valid and bound to the request's partition, or it is slot 63 from firmware; applied where
there is an engine or a slice (log entry 22). -/
def keyBad (s : State) (q : Acc) (a : Nat) : Bool :=
  match rangeOf a with
  | .near | .far | .scratch | .host =>
    if q.key = 63 then !isFirmware q.node
    else decide (rf s (fSecSlot_state q.key) ≠ 1) || decide (rf s (fSecSlot_part q.key) ≠ q.part)
  | _ => false

/-- Check 3: the owner of the addressed range. Slot 63 passes but for a confidential partition's ranges. Host-window requests of a
confidential partition carry its PASID and travel in the keyed stream of its TDI (Table 11-5). -/
def ownerBad (s : State) (q : Acc) (a : Nat) : Bool :=
  let fw := decide (q.key = 63) && isFirmware q.node
  let own (o : Option Nat) : Bool :=
    if fw then (match o with | some p => confidential s p | none => false)
    else !decide (o = some q.part)
  let grant (v : Nat) : Option Nat := if v < 16 then some v else none
  match rangeOf a with
  | .near => own (partOfCluster s (a / 2 ^ 28))
  | .cmem => own (partOfCluster s ((a - cmBase) / 0x400000))
  | .far => own (grant (rf s (fSecFtgrant_owner ((a - farBase) / 2 ^ 30))))
  | .scratch =>
    let o := rf s (fSbfScrgrant_owner (scrBlock a))
    if o = 16 then !isFirmware q.node else own (grant o)
  | .host => confidential s q.part &&
      (decide (q.pasid ≠ rf s (fSecPbind_pasid q.part)) || (tfind s.sec.ide (q.part + 1)).isNone)
  | .remote => !fw && rf s fLnkCasc_cpart / 2 ^ q.part % 2 == 0
  | _ => false

/-- R149: whether n bytes leave their line. -/
def crosses (a n : Nat) : Bool := decide (256 < a % 256 + n)

/-- R340: a request that would cross a failed vertical port: to the memories of a cluster from another die or the base die, or from
a cluster to anything off its die (R22, R140). -/
def portDead (s : State) (q : Acc) (a : Nat) : Bool :=
  let node := if q.foreign then 1024 else q.node
  let dead (cl : Nat) : Bool := decide (rf s (fDfmVpstat_width cl) = 3)
  let target : Option Nat := match rangeOf a with
    | .near => some (a / 2 ^ 28)
    | .cmem => some ((a - cmBase) / 0x400000)
    | _ => none
  match target with
  | some cl => if node < 512 then decide (dieOf node ≠ dieOf cl) && (dead cl || dead node) else dead cl
  | none => decide (node < 512) && dead node

/-- Checks 1 to 3 in order, then the rules on what the range serves (R149, R151, R152, R167, R308). DESIGN CHOICE (log entry 86): a
request that both crosses a line and starts in a refused range ends ACCESS_VIOLATION, as R149 gives two statuses and no order; and a
request to the register view that is not of whole aligned 32-bit words ends INVALID, as R152 names no width. -/
def checkReq (s : State) (q : Acc) (a n : Nat) (atomic : Bool) : Option Status :=
  if rangeBad s q.node a then some .accessViolation
  else if crosses a n then some .invalid
  else if keyBad s q a || ownerBad s q a then some .accessViolation
  else if portDead s q a then some .uncorrectable
  else
    match rangeOf a with
    | .near | .cmem => if atomic then some .invalid else none
    | .regs => if atomic || decide (a % 4 ≠ 0 ∨ n % 4 ≠ 0) then some .invalid else none
    | .far => if farAvail s then none else some .uncorrectable
    | .remote => if atomic && decide ((remSplit a).2 < farBase) then some .invalid else none
    | _ => none

/-- Unit number of a node (Table 12-6), for the unit that sent a piece (R320). -/
def unitOfNode (n : Nat) : Nat :=
  let l := n % 1024
  if l < 0x200 then unitCluster l
  else if l < 0x220 then unitSlice (l - 0x200)
  else if l < 0x228 then unitHbm (l - 0x220)
  else if l < 0x238 then unitEngine (l - 0x228)
  else if l = 0x238 then unitHost
  else if l = nodeRind then unitRind
  else if 0x240 ≤ l ∧ l < 0x248 then unitLink (l - 0x240)
  else unitCp

/-- The unit that serves an address. -/
def servingUnit (s : State) (a : Nat) : Nat :=
  match rangeOf a with
  | .near => 0x4200 + nearChan a
  | .far | .host => unitSlice (sliceOf (a / 256))
  | .scratch => unitSlice (scrSlice a)
  | .cmem => unitCluster ((a - cmBase) / 0x400000)
  | .remote => match routePort s (remSplit a).1 with | some p => unitLink p | none => unitCp
  | _ => unitCp

/-- R308, R330: a request that fails its checks leaves a FAULT record. -/
def reqFault (s : State) (q : Acc) (a : Nat) (st : Status) : State :=
  errNote s .fault st (servingUnit s a) a q.op q.node (some q.part)

/-! Memories that are not behind the slices' tags. -/

/-- Eight piece marks of a line. -/
def marksOf (t : Tab Bool) (a : Nat) : Nat :=
  (List.range 8).foldl (fun m i => if tget false t (a / 32 + i) then m + 2 ^ i else m) 0

/-- Piece marks after a masked write: a poisoned piece marks, a whole clean piece clears, a part write leaves. -/
def setMarks (t : Tab Bool) (a mask psn : Nat) : Tab Bool :=
  (List.range 8).foldl (fun t i =>
    let m := mask / 2 ^ (32 * i) % 2 ^ 32
    if m = 0 then t
    else if psn / 2 ^ i % 2 = 1 then tset t (a / 32 + i) true
    else if m = 2 ^ 32 - 1 then terase t (a / 32 + i)
    else t) t

/-- What the code of a cluster's memory finds (Table 12-2). -/
def cmemFinds (s : State) (cl a : Nat) (e : Ecc) : State × Nat :=
  let u := unitCluster cl
  match e with
  | .ok => (s, 0)
  | .corrected => (corrected s u (a / 64), 0)
  | .uncorrectable => (errEvent s .uncorrectable .uncorrectable u a (a / 64) 0, 255)
  | .mismatch p => (ownMismatch s u a p, 2 ^ (p % 8))

/-- A masked write of a line kept in device memory with piece marks (cluster memory). -/
def memMasked (s : State) (a mask data psn : Nat) : State :=
  { s with mem := memWrite s.mem a 256 (mergeLine (memRead s.mem a 256) data mask), psn := setMarks s.psn a mask psn
           upsets := { s.upsets with cmem := s.upsets.cmem.filter fun e => !decide (e.1 / 32 = a / 256 ∧ mask / 2 ^ (8 * (e.1 % 32)) % 256 = 255) } }

/-- Pieces of a line that a byte mask touches in part. -/
def partPieces (mask : Nat) : Nat :=
  (List.range 8).foldl (fun m i =>
    let x := mask / 2 ^ (32 * i) % 2 ^ 32
    if x ≠ 0 ∧ x ≠ 2 ^ 32 - 1 then m + 2 ^ i else m) 0

/-- R319: a merge into pieces of a cluster's memory first checks them as they stood: the marks of those found bad. -/
def mergeFinds (s : State) (cl a mask : Nat) (e : Ecc) : State × Nat :=
  if partPieces mask = 0 then (s, 0)
  else
    let (s, m) := cmemFinds s cl a e
    (s, Nat.land m (partPieces mask))

/-- A request to cluster memory (R57, R208, R319). -/
def cmemAccess (s : State) (q : Acc) (line : Nat) (op : LineOp) : State × Got :=
  let a := lineAddr line
  match op.writes with
  | some (m, d, p) =>
    let (s, bad) := mergeFinds s ((a - cmBase) / 0x400000) a m (eccOf q.ecc a)
    (memMasked s a m d (Nat.lor p bad), .ok 0 0 0)
  | none =>
    match op with
    | .read off n =>
      let (s, m) := cmemFinds s ((a - cmBase) / 0x400000) a (eccOf q.ecc a)
      (s, .ok (memRead s.mem (a + off) n) (Nat.lor m (marksOf s.psn a)) 0)
    | _ => (s, .err .invalid)

/-- A request to scratch (R208 to R210, R213): the line lies in a locked way, poisoned or not as a whole; one that
is uncorrectable reads poisoned until it is written (R215). -/
def scratchAccess (s : State) (q : Acc) (line : Nat) (op : LineOp) : State × Got :=
  let a := lineAddr line
  let sl := scrSlice a
  let w := ((s.slice sl).locked[scrGroup a]?).getD 0
  let (s, m, fails) := wayFinds s sl w (scrSet a) a (if op = .zero then .ok else eccOf q.ecc a)
  let ln : CLine := { line := line, pasid := 0, dirty := false, psn := psnAny s.psn a 256 || decide (m ≠ 0), keep := false
                      cls := q.cls, part := q.part, key := q.key, data := memRead s.mem a 256 }
  let (l2, g) := op.apply ln
  let s := if op.isRead then (if m = 255 then { s with psn := psnSet s.psn a 256 true } else s)
    else { s with mem := memWrite s.mem a 256 l2.data, psn := psnSet s.psn a 256 l2.psn }
  let s := regCount s sl q.part q.cls op.bytes
  (if fails then wayFails s sl w (scrSet a) else s, g)

/-- A request to the near tier; a write is accepted or waits (R156). -/
def nearAccess (s : State) (q : Acc) (line : Nat) (op : LineOp) : State × Got :=
  let a := lineAddr line
  match op.writes with
  | some (m, d, p) =>
    match nearWrite s q a d m p with
    | some s => (s, .ok 0 0 0)
    | none => (s, .wait)
  | none =>
    match op with
    | .read off n =>
      let (s, d, p) := nearFetch s q a
      (s, .ok (d / 2 ^ (8 * off) % 2 ^ (8 * n)) p 0)
    | _ => (s, .err .invalid)

/-- A register-view read (R152). -/
def viewRead (s : State) (a : Nat) : Nat → Nat
  | 0 => 0
  | n + 1 => regRead32 s (a - regBase) + 2 ^ 32 * viewRead s (a + 4) n

/-- Register-view writes go to the registers as BAR0 writes of PF0, one per 32-bit word (R152). -/
def viewWrites (a data mask : Nat) : Nat → List Instr
  | 0 => []
  | n + 1 =>
    viewWrites a data mask n ++
      (if mask / 2 ^ (4 * n) % 16 = 15 then
        [Instr.registerWrite 17 (a - regBase + 4 * n) 32 (BitVec.ofNat 64 (data / 2 ^ (32 * n) % 2 ^ 32))] else [])

/-- A request to the register view. -/
def regAccess (s : State) (line : Nat) (op : LineOp) : State × Got :=
  let a := lineAddr line
  match op.writes with
  | some (m, d, _) => ({ s with pending := viewWrites a d m 64 ++ s.pending }, .ok 0 0 0)
  | none =>
    match op with
    | .read off n =>
      if n = 4 then
        let (s, x) := regRead1 s (a + off - regBase)
        (s, .ok x 0 0)
      else (s, .ok (viewRead s (a + off) (n / 4)) 0 0)
    | _ => (s, .err .invalid)

/-- A request to a remote position goes there as a service packet (R273). -/
def remoteAccess (s : State) (q : Acc) (line : Nat) (op : LineOp) : State × Got :=
  askRemote s (q.node + 1024 * selfPos s) (1024 * (remSplit (lineAddr line)).1) q line op

/-- Power domains that a request to an address reaches before any miss (Table 13-1). -/
def addrDomains (a : Nat) : List Nat :=
  match rangeOf a with
  | .near => [domainOf (a / 2 ^ 28), 68 + nearChan a / 256]
  | .cmem => [domainOf ((a - cmBase) / 0x400000)]
  | .far | .host => [72 + sliceOf (a / 256) / 4]
  | .scratch => [72 + scrSlice a / 4]
  | _ => []

/-- R348: a request wakes a domain in IDLE, and a compute domain in OFF with auto set. -/
def wakeDomains (s : State) (ds : List Nat) : State :=
  s.emit ((ds.filter fun d => decide (rf s (fPwrDomctl_state d) = 1) ||
    (decide (rf s (fPwrDomctl_state d) = 2) && rb s (fPwrDomctl_auto d))).map fun d => .domainWake d)

/-- The DEVTIME of the last demand of domains that may enter IDLE by themselves (R347). -/
def useDomains (s : State) (ds : List Nat) : State :=
  ds.foldl (fun s d =>
    if rb s (fPwrDomctl_auto d) then { s with pwr := { s.pwr with used := tset s.pwr.used d s.devtime.toNat } } else s) s

/-- R387, R388: whether the unit that serves an address is being reset by RESET_UNIT. -/
def resetting (s : State) (a : Nat) : Bool :=
  let cl (n : Nat) : Bool := s.rjobs.any fun j =>
    decide (j.kind = 1 ∧ j.idx = n) || (decide (j.kind = 2) && decide (partOfCluster s n = some j.idx))
  let seg (n : Nat) : Bool := s.rjobs.any fun j => decide (j.kind = 4 ∧ j.idx = n / 4)
  match rangeOf a with
  | .cmem => cl ((a - cmBase) / 0x400000)
  | .far | .host => seg (sliceOf (a / 256))
  | .scratch => seg (scrSlice a)
  | _ => false

/-- R214, R215, R348, R387, Table 11-13: requests to what is changing, asleep or being reset wait. -/
def changing (s : State) (a : Nat) : Bool :=
  (addrDomains a).any (fun d => decide (rf s (fPwrDomctl_state d) ≠ 0)) || resetting s a ||
  match rangeOf a with
  | .far => rb s (fSecFtgrant_busy ((a - farBase) / 2 ^ 30))
  | .scratch => rb s (fSbfScrgrant_zeroing (scrBlock a)) ||
      (rb s fSbfScr_busy && decide (min s.scrOld (rf s fSbfScr_ways) ≤ scrGroup a))
  | _ => false

/-- A request for bytes of one line, served to its end: checks, then the unit that holds the line. wait: nothing has been
done, and the request is to be made again. An error leaves its record. -/
def access (s : State) (q : Acc) (a0 n : Nat) (op : LineOp) : State × Got :=
  let a := resolve s a0
  let line := a / 256
  match checkReq s q a n op.isAtomic with
  | some st => (reqFault s q a st, .err st)
  | none =>
    if changing s a then (wakeDomains s (addrDomains a), .wait)
    else
      let s := useDomains s (addrDomains a)
      let r : State × Got :=
        match rangeOf a with
        | .near => nearAccess s q line op
        | .far | .host => sliceAccess s q line op
        | .scratch => scratchAccess s q line op
        | .cmem => cmemAccess s q line op
        | .regs => regAccess s line op
        | .remote => remoteAccess s q line op
        | .reserved => (s, .err .accessViolation)
      match r.2 with
      | .err st => (reqFault r.1 q a st, .err st)
      | _ => r

/-- n bytes read within a line. -/
def readBytes (s : State) (q : Acc) (a n : Nat) : State × Got := access s { q with op := 1 } a n (.read (a % 256) n)

/-- n bytes written within a line, with piece marks; an incomplete flit is written under a mask (Table 5-10). -/
def writeBytes (s : State) (q : Acc) (a n data psn : Nat) : State × Got :=
  access s { q with op := if a % 32 = 0 ∧ n % 32 = 0 then 2 else 3 } a n (.write (a % 256) n data psn)

/-- ZERO_LINE. -/
def zeroLine (s : State) (q : Acc) (a : Nat) : State × Got := access s { q with op := 5 } a 256 .zero

/-- Pieces of a range, each within one line: address and length. -/
def linePieces : Nat → Nat → Nat → List (Nat × Nat)
  | 0, _, _ => []
  | _ + 1, _, 0 => []
  | k + 1, a, n =>
    let m := min n (256 - a % 256)
    (a, m) :: linePieces k (a + m) (n - m)

def piecesFrom (a n : Nat) : List (Nat × Nat) := linePieces (n / 256 + 2) a n

/-- A range read piece by piece: bytes with the poison mark of each, or the first refusal with its address. -/
def readRange (s : State) (q : Acc) : List (Nat × Nat) → State × List (Byte × Bool) × Option (Got × Nat)
  | [] => (s, [], none)
  | (a, n) :: r =>
    match readBytes s q a n with
    | (s, .ok d p _) =>
      let here := (List.range n).map fun i =>
        (BitVec.ofNat 8 (d / 2 ^ (8 * i)), p / 2 ^ ((a % 256 + i) / 32) % 2 == 1)
      let (s, l, e) := readRange s q r
      (s, here ++ l, e)
    | (s, g) => (s, [], some (g, a))

/-- Piece marks of a line write from byte marks. -/
def markPieces (off : Nat) (xs : List (Byte × Bool)) : Nat :=
  (List.range 8).foldl (fun m i =>
    if (((xs.drop (32 * i - off)).take (if off ≤ 32 * i then 32 else 32 * i + 32 - off)).any (·.2))
      && decide (off < 32 * i + 32) then m + 2 ^ i else m) 0

end Sys2Proof.Machine
end

