-- ==== Sys2Proof/Machine/Service.lean ====
section
/-! DEFINITION. Service requests and responses as commands (R140 to R144, R199 to R211, R320): the serving unit answers,
a slice's miss is filled sector by sector, and responses reach their requesters. -/
namespace Sys2Proof.Machine

/-! Packets. -/

/-- VC of a packet by its operation (Table 5-10); packets of another operation are commands between processors (log entry 35). -/
def opVc (op : Nat) : Nat := if op = 0x30 then 2 else if 0x20 ≤ op ∧ op < 0x40 then 1 else 0

/-- Operations of Table 5-10 with the data flits that each may have, from and to. -/
def opFlits : List (Nat × Nat × Nat) :=
  [(0x01, 0, 0), (0x02, 1, 8), (0x03, 1, 1), (0x04, 1, 8), (0x05, 0, 0), (0x20, 1, 8), (0x21, 0, 0), (0x22, 0, 0), (0x3F, 0, 0), (0x30, 0, 0)]

/-- The header flit of a packet (Table 5-9). -/
def headerWord (x : Pkt) : BitVec 256 :=
  let r := x.rq
  BitVec.ofNat 256 (r.imm.toNat + 2 ^ 113 * (r.addr % 2 ^ 48) + 2 ^ 161 * (r.tag % 2 ^ 16) + 2 ^ 177 * (x.dst % 2 ^ 16) +
    2 ^ 193 * (r.src % 2 ^ 16) + 2 ^ 209 * (r.pasid % 2 ^ 20) + 2 ^ 229 * (r.key % 64) + 2 ^ 235 * (r.part % 16) +
    2 ^ 239 * (r.cls % 8) + 2 ^ 242 * (r.hint % 4) + 2 ^ 244 * (x.fl.n % 16) + 2 ^ 248 * opVc x.op + 2 ^ 250 * (x.op % 64))

/-- A packet read from its header flit, with the data that follows it: none for an operation, a number of flits or a VC that Table 5-10
does not have, a reserved node, or a reserved bit that is set (Table 5-9). -/
def headerPkt (h : BitVec 256) (data : BitVec 2048) (psn : BitVec 8) (chk : BitVec 16) : Option Pkt :=
  let f (lo w : Nat) : Nat := bits h.toNat lo w
  let op := f 250 6
  match opFlits.find? fun e => decide (e.1 = op) with
  | none => none
  | some (_, lo, hi) =>
    if f 248 2 ≠ opVc op ∨ f 244 4 < lo ∨ hi < f 244 4 ∨ f 64 49 ≠ 0 ∨ nodeKnown (f 193 16) = false ∨ nodeKnown (f 177 16) = false then none
    else some { op := op, dst := f 177 16, fl := ⟨f 244 4, data, psn, chk⟩
                rq := ⟨f 193 16, f 161 16, f 113 48, f 242 2, f 239 3, f 235 4, f 229 6, f 209 20, BitVec.ofNat 64 (f 0 64)⟩ }

/-- R320: a receiving unit checks every flit that is not marked: a mismatch marks it, leaves a LINE_CHECK record and
counts against the unit that sent it. The answer is the marks. -/
def checkFlits (s : State) (sender checker a : Nat) (fl : Flits) : State × Nat :=
  (List.range (min fl.n 8)).foldl (fun (r : State × Nat) i =>
    if fl.psn.getLsbD i then (r.1, r.2 + 2 ^ i)
    else if pieceCheck (BitVec.ofNat 256 (fl.data.toNat / 2 ^ (256 * i))) = BitVec.ofNat 2 (fl.chk.toNat / 4 ^ i) then r
    else (errEvent r.1 .lineCheck .checkMismatch sender a (checker + (a / 32 + i) % 8 * 65536) 0, r.2 + 2 ^ i)) (s, 0)

/-- A response sent to its requester: on this device as a command, to another by the route to its position. -/
def sendRsp (s : State) (src : Nat) (rq : Req) (op imm off n : Nat) (last : Bool) (fl : Flits) : State :=
  if nodePos rq.src = selfPos s then
    s.emit [match op with
      | 0x20 => .readData src rq.src rq.tag off n last fl
      | 0x21 => .writeAck rq.src rq.tag
      | 0x22 => .atomicResult rq.src rq.tag (BitVec.ofNat 64 imm)
      | _ => .errorResponse rq.src rq.tag rq.addr imm]
  else
    match routePort s (nodePos rq.src) with
    | some p =>
      let im := if op = 0x20 then off + (if last then 256 else 0) + 65536 * n else imm
      linkSend s p { op := op, rq := { rq with src := src, cls := 7, imm := BitVec.ofNat 64 im }, dst := rq.src, fl := fl }
    | none => s

/-- The answer to a request of one line. -/
def respond (s : State) (src : Nat) (rq : Req) (op : LineOp) (g : Got) : State :=
  match g with
  | .wait => s
  | .err st => sendRsp s src rq 0x3F st.code 0 0 true noFlits
  | .ok d p r =>
    match op with
    | .read off n => sendRsp s src rq 0x20 0 off n true (flitsOf off n d p)
    | .atomic _ _ _ _ _ _ => sendRsp s src rq 0x22 r 0 0 true noFlits
    | .lineAdd _ _ _ => sendRsp s src rq 0x22 0 0 0 true noFlits
    | _ => sendRsp s src rq 0x21 0 0 0 true noFlits

/-- Node of the unit that serves an address. -/
def servingNode (s : State) (a : Nat) : Nat :=
  1024 * selfPos s +
    match rangeOf a with
    | .near => a / 2 ^ 28
    | .cmem => (a - cmBase) / 0x400000
    | .far | .host => 0x200 + sliceOf (a / 256)
    | .scratch => 0x200 + scrSlice a
    | _ => nodeCp

def accOf (s : State) (rq : Req) (op : Nat) (ecc : Eccs) : Acc :=
  { node := if nodePos rq.src = selfPos s then rq.src % 1024 else rq.src
    foreign := decide (nodePos rq.src ≠ selfPos s)
    part := rq.part, key := rq.key, pasid := rq.pasid, cls := rq.cls, hint := rq.hint, op := op, ecc := ecc }

/-- The node number of a requester. -/
def srcNode (s : State) (q : Acc) : Nat := if q.foreign then q.node else q.node + 1024 * selfPos s

/-- The request of which a waiter is a part, with its address from byte off of the line. -/
def waiterReq (s : State) (w : Waiter) (line off : Nat) : Req :=
  ⟨srcNode s w.acc, w.tag, lineAddr line + off, w.acc.hint, w.acc.cls, w.acc.part, w.acc.key, w.acc.pasid, 0⟩

/-- Sectors that bytes off to off + n - 1 cover. -/
def sectorsIn (off n : Nat) : List Nat := (List.range 4).filter fun k => decide (off < 64 * k + 64 ∧ 64 * k < off + n)

/-- One sector sent to a read: its bytes, last when no other of its sectors is still to come; got are those received with it (R201). -/
def sendSector (s : State) (node : Nat) (w : Waiter) (line data : Nat) (psn : Bool) (got : List Nat) (k : Nat) : State :=
  match w.op with
  | .read off n =>
    if (sectorsIn off n).contains k then
      let lo := max off (64 * k)
      let hi := min (off + n) (64 * k + 64)
      let last := (sectorsIn off n).all fun j => got.contains j
      sendRsp s node (waiterReq s w line off) 0x20 0 lo (hi - lo) last
        (flitsOf lo (hi - lo) (data / 2 ^ (8 * lo) % 2 ^ (8 * (hi - lo))) (if psn then 255 else 0))
    else s
  | _ => s

/-- The sectors received, sent to a read in the order of their arrival. -/
def sendSectors (s : State) (node : Nat) (w : Waiter) (line data : Nat) (psn : Bool) (got : List Nat) : State :=
  got.zipIdx.foldl (fun s k => sendSector s node w line data psn (got.take (k.2 + 1)) k.1) s

/-- R320, Table 5-10: answer to a waiter of a miss, where it has not been answered. -/
def answerWaiter (s : State) (sl : Nat) (w : Waiter) (line : Nat) (g : Got) : State :=
  if w.acked then s
  else if w.held then
    let x := s.slice sl
    s.setSlice sl { x with ready := x.ready ++ [(w.acc, line, w.op, g)] }
  else respond s (0x200 + sl + 1024 * selfPos s) (waiterReq s w line w.op.first) w.op g

/-- An entry is free again: a request of the admission pool may take it. -/
def dropMiss (s : State) (sl line pas : Nat) : State :=
  let x := s.slice sl
  grants (s.setSlice sl { x with miss := x.miss.filter fun y =>
    !(decide (y.line = line) && decide (tagPasid (lineAddr line) y.acc.pasid = pas)) }) sl 1

/-- R200, R202, R207: a request for a line that must be fetched takes an entry, or joins the one there is, unless that ends with a whey
read; a write completes as the entry takes its data. With 512 entries taken the request waits in the admission pool. -/
def missRequest (s : State) (sl : Nat) (cmd : Instr) (q : Acc) (tag line : Nat) (op : LineOp) : State :=
  let x := s.slice sl
  let node := 0x200 + sl + 1024 * selfPos s
  let w : Waiter := { acc := q, tag := tag, op := op, early := op.isRead, acked := op.posted }
  let ack (s : State) : State :=
    if op.posted then respond (regCount s sl q.part q.cls op.bytes) node (waiterReq s w line op.first) op (.ok 0 0 0) else s
  match x.missOf line (tagPasid (lineAddr line) q.pasid) with
  | some m =>
    if m.acc.part ≠ q.part ∨ m.acc.key ≠ q.key then
      respond s node (waiterReq s w line op.first) op (.err .accessViolation)
    else if m.ends then { s with waiting := s.waiting ++ [cmd] }
    else
      let w := { w with early := op.isRead && m.waiters.all (·.early) }
      let (s, m) := joinMiss s sl m w
      ack (if w.early then sendSectors s node w line m.data m.psn m.got else s)
  | none =>
    if 512 ≤ x.miss.length then
      letIn s sl { cmd := cmd, part := q.part, cls := q.cls, bytes := op.bytes, flits := 1 + (if op.isRead then 0 else (op.bytes + 31) / 32) }
    else ack (openMiss s sl line w)

/-- R285: a member's host-window line request at the master's host port. -/
def hostServe (s : State) (cmd : Instr) (rq : Req) (q : Acc) (a : Nat) (op : LineOp) : State :=
  let node := 0x238 + 1024 * selfPos s
  match op.writes with
  | some (m, d, p) =>
    match translateOne s q.pasid (a - hostBase) true with
    | (s, .hit) => respond (hostWriteLine s q.pasid (a / 256 * 256 - hostBase) d m p) node rq op (.ok 0 0 0)
    | (s, .fault) => respond s node rq op (.err .translationFault)
    | (s, _) => { s with waiting := s.waiting ++ [cmd] }
  | none =>
    match op with
    | .read off n =>
      (match translateOne s q.pasid (a - hostBase) false with
       | (s, .hit) =>
         respond s node rq op (.ok (hostRead s q.pasid (a / 256 * 256 - hostBase + off) n).1
           (hostPieces s q.pasid (a / 256 * 256 - hostBase)) 0)
       | (s, .fault) => respond s node rq op (.err .translationFault)
       | (s, _) => { s with waiting := s.waiting ++ [cmd] })
    | _ => respond s node rq op (.err .invalid)

/-- A line request served: checks, waits, then the serving unit; a slice's miss is left in its miss table. cmd is the
command itself, made again when what it waits for has ended. -/
def serve (s : State) (cmd : Instr) (rq : Req) (q : Acc) (a n : Nat) (op : LineOp) : State :=
  let node := servingNode s a
  match checkReq s q a n op.isAtomic with
  | some st => respond (reqFault s q a st) node rq op (.err st)
  | none =>
    if changing s a then wakeDomains { s with waiting := s.waiting ++ [cmd] } (addrDomains a)
    else if rangeOf a = .far ∨ rangeOf a = .host then
      let sl := sliceOf (a / 256)
      match lookSlice s sl q (a / 256) op with
      | (s, .done .wait) => { s with waiting := s.waiting ++ [cmd] }
      | (s, .done (.err st)) => respond (reqFault s q a st) node rq op (.err st)
      | (s, .done g) => respond s node rq op g
      | (s, _) => missRequest s sl cmd q rq.tag (a / 256) op
    else
      match access s q a n op with
      | (s, .wait) => { s with waiting := s.waiting ++ [cmd] }
      | (s, g) => respond s node rq op g

/-- A request that arrives at this device or passes on to another (R273): checks at the sending port, then its queue. -/
def arrive (s : State) (cmd : Instr) (opc : Nat) (rq : Req) (fl : Flits) (ecc : Eccs) (n : Nat) (op : LineOp) : State :=
  let a := resolve s rq.addr
  let q := accOf s rq opc ecc
  if rangeOf a = .remote then
    match checkReq s q a n op.isAtomic with
    | some st => respond (reqFault s q a st) nodeCp rq op (.err st)
    | none =>
      match routePort s (remSplit a).1 with
      | none => respond (reqFault s q a .linkDown) nodeCp rq op (.err .linkDown)
      | some p =>
        let s := linkSend s p { op := opc, rq := { rq with cls := 7 }, dst := 1024 * (remSplit a).1, fl := fl }
        { s with outReqs := s.outReqs ++ [⟨rq.src, rq.tag, rq.addr, p, s.devtime.toNat⟩] }
  else if rangeOf a = .host ∧ nodePos rq.src ≠ selfPos s then hostServe s cmd rq q a op
  else serve s cmd rq q a n op

/-- READ (R199, Table 5-10). -/
def execRead (rq : Req) (ecc : Eccs) (s : State) : Host.Outcome State Fault Refusal :=
  let n := bits rq.imm.toNat 0 8 + 1
  .next (arrive s (.read rq ecc) 1 rq noFlits ecc n (.read (rq.addr % 256) n))

/-- Byte marks of flits. -/
def flitBytes (n data marks : Nat) : List (Byte × Bool) :=
  (List.range n).map fun i => (BitVec.ofNat 8 (data / 2 ^ (8 * i)), marks / 2 ^ (i / 32) % 2 == 1)

/-- WRITE of whole data flits (R202, R208, R320). -/
def execWrite (rq : Req) (fl : Flits) (ecc : Eccs) (s : State) : Host.Outcome State Fault Refusal :=
  let n := 32 * min fl.n 8
  let (s, m) := checkFlits s (unitOfNode rq.src) (servingUnit s (resolve s rq.addr)) rq.addr fl
  let d := fl.data.toNat % 2 ^ (8 * n)
  let fl2 := { fl with psn := BitVec.ofNat 8 m }
  .next (arrive s (.write rq fl2 ecc) 2 rq fl2 ecc n
    (.write (rq.addr % 256) n d (markPieces (rq.addr % 256) (flitBytes n d m))))

/-- WRITE_MASKED of one flit: imm bit i is byte i of the piece. To the register view it writes each word that the mask names whole
(R152). -/
def execWriteMasked (rq : Req) (fl : Flits) (ecc : Eccs) (s : State) : Host.Outcome State Fault Refusal :=
  let words := rangeOf (resolve s rq.addr) = .regs ∧ (List.range 8).all (fun i =>
    decide (bits rq.imm.toNat (4 * i) 4 = 0 ∨ bits rq.imm.toNat (4 * i) 4 = 15)) = true
  let rq := if words then { rq with addr := rq.addr / 32 * 32 } else rq
  let o := rq.addr % 256 / 32 * 32
  let (s, m) := checkFlits s (unitOfNode rq.src) (servingUnit s (resolve s rq.addr)) rq.addr { fl with n := min fl.n 1 }
  let k := bits rq.imm.toNat 0 32
  let fl2 := { fl with psn := BitVec.ofNat 8 m }
  .next (arrive s (.writeMasked rq fl2 ecc) 3 rq fl2 ecc (if words then 4 else 1)
    (.masked (k * 2 ^ o) (fl.data.toNat % 2 ^ 256 * 2 ^ (8 * o)) (if m = 0 then 0 else 2 ^ (o / 32))))

/-- ZERO_LINE (R208). -/
def execZeroLine (rq : Req) (ecc : Eccs) (s : State) : Host.Outcome State Fault Refusal :=
  .next (arrive s (.zeroLine rq ecc) 5 { rq with addr := lineBase rq.addr } noFlits ecc 256 .zero)

/-- An ATOMIC request of operation o (R209 to R211): its type in imm bits 7:4, its operands in the first flit. A
combination Table 8-3 does not have, or an address not aligned to the element, ends INVALID. -/
def atomicReq (s : State) (cmd : Instr) (rq : Req) (fl : Flits) (ecc : Eccs) (o : Nat) : State :=
  let ty := bits rq.imm.toNat 4 4
  let (s, m) := checkFlits s (unitOfNode rq.src) (servingUnit s (resolve s rq.addr)) rq.addr fl
  let a := resolve s rq.addr
  let n := if o = 6 then 256 else atomicBytes ty
  let op : LineOp := if o = 6 then .lineAdd ty fl.data.toNat (decide (m ≠ 0))
    else .atomic o ty (a % 256) (bits fl.data.toNat 0 64) (bits fl.data.toNat 64 64) (decide (m ≠ 0))
  if rangeOf a ≠ .remote && (checkReq s (accOf s rq 4 ecc) a 1 true).isNone &&
      (!atomicAllowed o ty || decide (a % n ≠ 0) || decide (fl.n ≠ (if o = 6 then 8 else 1))) then
    respond (reqFault s (accOf s rq 4 ecc) a .invalid) (servingNode s a) rq op (.err .invalid)
  else arrive s cmd 4 rq { fl with psn := BitVec.ofNat 8 m } ecc n op

def execAtomicAdd (rq : Req) (fl : Flits) (ecc : Eccs) (s : State) : Host.Outcome State Fault Refusal :=
  .next (atomicReq s (.atomicAdd rq fl ecc) rq fl ecc 1)
def execAtomicMin (rq : Req) (fl : Flits) (ecc : Eccs) (s : State) : Host.Outcome State Fault Refusal :=
  .next (atomicReq s (.atomicMin rq fl ecc) rq fl ecc 2)
def execAtomicMax (rq : Req) (fl : Flits) (ecc : Eccs) (s : State) : Host.Outcome State Fault Refusal :=
  .next (atomicReq s (.atomicMax rq fl ecc) rq fl ecc 3)
def execAtomicSwap (rq : Req) (fl : Flits) (ecc : Eccs) (s : State) : Host.Outcome State Fault Refusal :=
  .next (atomicReq s (.atomicSwap rq fl ecc) rq fl ecc 4)
def execAtomicCas (rq : Req) (fl : Flits) (ecc : Eccs) (s : State) : Host.Outcome State Fault Refusal :=
  .next (atomicReq s (.atomicCas rq fl ecc) rq fl ecc 5)
def execLineadd (rq : Req) (fl : Flits) (ecc : Eccs) (s : State) : Host.Outcome State Fault Refusal :=
  .next (atomicReq s (.lineadd rq fl ecc) rq fl ecc 6)

/-! Prefetch (R204, R205). -/

/-- A prefetch of a line: nothing more when the slice has or awaits the line, serves without its tags, or has no entry. -/
def prefetchLine (s : State) (q : Acc) (line : Nat) : State :=
  let sl := sliceOf line
  let x := s.slice sl
  let pas := tagPasid (lineAddr line) q.pasid
  if uncached s sl || (x.missOf line pas).isSome || decide (x.find line pas ≠ .absent) || decide (512 ≤ x.miss.length) then s
  else
    let used := x.side.length + (x.miss.filter (·.side)).length
    let oldest := x.side.foldl (fun (o : Option SideLine) y =>
      match o with | none => some y | some z => if y.no < z.no then some y else some z) none
    let room : Option (List SideLine) :=
      if used < 128 then some x.side
      else oldest.map fun o => x.side.filter fun y => decide (y.no ≠ o.no)
    match room with
    | none => s
    | some sd =>
      let m : Miss := { line := line, acc := q, side := true, no := x.next }
      (s.setSlice sl { x with side := sd, miss := x.miss ++ [m], next := x.next + 1 }).emit
        ((sectorOrder 0).map fun k => .missSectorArrival sl line pas k [])

/-- A READ with imm bit 8 set and len 0: answered with WRITE_ACK (R204); outside the slices' ranges it has no line to
bring and nothing more happens (log entry 24). -/
def execSbPrefetch (rq : Req) (s : State) : Host.Outcome State Fault Refusal :=
  let a := resolve s rq.addr
  let q := accOf s rq 1 []
  .next (match checkReq s q a 1 false with
    | some st => respond (reqFault s q a st) (servingNode s a) rq (.read 0 1) (.err st)
    | none =>
      let s := if rangeOf a = .far ∨ rangeOf a = .host then prefetchLine s q (a / 256) else s
      sendRsp s (servingNode s a) rq 0x21 0 0 0 true noFlits)

/-! Arrival of a missed line (R200 to R205). -/

/-- Waiters that are not early reads act on the line in order, each read with one packet for each sector it covers (R201). -/
def lateWaiters (s : State) (sl line : Nat) (got : List Nat) : List Waiter → CLine → State × CLine
  | [], ln => (s, ln)
  | w :: r, ln =>
    if w.early then lateWaiters s sl line got r ln
    else
      let (l2, g) := w.op.apply ln
      let s := if w.acked then s else regCount s sl w.acc.part w.acc.cls w.op.bytes
      let s := if w.op.isRead && !w.held then sendSectors s (0x200 + sl + 1024 * selfPos s) w line ln.data ln.psn got else answerWaiter s sl w line g
      lateWaiters s sl line got r l2

/-- Maintenance operations that passed the line's set meanwhile, in their order (R216): the state, and the line unless it goes. A dirty
line of CLEAN_INV whose writeback waits is on its way out; one of FLUSH is left to the operation. -/
def treatFill (s : State) (sl : Nat) : List Nat → CLine → State × Option CLine
  | [], ln => (s, some ln)
  | t :: r, ln =>
    if t = 1 || t = 4 then (s, none)
    else if !ln.dirty then (if t = 3 then (s, none) else treatFill s sl r ln)
    else if t = 3 then (sendOut s sl ln, none)
    else
      match writeBack s [] ln with
      | (s, .ok _ _ _) => treatFill s sl r { ln with dirty := false }
      | (s, .wait) =>
        treatFill { s with walk := s.walk.map fun w => ({ w.1 with left := w.1.left ++ [(sl, ln.line, ln.pasid)] }, w.2) } sl r ln
      | (s, .err _) => treatFill s sl r ln

/-- R206, R207: where the line goes after the requests of its entry, in their order. -/
def Miss.place (m : Miss) : Nat :=
  match m.waiters.map fun w => effHint w.acc w.op with
  | [] => 0
  | h :: r => r.foldl placeAfter h

/-- The whole line is there. It is placed as the hints of its requests say, a prefetch in the side buffer; where there is no room for it
yet, the fill waits as the command again (R197, R203). -/
def fillMiss (s : State) (sl : Nat) (m : Miss) (again : Instr) : State :=
  let ln := freshLine m.acc m.line m.data m.psn false
  match (if m.side then (s, true) else placeBy s sl m.place ln) with
  | (t, false) => { t with waiting := t.waiting ++ [again] }
  | _ =>
    let s := dropMiss s sl m.line (tagPasid (lineAddr m.line) m.acc.pasid)
    let (s, ln) := lateWaiters s sl m.line m.got m.waiters ln
    let s := m.waiters.foldl (fun s w => if w.early then regCount s sl w.acc.part w.acc.cls w.op.bytes else s) s
    let s := match treatFill s sl m.treat ln with
      | (s, none) => s
      | (s, some ln) =>
        if m.side then
          let x := s.slice sl
          s.setSlice sl { x with side := x.side ++ [⟨m.no, s.devtime.toNat, ln⟩] }
        else (placeBy s sl m.place ln).1
    wake s

/-- A line that waits for its controller's domain takes an entry of the controller's admission pool (R229, R348), one that waits for a
translation waits before the host port. -/
def lineWait (s : State) (m : Miss) (again : Instr) : State :=
  let a := lineAddr m.line
  if rangeOf a = .far then
    letIn s (32 + farPc a / 64) { cmd := again, part := m.acc.part, cls := m.acc.cls, bytes := 256, flits := 1, pre := m.side }
  else { s with waiting := s.waiting ++ [again] }

/-- A sector of a missed line arrives (R201). The first brings the line's bytes from the far tier or the host. -/
def execMissSectorArrival (sl line pasid sector : Nat) (ecc : Eccs) (s : State) : Host.Outcome State Fault Refusal :=
  let again : Instr := .missSectorArrival sl line pasid sector ecc
  .next (match (s.slice sl).missOf line pasid with
    | none => s
    | some m =>
      if m.got.contains sector then (if m.got.length = 4 then fillMiss s sl m again else s)
      else
        let r : State × Got := if m.got.isEmpty then fetchLine s { m.acc with ecc := ecc } line
          else (s, .ok m.data (if m.psn then 255 else 0) 0)
        match r with
        | (s, .wait) => lineWait s m again
        | (s, .err st) =>
          let s := dropMiss s sl line pasid
          wake (m.waiters.foldl (fun s w =>
            answerWaiter (if w.held && !w.acked then s else reqFault s w.acc (lineAddr line) st) sl w line (.err st)) s)
        | (s, .ok d p _) =>
          let m := { m with data := d, psn := decide (p ≠ 0), got := m.got ++ [sector] }
          let s := putMiss s sl m
          let s := m.waiters.foldl (fun s w => if w.early then sendSector s (0x200 + sl + 1024 * selfPos s) w line m.data m.psn m.got sector else s) s
          if m.got.length = 4 then fillMiss s sl m again else s)

/-- R203, R214, R219: a dirty line leaves the victim cache, or is gone from a way, once its writeback has been accepted. A line that has
left its way and is refused is lost, with a record (log entry 87). -/
def execWritebackAccepted (sl line pasid : Nat) (ecc : Eccs) (s : State) : Host.Outcome State Fault Refusal :=
  let again : Instr := .writebackAccepted sl line pasid ecc
  let x := s.slice sl
  .next (match x.victim.find? fun v => v.wb && v.ln.is line pasid with
    | some v =>
      (match writeBack s ecc v.ln with
       | (s, .ok _ _ _) => wake (s.setSlice sl { s.slice sl with victim := (s.slice sl).victim.erase v })
       | (s, .wait) => { s with waiting := s.waiting ++ [again] }
       | (s, .err _) => s.setSlice sl { s.slice sl with victim := (s.slice sl).victim.map fun y =>
           if y = v then { y with wb := false } else y })
    | none =>
      match x.out.find? fun ln => ln.is line pasid with
      | none => s
      | some ln =>
        let gone (s : State) : State := wake (s.setSlice sl { s.slice sl with out := (s.slice sl).out.erase ln })
        match writeBack s ecc ln with
        | (s, .ok _ _ _) => gone s
        | (s, .wait) => { s with waiting := s.waiting ++ [again] }
        | (s, .err st) => gone (errNote s .fault st (unitSlice sl) (lineAddr line) 2 (0x200 + sl) (some ln.part)))

/-- R205: a side-buffer line that no demand request has used within pfage µs of its arrival is dropped. -/
def execSideBufferExpiry (sl line pasid : Nat) (s : State) : Host.Outcome State Fault Refusal :=
  let x := s.slice sl
  .next (s.setSlice sl { x with side := x.side.filter fun y =>
    !(y.ln.is line pasid && decide (y.came + rf s fSbfCfg_pfage * 1000 ≤ s.devtime.toNat)) })

/-! Responses. -/

def noteRsp (s : State) (dst tag : Nat) (f : Rsp → Rsp) : State :=
  { s with rsp := tset s.rsp (rspKey dst tag) (f (tget {} s.rsp (rspKey dst tag)))
           outReqs := s.outReqs.filter fun o => !(decide (o.src = dst) && decide (o.tag = tag)) }

/-- READ_DATA: the requester checks the flits and takes the bytes; the last packet completes the request (R201). -/
def execReadData (src dst tag off n : Nat) (last : Bool) (fl : Flits) (s : State) : Host.Outcome State Fault Refusal :=
  let (s, m) := checkFlits s (unitOfNode src) (unitOfNode dst) off fl
  .next (noteRsp s dst tag fun r =>
    { r with parts := r.parts ++ [(off, n, fl.data.toNat % 2 ^ (8 * n), m)], done := r.done || last })

/-- WRITE_ACK. -/
def execWriteAck (dst tag : Nat) (s : State) : Host.Outcome State Fault Refusal :=
  .next (noteRsp s dst tag fun r => { r with done := true })

/-- ATOMIC_RESULT: the value before the operation (R209). -/
def execAtomicResult (dst tag : Nat) (imm : BitVec 64) (s : State) : Host.Outcome State Fault Refusal :=
  .next (noteRsp s dst tag fun r => { r with done := true, imm := imm.toNat })

/-- R284: an entry that a device on its way to its member has turned back ends LINK_DOWN. -/
def turnedBack (s : State) (q tag : Nat) (st : Status) : State :=
  if rf s (fLnkQfwd_target q) = 0 then s
  else
    match (s.queue q).entries.find? fun e => decide (e.seq % 65536 = tag) && e.reply.isNone with
    | some e => finish s q e.seq st 0 0
    | none => s

/-- ERROR_RESPONSE: the request completes in error. At a copy engine no further request of its command is issued (R409);
at a cluster DMA the descriptor whose tag it is ends in error (R110, R175). -/
def execErrorResponse (dst tag addr code : Nat) (s : State) : Host.Outcome State Fault Refusal :=
  let st := Status.ofCode code
  let mine := asksFor s dst tag
  let s := noteRsp s dst tag fun r => { r with done := true, status := st }
  let l := dst % 1024
  .next (if dst = nodeCp ∧ selfPos s = 0 ∧ addr < 64 then turnedBack s addr tag st
    else if mine then s else if 0x228 ≤ l ∧ l < 0x238 then
      let g := s.engine (l - 0x228)
      if g.busy && g.fail.isNone then s.setEngine (l - 0x228) { g with fail := some (st, addr) } else s
    else if l < 0x200 then
      let x := s.dma l
      s.setDma l { x with active := x.active.map fun d =>
        if d.id = tag ∧ d.done = none then { d with done := some st } else d }
    else s)

/-- CONTROL: the packet enters the endpoint's 4-entry queue; while that is full it waits (R144). -/
def execControl (src dst : Nat) (imm : BitVec 64) (s : State) : Host.Outcome State Fault Refusal :=
  .next (if (tget [] s.ctlq dst).length < 4 then { s with ctlq := tset s.ctlq dst (tget [] s.ctlq dst ++ [imm]) }
    else { s with waiting := s.waiting ++ [.control src dst imm] })

end Sys2Proof.Machine
end

