-- ==== Sys2Proof/Machine/SliceOps.lean ====
section
/-! DEFINITION. Operations on the shared buffer as a whole: maintenance walks, scratch ways and grants, way disable, and
the regulators' windows (R212 to R221, R223 to R230). -/
namespace Sys2Proof.Machine

/-! Maintenance (R216). -/

/-- Whether a line with a tag is in a walk's scope. -/
def Walk.covers (w : Walk) (line pasid key : Nat) : Bool :=
  (decide (w.op ≠ 4) || decide (key = w.key)) &&
  match w.scope with
  | 0 => true
  | 1 => decide (w.base ≤ line ∧ line < w.base + w.len) &&
         (decide (rangeOf (lineAddr line) ≠ .host) || decide (pasid = w.pasid))
  | _ => decide (key = w.key)

/-- Lines of a slice in its sets, victim cache and side buffer. -/
def BSlice.lines (x : BSlice) : List CLine :=
  x.sets.flatMap (fun e => e.2.ways.map (·.2)) ++ x.victim.map (·.ln) ++ x.side.map (·.ln)

/-- One line treated: the state, and whether its writeback waits for a translation. -/
def treatLine (s : State) (sl op : Nat) (ln : CLine) : State × Bool :=
  let gone (s : State) : State := s.setSlice sl ((s.slice sl).remove ln.line ln.pasid)
  if op = 1 || op = 4 then (gone s, false)
  else if !ln.dirty then (if op = 3 then gone s else s, false)
  else
    match writeBack s [] ln with
    | (s, .ok _ _ _) =>
      (if op = 3 then gone s else s.setSlice sl ((s.slice sl).update { ln with dirty := false }), false)
    | (s, .wait) => (s, true)
    | (s, .err _) => (s, false)

/-- A walk of one slice: lines that stand in it are treated, fills in progress are marked. -/
def walkSlice (s : State) (w : Walk) (sl : Nat) : State × List (Nat × Nat × Nat) :=
  let x := s.slice sl
  let mark (m : Miss) : Miss := if w.covers m.line m.acc.pasid m.acc.key then { m with treat := m.treat ++ [w.op] } else m
  let s := s.setSlice sl { x with miss := x.miss.map mark
                                  out := x.out.filter fun ln => decide (w.op ≠ 4) || !w.covers ln.line ln.pasid ln.key }
  (x.lines.filter fun ln => w.covers ln.line ln.pasid ln.key).foldl
    (fun (r : State × List (Nat × Nat × Nat)) ln =>
      let (s, wt) := treatLine r.1 sl w.op ln
      (s, if wt then r.2 ++ [(sl, ln.line, ln.pasid)] else r.2)) (s, [])

/-- A walk of several slices; the answer lists the lines that wait. -/
def walkSlices (s : State) (w : Walk) (sls : List Nat) : State × List (Nat × Nat × Nat) :=
  sls.foldl (fun r sl => let (s, l) := walkSlice r.1 w sl; (s, r.2 ++ l)) (s, [])

/-- Lines that waited are treated again. -/
def walkLeft (s : State) (op : Nat) (left : List (Nat × Nat × Nat)) : State × List (Nat × Nat × Nat) :=
  left.foldl (fun r e =>
    let treat (ln : CLine) : State × List (Nat × Nat × Nat) :=
      let (s, wt) := treatLine r.1 e.1 op ln
      (s, if wt then r.2 ++ [e] else r.2)
    match (r.1.slice e.1).find e.2.1 e.2.2 with
    | .way _ ln => treat ln
    | .victim ln => treat ln
    | .side ln => treat ln
    | .absent => r) (s, [])

/-- R216, Table 8-4: the scopes each operation allows. -/
def maintAllowed (op scope : Nat) : Bool :=
  decide (1 ≤ op ∧ op ≤ 4) && decide (scope ≤ 2) && !((op = 1 || op = 4) && scope = 1)

/-- R216, Table 8-13: a start. A reserved operation or scope sets err; a start while busy is ignored. -/
def maintStart (s : State) : State :=
  if rb s fSbfMaint_busy then s
  else
    let op := rf s fSbfMaint_op
    let scope := rf s fSbfMaint_scope
    if !maintAllowed op scope then clrB (setB s fSbfMaint_err) fSbfMaint_go
    else
      let sls := if rb s fSbfMaint_all then allSlices else [rf s fSbfMaint_slice]
      let w : Walk := { op := op, scope := scope, key := rf s fSbfMaint_key, base := rf s fSbfMainta_base
                        len := rf s fSbfMaintl_len, pasid := rf s fSbfMaintl_pasid }
      let (s, left) := walkSlices (setB s fSbfMaint_busy) w sls
      { s.emit [.maintDone] with walk := some ({ w with left := left }, sls) }

/-- The walk ends once nothing of it waits: busy clears; INVALIDATE of every line marks the ways invalidated and the tags
valid. None: lines still wait. -/
def maintFinish (s : State) : State × Bool :=
  match s.walk with
  | none => (clrB (clrB s fSbfMaint_busy) fSbfMaint_go, true)
  | some (w, sls) =>
    let (s, left) := walkLeft s w.op w.left
    if !left.isEmpty then ({ s with walk := some ({ w with left := left }, sls) }, false)
    else
      let s := clrB (clrB { s with walk := none } fSbfMaint_busy) fSbfMaint_go
      (if w.op = 1 ∧ w.scope = 0 then
         sls.foldl (fun s sl =>
           setB (wf s (fSbfWaystat_inv sl) (Nat.lor (rf s (fSbfWaystat_inv sl)) (rf s (fSbfWaydis_mask sl)))) (fSbfCtl_clean sl)) s
       else s, true)

/-- CLEAN_INV or FLUSH of a host-window range of a PASID (R258, R259), or of every line when the length is 0. -/
def hostWalk (op a n pasid : Nat) : Walk :=
  if n = 0 then { op := op, scope := 0 }
  else { op := op, scope := 1, base := a / 256, len := (a + n + 255) / 256 - a / 256, pasid := pasid }

/-! Scratch (R212 to R215). -/

/-- Bytes of a range of device memory become zero and clean. -/
def clearRange (s : State) (lo n : Nat) : State :=
  { s with mem := s.mem.filter fun e => !(decide (lo ≤ e.1) && decide (e.1 < lo + n))
           psn := s.psn.filter fun e => !(decide (lo / 32 ≤ e.1) && decide (e.1 < (lo + n) / 32)) }

/-- The w highest-numbered enabled ways of a slice, those of the groups that stay first (R212, R214). -/
def lockWays (s : State) (sl w : Nat) : List Nat :=
  let old := (s.slice sl).locked.take w
  old ++ ((cacheWays s sl).reverse.take (w - (s.slice sl).locked.length))

/-- R212: whether a write of w is refused. -/
def scrRefused (s : State) (w : Nat) : Bool :=
  decide (12 < w) || (w == 0 && rb s fBseBoot_cmd) ||
    allSlices.any fun sl => decide ((cacheWays s sl).length + (s.slice sl).locked.length < w + 4)

/-- R214: every line of a way leaves; dirty ones are written back. -/
def emptyWay (s : State) (sl w : Nat) : State :=
  (s.slice sl).sets.foldl (fun s e =>
    match tfind e.2.ways w with
    | none => s
    | some ln => sendOut s sl ln) s

/-- R212, R214: a write of SBF_SCR.ways. Groups that enter are written with zeros, groups that leave lose their contents. -/
def setScratchWays (s : State) (w : Nat) : State :=
  let old := rf s fSbfScr_ways
  if scrRefused s w then setB s fSbfScr_err
  else
    let s := allSlices.foldl (fun s sl =>
      let ways := lockWays s sl w
      let s := (ways.drop old).foldl (fun s x => emptyWay s sl x) s
      s.setSlice sl { s.slice sl with locked := ways }) s
    let lo := min old w
    let s := clearRange s (scrBase + lo * 0x2000000) ((max old w - lo) * 0x2000000)
    { (setB (wf s fSbfScr_ways w) fSbfScr_busy).emit [.scratchChangeDone] with scrOld := old }

/-- SBF_SCRGRANT and SEC_FTGRANT owners (Tables 8-15 and 11-13). -/
def ownerStored (v : Nat) : Nat := if v ≤ 16 then v else 31

/-- R215: a change of a block's owner writes the block with zeros before requests to it are served. -/
def setGrant (s : State) (b v : Nat) : State :=
  if rf s (fSbfScrgrant_owner b) = ownerStored v then s
  else
    let s := clearRange (wf s (fSbfScrgrant_owner b) (ownerStored v)) (scrBase + b * 0x400000) 0x400000
    (setB s (fSbfScrgrant_zeroing b)).emit [.scratchZeroingDone b]

/-- A block of scratch zeroed as for a change of owner (R301, R303). -/
def zeroBlock (s : State) (b : Nat) : State :=
  (setB (clearRange s (scrBase + b * 0x400000) 0x400000) (fSbfScrgrant_zeroing b)).emit [.scratchZeroingDone b]

/-- Scratch blocks of a partition. -/
def blocksOf (s : State) (p : Nat) : List Nat :=
  (List.range 96).filter fun b => decide (rf s (fSbfScrgrant_owner b) = p)

/-- CLEAN_INV over a far-tier block of 1 GiB. -/
def grantWalk (b : Nat) : Walk := { op := 3, scope := 1, base := (farBase + b * 2 ^ 30) / 256, len := 2 ^ 22 }

/-- Table 11-13: a change of a far-tier block's owner runs CLEAN_INV over the block before the new owner takes effect. -/
def setFarGrant (s : State) (b v : Nat) : State :=
  if rf s (fSecFtgrant_owner b) = ownerStored v && !rb s (fSecFtgrant_busy b) then s
  else
    let s := setB s (fSecFtgrant_busy b)
    { (walkSlices s (grantWalk b) allSlices).1.emit [.farGrantChangeDone b] with ftPend := tset s.ftPend b (ownerStored v) }

/-- R276: DEVTIME steps forward; the window in progress ends at the step. -/
def stepTime (s : State) (t : Nat) : State :=
  if t ≤ s.devtime.toNat then s
  else
    let s := { s with devtime := BitVec.ofNat 64 t }
    windowEnd { s with qos := { s.qos with fin := t } }

end Sys2Proof.Machine
end

