-- ==== Sys2Proof/Machine/Background.lean ====
section
/-! DEFINITION. Background work of the memories: refresh, scrub, calibration, deferral budgets, write-inhibit timeouts, the
10 ms housekeeping round and the regulators' windows (R159, R170 to R172, R221, R230). -/
namespace Sys2Proof.Machine

/-- R172: a near-tier refresh falls due; it waits while foreground requests want its bank, at most 8 per bank, and those
that waited go with it otherwise. -/
def execNearRefresh (e c bank : Nat) (busy : Bool) (s : State) : Host.Outcome State Fault Refusal :=
  let ch := 128 * e + c
  let x := s.near ch
  .next (s.setNear ch { x with
    refr := if busy then tset x.refr bank (min 8 (tget 0 x.refr bank + 1)) else terase x.refr bank })

/-- One scrub read of a near-tier channel; a rewrite has no effect on what the line reads as (R171, R322). -/
def nearScrub (s : State) (ch : Nat) (ecc : Ecc) : State :=
  let x := s.near ch
  let s := (nearFinds s (nearLineAddr ch x.scrubAt) ecc).1
  s.setNear ch { s.near ch with scrubAt := (x.scrubAt + 1) % 393216 }

/-- R171, R172: a near-tier scrub read falls due while NTC_CTL.scrub is 1. -/
def execNearScrub (e c : Nat) (busy : Bool) (ecc : Ecc) (s : State) : Host.Outcome State Fault Refusal :=
  .next (if busy || !rb s fNtcCtl_scrub then s else nearScrub s (128 * e + c) ecc)

/-- R172: the calibration window of all near-tier channels opens or closes. -/
def execNearCalibration (on : Bool) (s : State) : Host.Outcome State Fault Refusal := .next { s with nearCal := on }

/-- R172: a far-tier refresh falls due. -/
def execFarRefresh (pc : Nat) (busy : Bool) (s : State) : Host.Outcome State Fault Refusal :=
  let x := s.far pc
  .next (s.setFar pc { x with refr := if busy then x.refr + 1 else 0 })

def farScrub (s : State) (pc : Nat) (ecc : Ecc) : State :=
  let x := s.far pc
  let s := (farFinds s (farLineAddr pc x.scrubAt) ecc).1
  s.setFar pc { s.far pc with scrubAt := (x.scrubAt + 1) % 3145728 }

/-- R171, R172: a far-tier scrub read falls due. -/
def execFarScrub (pc : Nat) (busy : Bool) (ecc : Ecc) (s : State) : Host.Outcome State Fault Refusal :=
  .next (if busy then s else farScrub s pc ecc)

/-- R172: the calibration window of all far-tier channels opens or closes. -/
def execFarCalibration (on : Bool) (s : State) : Host.Outcome State Fault Refusal := .next { s with farCal := on }

/-- The scratch line of a group that lies in a set of a slice (R213). -/
def scrLineAddr (g sl set : Nat) : Nat :=
  let low := xorAll [sl, bits set 0 5, bits set 5 5, bits set 10 2]
  scrBase + g * 0x2000000 + 256 * (set * 32 + low)

/-- One scrub read of a slice: the next line of an enabled way, locked ways included (R221). -/
def sliceScrub (s : State) (sl : Nat) (ecc : Ecc) : State :=
  let x := s.slice sl
  let set := x.scrubAt / 16
  let w := x.scrubAt % 16
  let s := s.setSlice sl { x with scrubAt := (x.scrubAt + 1) % 65536 }
  if rf s (fSbfWaydis_mask sl) / 2 ^ w % 2 = 1 then s
  else
    let g := x.locked.idxOf w
    let a := if x.locked.contains w then scrLineAddr g sl set
      else match tfind (x.set set).ways w with | some ln => lineAddr ln.line | none => 0
    let (s, m, fails) := wayFinds s sl w set a ecc
    let s := if m = 0 then s
      else if x.locked.contains w then (if m = 255 then { s with psn := psnSet s.psn a 256 true } else s)
      else match tfind (x.set set).ways w with
        | some ln => s.setSlice sl ((s.slice sl).update { ln with psn := true })
        | none => s
    if fails then wayFails s sl w set else s

/-- R221: a slice scrubs its next line while SBF_CFG.scrub is 1. -/
def execSliceScrub (sl : Nat) (busy : Bool) (ecc : Ecc) (s : State) : Host.Outcome State Fault Refusal :=
  .next (if busy || !rb s fSbfCfg_scrub then s else sliceScrub s sl ecc)

/-- R171: an operation that has waited its whole budget goes ahead. unit is the near-tier channel, pseudo-channel or slice
by its unit number (Table 12-6). -/
def execDeferralBudgetExpiry (unit bank : Nat) (scrub : Bool) (ecc : Ecc) (s : State) :
    Host.Outcome State Fault Refusal :=
  .next (if 0x4200 ≤ unit ∧ unit < 0x4600 then
      let ch := unit - 0x4200
      if scrub then nearScrub s ch ecc
      else
        let x := s.near ch
        s.setNear ch { x with refr := tset x.refr bank (tget 0 x.refr bank - 1) }
    else if 0x4A00 ≤ unit ∧ unit < 0x4C00 then
      let pc := unit - 0x4A00
      if scrub then farScrub s pc ecc
      else s.setFar pc { s.far pc with refr := (s.far pc).refr - 1 }
    else if 0x4C40 ≤ unit ∧ unit < 0x4C60 then (if scrub then sliceScrub s (unit - 0x4C40) ecc else s)
    else s)

/-! Write inhibit (R159). -/

/-- The channel discards a queued write and every later one, if its table has room for their lines. None: no room. A line that the
table holds already needs no further entry, and a line queued twice one entry: DESIGN CHOICE, R159 asks for a free entry for every
line discarded (log entry 86). -/
def discardFrom (s : State) (ch : Nat) (w : NWrite) : Option State :=
  let x := s.near ch
  let gone := x.wq.filter fun y => decide (w.seq ≤ y.seq)
  let lines := (gone.map (·.line)).eraseDups
  let fresh := lines.filter fun l => !x.table.any fun t => decide (t.1 = l)
  if 64 < x.table.length + fresh.length then none
  else
    let last (l : Nat) : Nat := gone.foldl (fun n y => if y.line = l then max n y.seq else n) 0
    let table := (x.table.filter fun t => !lines.contains t.1) ++ lines.map fun l => (l, last l)
    let s := s.setNear ch { x with wq := x.wq.filter (fun y => decide (y.seq < w.seq)), table := table, deferred := false }
    let s := lines.foldl (fun s l =>
      match (gone.filter fun y => decide (y.line = l)).getLast? with
      | some y => errNote s .fault .timeout (0x4200 + ch) (256 * l) y.op y.node (some y.part)
      | none => s) s
    some (wake s)

/-- R159: a write has waited in an inhibited queue for its timeout. Without room for every line the discard is deferred,
with one record that names the channel. -/
def execInhibitTimeout (e c seq : Nat) (s : State) : Host.Outcome State Fault Refusal :=
  let ch := 128 * e + c
  let x := s.near ch
  .next (match x.wq.find? fun y => decide (y.seq = seq) with
    | none => s
    | some w =>
      if !inhibited s ch || x.deferred || decide (s.devtime.toNat < w.due) then s
      else
        match discardFrom s ch w with
        | some s => s
        | none => errNote (s.setNear ch { x with deferred := true }) .fault .timeout (0x4200 + ch) 0 0 0 none)

/-- R159: a deferred discard takes place as soon as the table has room. -/
def execDeferredDiscard (e c : Nat) (s : State) : Host.Outcome State Fault Refusal :=
  let ch := 128 * e + c
  let x := s.near ch
  .next (if !x.deferred then s
    else
      match x.wq.find? fun y => decide (y.due ≤ s.devtime.toNat) with
      | none => s
      | some w => (discardFrom s ch w).getD s)

/-! The 10 ms round (R170). -/

/-- R170: throttle level after a report, from the level before it. -/
def hbmLevel (hot crit hyst prev t : Nat) : Nat :=
  let c := max crit hot
  if c ≤ t || (prev = 2 && c ≤ t + hyst) then 2
  else if hot ≤ t || (1 ≤ prev && hot ≤ t + hyst) then 1
  else 0

/-- R170: a stack's temperature report; a missing one sets level 2 until a valid one arrives, whose level is then found
afresh. -/
def hbmReport (s : State) (h : Nat) (t : Option Nat) : State :=
  match t with
  | none => { wf s (fHbcStat_thr h) 2 with hbmOk := terase s.hbmOk h }
  | some t =>
    let prev := if tget false s.hbmOk h then rf s (fHbcStat_thr h) else 0
    let lv := hbmLevel (rf s (fHbcThrcfg_hot h)) (rf s (fHbcThrcfg_crit h)) (rf s (fHbcThrcfg_hyst h)) prev t
    let s := wf (wf s (fHbcStat_thr h) lv) (fHbcStat_temp h) t
    let s := setB (wf s (fThmNode_est (368 + h)) (128 * t)) (fThmNode_valid (368 + h))
    { s with hbmOk := tset s.hbmOk h true }

/-- R170, R354, R355, R398: stack reports and the board's inlet reading, in 1/128 °C; a reading outside −10 °C to 80 °C is
invalid. -/
def execHousekeepingRound (temps : List (Option Nat)) (inlet : Option Int) (s : State) :
    Host.Outcome State Fault Refusal :=
  let s := (List.range 8).foldl (fun s h => hbmReport s h ((temps[h]?).getD none)) s
  .next { s with inlet := inlet.filter fun t => decide (-1280 ≤ t ∧ t ≤ 10240) }

/-- R226, R230: a window's end, once DEVTIME has reached it. -/
def execRegulatorWindowEnd (s : State) : Host.Outcome State Fault Refusal := .next (windowDue s)

end Sys2Proof.Machine
end

