-- ==== Sys2Proof/Machine/WeightDecode.lean ====
section
/-! DEFINITION. Decoding of the storage-only weight formats CB2, CB3 and TN5 (R35 to R40). -/
namespace Sys2Proof.Machine

/-- Bytes of a block of a storage-only format (Table 2-4, R38); 0 for other codes. -/
def blockBytes (code : Nat) : Nat := match code with | 0x10 => 66 | 0x11 => 98 | 0x12 => 62 | _ => 0

/-- Targets of the decode unit (R40): FP32, FP16, BF16, FP8-E4M3, FP8-E5M2. -/
def decodeTarget (code : Nat) : Bool := decide (code ≤ 4)

/-- One value in a target format, to nearest even with saturation on (R40). -/
def toTarget (t : Nat) (v : Val) : Nat :=
  match floatOf t with
  | some f => (f.encode true .rne v).1
  | none => 0

/-- Element j of vector v of codebook k in a set (R36). -/
def bookIndex (k v j : Nat) : Nat := 2048 * k + 8 * v + j

/-- A block of CB2 or CB3 (R35 to R37): 256 target encodings, one mark per group of eight from the codebook's words, and
whether a format event occurred. book and bad give a byte of the set and the mark of its word. -/
def decodeCb (n t : Nat) (blk : List Nat) (book : Nat → Nat) (bad : Nat → Bool) : List (Nat × Bool) × Bool :=
  let s := fp16.decode (blk.getD (32 * n) 0 + 256 * blk.getD (32 * n + 1) 0)
  let group (g : Nat) : List (Nat × Bool × Bool) :=
    let idx := (List.range n).map fun k => blk.getD (n * g + k) 0
    let psn := (List.range n).any fun k => bad (bookIndex k (idx.getD k 0) 0)
    (List.range 8).map fun j =>
      let es := (List.range n).map fun k => e4m3.decode (book (bookIndex k (idx.getD k 0) j))
      let h := fp16.decode (roundV fp16 (sumV es)).1
      (toTarget t (mulV h s).1, psn, es.any Val.isNan)
  let all := (List.range 32).flatMap group
  (all.map fun e => (e.1, e.2.1), s.isNan || all.any fun e => e.2.2)

/-- A block of TN5 (R38 to R40). -/
def decodeTn5 (t : Nat) (blk : List Nat) : List (Nat × Bool) × Bool :=
  let s := fp16.decode (blk.getD 60 0 + 256 * blk.getD 61 0)
  let u (q : Nat) : Val := e4m3.decode (blk.getD (52 + q) 0)
  let one (n : Nat) : Nat × Bool :=
    let b := blk.getD (n / 5) 0
    if 243 ≤ b then (toTarget t (.fin false 0 0), true)
    else
      let d : Int := (b / 3 ^ (n % 5) % 3 : Nat) - 1
      (toTarget t (mulV (mulV (valInt d 0) (u (n / 32))).1 s).1, false)
  let all := (List.range 256).map one
  (all.map fun e => (e.1, false),
   s.isNan || (List.range 8).any (fun q => (u q).isNan) || all.any (·.2))

/-- A block of a storage-only format (R37, R39). -/
def decodeBlock (sf t : Nat) (blk : List Nat) (book : Nat → Nat) (bad : Nat → Bool) : List (Nat × Bool) × Bool :=
  match sf with
  | 0x10 => decodeCb 2 t blk book bad
  | 0x11 => decodeCb 3 t blk book bad
  | _ => decodeTn5 t blk

end Sys2Proof.Machine
end

