-- ==== Sys2Proof/Machine/Dma.lean ====
section
/-! DEFINITION. The cluster DMA: descriptors in order, their checks, and what each kind moves (R173 to R190, R408). -/
namespace Sys2Proof.Machine

/-! Descriptor fields (Table 7-1). -/
def dKind (x : BitVec 512) : Nat := bits x.toNat 0 8
def dClass (x : BitVec 512) : Nat := bits x.toNat 13 3
def dHint (x : BitVec 512) : Nat := bits x.toNat 11 2
def dDir (x : BitVec 512) : Nat := bits x.toNat 10 1
def dSfmt (x : BitVec 512) : Nat := bits x.toNat 16 5
def dTfmt (x : BitVec 512) : Nat := bits x.toNat 24 5
def dCma (x : BitVec 512) : Nat := bits x.toNat 32 22
def dDva (x : BitVec 512) : Nat := bits x.toNat 64 48
def dInner (x : BitVec 512) : Nat := bits x.toNat 128 32
def dRows (x : BitVec 512) : Nat := bits x.toNat 160 32
def dDstride (x : BitVec 512) : Int := sint 32 (bits x.toNat 192 32)
def dCstride (x : BitVec 512) : Int := sint 32 (bits x.toNat 224 32)
def dP (x : BitVec 512) (i : Nat) : Nat := bits x.toNat (256 + 64 * i) 64

/-- The bits of a descriptor that a kind uses (R174, R175, R182, R187, R189); every other bit is reserved. Kind, class and
hint are in use in every kind (log entry 25). -/
def dMask (kind : Nat) : Nat :=
  let f (lo w : Nat) : Nat := (2 ^ w - 1) * 2 ^ lo
  let head := f 0 8 + f 11 2 + f 13 3
  let rowf := f 10 1 + f 32 22 + f 64 48 + f 128 32 + f 160 32 + f 192 32 + f 224 32
  let p (a b c d : Nat) : Nat := a * 2 ^ 256 + b * 2 ^ 320 + c * 2 ^ 384 + d * 2 ^ 448
  match kind with
  | 1 => head + rowf
  | 2 => head + rowf + p 3 0 0 0
  | 3 => head + rowf + f 16 5 + f 24 5 + p 7 (2 ^ 32 - 1) 0 0
  | 4 => head + rowf + p (2 ^ 22 - 1 + f 32 16) (2 ^ 32 - 1) (2 ^ 32 - 1) (2 ^ 32 - 1)
  | 5 => head + f 10 1 + f 64 48 + f 128 32 + p 7 0 0 0
  | 6 => head
  | 7 => head + p (2 ^ 22 - 1 + f 32 16) (2 ^ 40 - 1) (2 ^ 64 - 1) (2 ^ 22 - 1)
  | _ => 0

/-- Whether rows of n bytes from base, stride apart, stay in cluster memory (R175). -/
def rowsFit (base : Nat) (rows : Nat) (stride : Int) (n : Nat) : Bool :=
  if rows = 0 ∨ n = 0 then true
  else
    let b : Int := base
    let last := b + ((rows : Int) - 1) * stride
    decide (0 ≤ min b last ∧ max b last + n ≤ 0x400000)

/-- Entries of a page-index table (R187). -/
def tableSize (p0 : Nat) : Nat := if bits p0 32 16 = 0 then 65536 else bits p0 32 16
def tableAddr (p0 : Nat) : Nat := bits p0 0 22

/-- R175, R177, R178, R182, R187, R222: the checks that end a descriptor INVALID before it moves anything. COMMIT's own are
made when it acts. -/
def descOk (x : BitVec 512) : Bool :=
  let k := dKind x
  let rowsOk := decide (dRows x ≠ 0)
  decide (1 ≤ k ∧ k ≤ 7) && decide (Nat.land x.toNat (Nat.xor (2 ^ 512 - 1) (dMask k)) = 0) && decide (dClass x < 6) &&
  match k with
  | 1 => rowsOk && rowsFit (dCma x) (dRows x) (dCstride x) (dInner x)
  | 2 =>
    let e := 2 ^ bits (dP x 0) 0 2
    let ne := dInner x / e
    rowsOk && decide (dDir x = 0 ∧ bits (dP x 0) 0 2 ≠ 3 ∧ dInner x % e = 0) &&
      (ne = 0 || (rowsFit (dCma x) ne (dCstride x) (e * dRows x)))
  | 3 => rowsOk && decide (dDva x % 256 = 0 ∧ dDir x = 0 ∧ blockBytes (dSfmt x) ≠ 0) && decodeTarget (dTfmt x) &&
         rowsFit (dCma x) (dRows x) (dCstride x) (dInner x * 32 * elemBits (dTfmt x))
  | 4 =>
    let t := tableAddr (dP x 0)
    rowsOk && decide (t % 4 = 0 ∧ dP x 2 % 256 = 0 ∧ dP x 3 % 256 = 0 ∧ dInner x % 256 = 0 ∧ dP x 2 ≠ 0 ∧
      dInner x + dP x 3 ≤ dP x 2 ∧ t + 4 * tableSize (dP x 0) ≤ 0x400000) &&
      rowsFit (dCma x) (dRows x) (dCstride x) (dInner x)
  | 5 => decide (dDir x = 0 ∧ 1 ≤ dInner x ∧ dInner x ≤ 8192)
  | _ => true

/-! Starting (R173, R176). -/

def barrier (x : BitVec 512) : Bool := decide (5 ≤ dKind x ∧ dKind x ≤ 7)

/-- The descriptor at the head of the queue may start. -/
def canStart (x : Dma) : Bool :=
  match x.queue with
  | [] => false
  | d :: _ => decide (x.active.length < 8) && !(barrier d.x && !x.active.isEmpty) && !x.active.any fun y => barrier y.x

/-- The command that carries out a descriptor of a kind. -/
def kindCmd (cl : Nat) (d : Desc) (ecc : Eccs) : Instr :=
  match dKind d.x with
  | 1 => .dmaCopy cl d.id ecc
  | 2 => .tcopy cl d.id ecc
  | 3 => .decode cl d.id ecc
  | 4 => if dDir d.x = 0 then .gather cl d.id ecc else .scatter cl d.id ecc
  | 5 => .cbload cl d.id ecc
  | 6 => .cbswap cl d.id
  | _ => .commit cl d.id

/-- A descriptor in progress. -/
def descOf (s : State) (cl id : Nat) : Option Desc := (s.dma cl).active.find? fun d => decide (d.id = id)

def putDesc (s : State) (cl : Nat) (d : Desc) : State :=
  let x := s.dma cl
  s.setDma cl { x with active := x.active.map fun y => if y.id = d.id then d else y }

/-- A descriptor has ended its work; its request completes next. -/
def endDesc (s : State) (cl : Nat) (d : Desc) (st : Status) : State :=
  let s := if d.sawPsn then setB s (fCluDmastat_psn cl) else s
  (putDesc s cl { d with done := some st }).emit [.requestComplete cl d.id]

/-- R173, R175, R176: the descriptor at the head of the queue starts. One from a poisoned register ends UNCORRECTABLE with
nothing moved (log entry 26). -/
def execDescriptorStart (cl : Nat) (ecc : Eccs) (s : State) : Host.Outcome State Fault Refusal :=
  let x := s.dma cl
  .next (if !canStart x then s
    else
      match x.queue with
      | [] => s
      | d :: r =>
        let s := s.setDma cl { x with queue := r, active := x.active ++ [d] }
        if d.poison then endDesc s cl { d with sawPsn := true } .uncorrectable
        else if !descOk d.x then endDesc s cl d .invalid
        else s.emit [kindCmd cl d ecc])

/-! Cluster-memory bytes. -/

/-- Bytes with piece marks at a cluster-memory address. -/
def cmRead (s : State) (cl a n : Nat) : List (Byte × Bool) :=
  (List.range n).map fun i =>
    let b := cmAddr cl (a + i)
    (memGet s.mem b, tget false s.psn (b / 32))

/-- Bytes written; a piece that takes a poisoned byte is marked, one wholly written clean is cleared (R85, R321). -/
def cmWrite (s : State) (cl a : Nat) (xs : List (Byte × Bool)) : State :=
  let b := cmAddr cl a
  let n := xs.length
  let whole (e : Nat × Ecc) : Bool := decide (b ≤ 8 * e.1 ∧ 8 * e.1 + 8 ≤ b + n)
  let u := { s.upsets with cmem := s.upsets.cmem.filter fun e => !whole e }
  let s := { s with mem := memWrite s.mem b n (natOf (xs.map (·.1))), upsets := u }
  if n = 0 then s
  else
    (List.range ((b + n - 1) / 32 - b / 32 + 1)).foldl (fun s i =>
      let pc := b / 32 + i
      let lo := 32 * pc - b
      let hi := 32 * pc + 32 - b
      let bad := ((xs.take hi).drop lo).any (·.2)
      let whole := decide (b ≤ 32 * pc ∧ 32 * pc + 32 ≤ b + n)
      { s with psn := if bad then tset s.psn pc true else if whole then terase s.psn pc else s.psn }) s

/-- Attributes of the requests a descriptor causes (R173, R174). -/
def dmaAcc (s : State) (cl : Nat) (d : Desc) (ecc : Eccs) : Acc :=
  let p := rf s (fCluCfg_part cl)
  { node := cl, part := p, key := rf s (fSecPbind_dkey p), pasid := rf s (fSecPbind_pasid p), cls := dClass d.x
    hint := dHint d.x, ecc := ecc }

/-- The first error a descriptor met is kept. -/
def Desc.failed (d : Desc) (st : Status) : Desc := { d with fail := some (d.fail.getD st) }

/-- The status of a descriptor that has moved what it could (R175, R187, R408). -/
def Desc.status (d : Desc) : Status := (d.fail).getD (if d.sawPsn then .uncorrectable else .ok)

/-- What a piece read brings into cluster memory or the store: its bytes, or zeros marked poisoned where the request ended
in error (R110, R257). None while the request waits. whole: the marks are those of the line (R180). -/
def dmaRead (s : State) (q : Acc) (d : Desc) (a n : Nat) (whole : Bool := false) : State × Option (Desc × List (Byte × Bool)) :=
  match readBytes s q a n with
  | (s, .ok x p _) =>
    let l := (List.range n).map fun i =>
      (BitVec.ofNat 8 (x / 2 ^ (8 * i)), if whole then decide (p ≠ 0) else p / 2 ^ ((a % 256 + i) / 32) % 2 == 1)
    (s, some ({ d with sawPsn := d.sawPsn || l.any (·.2) }, l))
  | (s, .err st) => (s, some (d.failed st, List.replicate n (0, true)))
  | (s, .wait) => (s, none)

/-- Pieces moved one by one from where the descriptor stands; a piece that waits stops it. -/
def runPieces {α : Type} (step : State → Desc → α → State × Option Desc) : State → Desc → List α → State × Desc × Bool
  | s, d, [] => (s, d, true)
  | s, d, x :: r =>
    match step s d x with
    | (s, some d) => runPieces step s { d with pos := d.pos + 1 } r
    | (s, none) => (s, d, false)

/-- A descriptor's pieces run to the end, or it waits and its command is made again. -/
def runDesc {α : Type} (s : State) (cl : Nat) (d : Desc) (cmd : Instr) (ps : List α)
    (step : State → Desc → α → State × Option Desc) : State :=
  match runPieces step s d (ps.drop d.pos) with
  | (s, d, true) => endDesc s cl d d.status
  | (s, d, false) => { putDesc s cl d with waiting := s.waiting ++ [cmd] }

/-- A command of a descriptor in progress that has not ended. -/
def onDesc (s : State) (cl id : Nat) (f : Desc → State) : State :=
  match descOf s cl id with
  | some d => if d.done.isSome then s else f d
  | none => s

/-- Device address of a row; addresses wrap at 48 bits. -/
def rowAddr (base : Nat) (r : Nat) (stride : Int) : Nat := (((base : Int) + (r : Int) * stride) % (2 ^ 48 : Int)).toNat
/-- Cluster-memory address of a row. -/
def rowCm (base : Nat) (r : Nat) (stride : Int) : Nat := ((base : Int) + (r : Int) * stride).toNat

/-- Row r's device pieces with the place of each in the row. -/
def rowPieces (a n : Nat) : List (Nat × Nat × Nat) := (piecesFrom a n).map fun p => (p.1 % 2 ^ 48, p.1 - a, p.2)

/-- What the code finds in the lines that n bytes from c lie in: each line's marks, in order. -/
def cmFound (s : State) (cl : Nat) (ecc : Eccs) : List Nat → State × List (Nat × Nat)
  | [] => (s, [])
  | l :: r =>
    let (s, m) := cmemFinds s cl (256 * l) (eccOf ecc (256 * l))
    let (s, t) := cmFound s cl ecc r
    (s, (l, m) :: t)

/-- The lines that n bytes from address b lie in. -/
def linesOf (b n : Nat) : List Nat := if n = 0 then [] else (List.range ((b + n - 1) / 256 - b / 256 + 1)).map (b / 256 + ·)

/-- Cluster memory moved out to a device piece, each piece that is marked or found bad with its mark (R408). -/
def pieceOut (s : State) (q : Acc) (cl : Nat) (d : Desc) (a c n : Nat) : State × Option Desc :=
  let b := cmAddr cl c
  let (s, found) := cmFound s cl q.ecc (linesOf b n)
  let xs := (cmRead s cl c n).zipIdx.map fun e =>
    (e.1.1, e.1.2 || (tget 0 found ((b + e.2) / 256) / 2 ^ ((b + e.2) / 32 % 8) % 2 == 1))
  let d := { d with sawPsn := d.sawPsn || xs.any (·.2) }
  match writeBytes s q a n (natOf (xs.map (·.1))) (markPieces (a % 256) xs) with
  | (s, .ok _ _ _) => (s, some d)
  | (s, .err st) => (s, some (d.failed st))
  | (s, .wait) => (s, none)

/-- The pieces that n bytes from address b cover in part. -/
def partsOf (b n : Nat) : List Nat :=
  if n = 0 then []
  else ((if b % 32 ≠ 0 ∨ n < 32 then [b / 32] else []) ++ (if (b + n) % 32 ≠ 0 then [(b + n) / 32] else [])).eraseDups

/-- R319: bytes merged into cluster memory by a descriptor, at several places. A piece that is covered in part is checked as it stood,
and marked where it is found bad. -/
def cmMerge (s : State) (cl : Nat) (ecc : Eccs) (ws : List (Nat × List (Byte × Bool))) : State :=
  let parts := ws.flatMap fun w => partsOf (cmAddr cl w.1) w.2.length
  let (s, found) := cmFound s cl ecc (parts.map (· / 8)).eraseDups
  let s := ws.foldl (fun s w => cmWrite s cl w.1 w.2) s
  (parts.filter fun p => tget 0 found (p / 8) / 2 ^ (p % 8) % 2 == 1).foldl (fun s p => { s with psn := tset s.psn p true }) s

/-- A device piece moved into cluster memory. -/
def pieceIn (s : State) (q : Acc) (cl : Nat) (d : Desc) (a c n : Nat) : State × Option Desc :=
  match dmaRead s q d a n with
  | (s, some (d, xs)) => (cmMerge s cl q.ecc [(c, xs)], some d)
  | (s, none) => (s, none)

/-- Pieces of a COPY: device address, cluster-memory address, length (R177). -/
def copyPieces (x : BitVec 512) : List (Nat × Nat × Nat) :=
  (List.range (dRows x)).flatMap fun r =>
    (rowPieces (rowAddr (dDva x) r (dDstride x)) (dInner x)).map fun p => (p.1, rowCm (dCma x) r (dCstride x) + p.2.1, p.2.2)

/-- One piece of a COPY, in or out (R177, R408). -/
def copyStep (cl : Nat) (x : BitVec 512) (ecc : Eccs) (s : State) (d : Desc) (p : Nat × Nat × Nat) : State × Option Desc :=
  if dDir x = 0 then pieceIn s (dmaAcc s cl d ecc) cl d p.1 p.2.1 p.2.2
  else pieceOut s (dmaAcc s cl d ecc) cl d p.1 p.2.1 p.2.2

/-- COPY (R177, R408). -/
def execDmaCopy (cl id : Nat) (ecc : Eccs) (s : State) : Host.Outcome State Fault Refusal :=
  .next (onDesc s cl id fun d => runDesc s cl d (.dmaCopy cl id ecc) (copyPieces d.x) (copyStep cl d.x ecc))

/-- Pieces of a TCOPY: device address, row, place in the row, length. -/
def tcopyPieces (x : BitVec 512) : List (Nat × Nat × Nat × Nat) :=
  (List.range (dRows x)).flatMap fun r =>
    (rowPieces (rowAddr (dDva x) r (dDstride x)) (dInner x)).map fun p => (p.1, r, p.2.1, p.2.2)

/-- Where byte o of row r of a TCOPY goes: element i of row r lies at cma + i × cstride + r × e (R177). -/
def tcopyAt (x : BitVec 512) (r o : Nat) : Nat :=
  let e := 2 ^ bits (dP x 0) 0 2
  rowCm (dCma x) (o / e) (dCstride x) + r * e + o % e

/-- One piece of a TCOPY. -/
def tcopyStep (cl : Nat) (x : BitVec 512) (ecc : Eccs) (s : State) (d : Desc) (p : Nat × Nat × Nat × Nat) : State × Option Desc :=
  match dmaRead s (dmaAcc s cl d ecc) d p.1 p.2.2.2 with
  | (s, some (d, xs)) =>
    (cmMerge s cl ecc (((List.range p.2.2.2).zip xs).map fun b => (tcopyAt x p.2.1 (p.2.2.1 + b.1), [b.2])), some d)
  | (s, none) => (s, none)

/-- TCOPY (R177). -/
def execTcopy (cl id : Nat) (ecc : Eccs) (s : State) : Host.Outcome State Fault Refusal :=
  .next (onDesc s cl id fun d => runDesc s cl d (.tcopy cl id ecc) (tcopyPieces d.x) (tcopyStep cl d.x ecc))

/-- Pieces of a range read in turn. -/
def dmaReadAll (s : State) (q : Acc) (d : Desc) (l : List (Nat × Nat)) (whole : Bool := false) :
    State × Option (Desc × List (Byte × Bool)) :=
  match l with
  | [] => (s, some (d, []))
  | p :: r =>
    match dmaRead s q d (p.1 % 2 ^ 48) p.2 whole with
    | (s, none) => (s, none)
    | (s, some (d, xs)) =>
      match dmaReadAll s q d r whole with
      | (s, none) => (s, none)
      | (s, some (d, ys)) => (s, some (d, xs ++ ys))

/-- Blocks of a DECODE: row and place in the row. -/
def decodePieces (x : BitVec 512) : List (Nat × Nat) :=
  (List.range (dRows x)).flatMap fun r => (List.range (dInner x)).map fun k => (r, k)

/-- Device address of a block (R178). -/
def decodeFrom (x : BitVec 512) (p : Nat × Nat) : Nat :=
  let first := ((bits (dP x 1) 0 32 : Nat) : Int) + (p.1 : Int) * dDstride x + (p.2 : Int)
  ((((dDva x : Nat) : Int) + first * (blockBytes (dSfmt x) : Int)) % (2 ^ 48 : Int)).toNat

/-- Cluster-memory address of a block's elements (R178). -/
def decodeAt (x : BitVec 512) (p : Nat × Nat) : Nat := rowCm (dCma x) p.1 (dCstride x) + p.2 * 32 * elemBits (dTfmt x)

/-- R322: what the code of a cluster's codebook store finds in the words that a block reads; a word that is uncorrectable stays so until it
is written. -/
def bookFinds (s : State) (cl : Nat) (reads : Nat → Bool) : State :=
  (s.upsets.book.filter fun e => decide (e.1 / 65536 = cl) && reads (e.1 % 65536)).foldl (fun s e =>
    match e.2 with
    | .corrected => corrected { s with upsets := { s.upsets with book := terase s.upsets.book e.1 } } (unitCluster cl) (e.1 % 65536)
    | .ok => s
    | _ => errEvent s .uncorrectable .uncorrectable (unitCluster cl) 0 (e.1 % 65536) 0) s

/-- Whether a word of a cluster's codebook store is uncorrectable. -/
def bookLost (s : State) (cl w : Nat) : Bool :=
  lostWord (tget .ok s.upsets.book (65536 * cl + w))

/-- Words of a set, from its base, that a block of CB2 or CB3 reads (R36). -/
def blockWords (sf : Nat) (blk : List Nat) : List Nat :=
  let n := if sf = 0x10 then 2 else if sf = 0x11 then 3 else 0
  (List.range 32).flatMap fun g => (List.range n).map fun k => bookIndex k (blk.getD (n * g + k) 0) 0 / 8

/-- One block: a poisoned source line poisons every element of a block it touches; a format event is counted once per block (R178
to R181). -/
def decodeStep (cl : Nat) (x : BitVec 512) (ecc : Eccs) (s : State) (d : Desc) (p : Nat × Nat) : State × Option Desc :=
  match dmaReadAll s (dmaAcc s cl d ecc) d (piecesFrom (decodeFrom x p) (blockBytes (dSfmt x))) true with
  | (s, none) => (s, none)
  | (s, some (d, xs)) =>
    let m := s.dma cl
    let w := elemBits (dTfmt x)
    let base := 65536 * m.half + 8192 * bits (dP x 0) 0 3
    let blk := xs.map fun b => b.1.toNat
    let (es, ev) := decodeBlock (dSfmt x) (dTfmt x) blk
      (fun i => (memGet m.store (base + i)).toNat) (fun i => tget false m.storePsn ((base + i) / 8) || bookLost s cl ((base + i) / 8))
    let s := if s.upsets.book.isEmpty then s else bookFinds s cl fun w => (blockWords (dSfmt x) blk).contains (w - base / 8) && decide (base / 8 ≤ w)
    let bad := xs.any (·.2)
    let out := bytesOf (32 * w) (packBits w (es.map (·.1)))
    let marks := (List.range (32 * w)).map fun i => bad || ((es[i * 8 / w]?).map (·.2)).getD false
    let s := incWrap (cmWrite s cl (decodeAt x p) (out.zip marks)) (fCluDeccnt_blocks cl) 1
    let s := if ev then incSat (setB s (fCluDmastat_fmterr cl)) (fCluDeccnt_fmt cl) 1 else s
    (s, some d)

/-- DECODE, block by block (R178 to R181). -/
def execDecode (cl id : Nat) (ecc : Eccs) (s : State) : Host.Outcome State Fault Refusal :=
  .next (onDesc s cl id fun d => runDesc s cl d (.decode cl id ecc) (decodePieces d.x) (decodeStep cl d.x ecc))

/-- An entry of a table or ring in cluster memory; none when it is invalid or poisoned (R186 to R189). -/
def pageEntry (s : State) (cl a : Nat) : Option Nat × Bool :=
  let xs := cmRead s cl a 4
  let e := natOf (xs.map (·.1))
  if xs.any (·.2) then (none, true) else if bits e 31 1 = 1 then (some e, false) else (none, false)

/-- Rows of GATHER and SCATTER: the page address, or none for a row that moves nothing. -/
def pageRows (s : State) (cl : Nat) (x : BitVec 512) : List (Nat × Option Nat × Bool) :=
  (List.range (dRows x)).map fun r =>
    let t := tableAddr (dP x 0) + 4 * ((bits (dP x 1) 0 32 + r) % tableSize (dP x 0))
    match pageEntry s cl t with
    | (some e, _) => (r, some ((dDva x + bits e 0 24 * bits (dP x 2) 0 32 + bits (dP x 3) 0 32) % 2 ^ 48), false)
    | (none, p) => (r, none, p)

/-- R187: a row with an invalid or poisoned entry ends the descriptor INVALID, whatever else it meets. -/
def badRow (d : Desc) (p : Bool) : Desc := { d with fail := some .invalid, sawPsn := d.sawPsn || p }

/-- Pieces of paged rows: a bad row is one piece of its own. -/
def pagePieces (s : State) (cl : Nat) (x : BitVec 512) : List (Nat × Option (Nat × Nat × Nat) × Bool) :=
  (pageRows s cl x).flatMap fun e =>
    match e with
    | (r, none, p) => [(r, none, p)]
    | (r, some a, _) => (rowPieces a (dInner x)).map fun y => (r, some y, false)

/-- One piece of a GATHER: a bad row is written as poisoned zeros, and ends the descriptor INVALID. -/
def gatherStep (cl : Nat) (x : BitVec 512) (ecc : Eccs) (s : State) (d : Desc) (e : Nat × Option (Nat × Nat × Nat) × Bool) :
    State × Option Desc :=
  let c := rowCm (dCma x) e.1 (dCstride x)
  match e.2.1 with
  | none => (cmWrite s cl c (List.replicate (dInner x) (0, true)), some (badRow d e.2.2))
  | some y =>
    let keep := d.fail
    match pieceIn s (dmaAcc s cl d ecc) cl d y.1 (c + y.2.1) y.2.2 with
    | (s, some d) => (s, some (if keep = some .invalid then { d with fail := keep } else d))
    | (s, none) => (s, none)

/-- GATHER into cluster memory (R187). -/
def execGather (cl id : Nat) (ecc : Eccs) (s : State) : Host.Outcome State Fault Refusal :=
  .next (onDesc s cl id fun d => runDesc s cl d (.gather cl id ecc) (pagePieces s cl d.x) (gatherStep cl d.x ecc))

/-- One piece of a GATHER with dir 1; a bad row moves nothing. -/
def scatterStep (cl : Nat) (x : BitVec 512) (ecc : Eccs) (s : State) (d : Desc) (e : Nat × Option (Nat × Nat × Nat) × Bool) :
    State × Option Desc :=
  match e.2.1 with
  | none => (s, some (badRow d e.2.2))
  | some y => pieceOut s (dmaAcc s cl d ecc) cl d y.1 (rowCm (dCma x) e.1 (dCstride x) + y.2.1) y.2.2

/-- GATHER with dir 1, out of cluster memory (R187). -/
def execScatter (cl id : Nat) (ecc : Eccs) (s : State) : Host.Outcome State Fault Refusal :=
  .next (onDesc s cl id fun d => runDesc s cl d (.scatter cl id ecc) (pagePieces s cl d.x) (scatterStep cl d.x ecc))

/-- Bytes written into a codebook half's slot; a word with a poisoned byte is marked, one wholly written clean is
cleared (R182, R408). -/
def storeWrite (m : Dma) (a : Nat) (xs : List (Byte × Bool)) : Dma :=
  let n := xs.length
  { m with store := memWrite m.store a n (natOf (xs.map (·.1)))
           storePsn := (List.range ((a + n + 7) / 8 - a / 8)).foldl (fun t i =>
             let w := a / 8 + i
             let bad := ((xs.take (8 * w + 8 - a)).drop (8 * w - a)).any (·.2)
             let whole := decide (a ≤ 8 * w ∧ 8 * w + 8 ≤ a + n)
             if bad then tset t w true else if whole then terase t w else t) m.storePsn }

/-- Words of a cluster's codebook store that a write of n bytes at a touches have no upset left. -/
def bookWritten (s : State) (cl a n : Nat) : State :=
  let stays (e : Nat × Ecc) : Bool := !decide (65536 * cl + a / 8 ≤ e.1 ∧ e.1 < 65536 * cl + (a + n + 7) / 8)
  { s with upsets := { s.upsets with book := s.upsets.book.filter stays } }

/-- One piece of a CBLOAD, into a slot of the half inactive when it starts; it is a barrier, so no swap comes between (R182). -/
def cbloadStep (cl : Nat) (x : BitVec 512) (ecc : Eccs) (s : State) (d : Desc) (p : Nat × Nat × Nat) : State × Option Desc :=
  match dmaRead s (dmaAcc s cl d ecc) d p.1 p.2.2 with
  | (s, some (d, xs)) =>
    let m := s.dma cl
    let a := 65536 * (1 - m.half) + 8192 * bits (dP x 0) 0 3 + p.2.1
    (bookWritten (s.setDma cl (storeWrite m a xs)) cl a xs.length, some d)
  | (s, none) => (s, none)

/-- CBLOAD (R182). -/
def execCbload (cl id : Nat) (ecc : Eccs) (s : State) : Host.Outcome State Fault Refusal :=
  .next (onDesc s cl id fun d => runDesc s cl d (.cbload cl id ecc) (rowPieces (dDva d.x) (dInner d.x)) (cbloadStep cl d.x ecc))

/-- R182: the halves of a codebook store exchange roles. -/
def swapHalves (s : State) (cl : Nat) : State :=
  let m := s.dma cl
  s.setDma cl { m with half := 1 - m.half }

/-- CBSWAP (R182). -/
def execCbswap (cl id : Nat) (s : State) : Host.Outcome State Fault Refusal :=
  .next (onDesc s cl id fun d => endDesc (swapHalves s cl) cl d .ok)

/-! Commit (R189, R190). -/

/-- 32 bits of cluster memory. -/
def cmWord (s : State) (cl a : Nat) : Nat := memRead s.mem (cmAddr cl a) 4

/-- 32 bits written, as four bytes of their piece. -/
def cmPutWord (s : State) (cl a x : Nat) : State := cmWrite s cl a ((bytesOf 4 x).map fun b => (b, false))

/-- The entries of the tree: each accepted or rejected; none when one is invalid or poisoned. -/
def treeEntries (s : State) (cl base h z m : Nat) : List Nat → Option (List Nat × List Nat)
  | [] => some ([], [])
  | i :: r =>
    match pageEntry s cl (base + 4 * ((h + i) % z)) with
    | (none, _) => none
    | (some e, _) =>
      match treeEntries s cl base h z m r with
      | none => none
      | some (acc, rej) => some (if m / 2 ^ i % 2 = 1 then (e :: acc, rej) else (acc, e :: rej))

/-- COMMIT with its four parameter words: the state and the status. Every entry is read before any is written. -/
def commitPages (s : State) (cl p0 p1 p2 p3 : Nat) : State × Status :=
  let tab := tableAddr p0
  let ts := tableSize p0
  let first := bits p1 0 32
  let c := bits p1 32 8
  let hdr := bits p3 0 22
  let h := cmWord s cl hdr
  let n := cmWord s cl (hdr + 4)
  let z := cmWord s cl (hdr + 8)
  let base := cmWord s cl (hdr + 12)
  let bad := decide (c < 1 ∨ 64 < c ∨ tab % 4 ≠ 0 ∨ hdr % 16 ≠ 0 ∨ 0x400000 < tab + 4 * ts ∨ 0x400000 < hdr + 16) ||
    (cmRead s cl hdr 16).any (·.2) || decide (z < 1 ∨ 65536 < z ∨ z ≤ h ∨ z < n ∨ 0x400000 < base + 4 * z) ||
    decide (n < c ∨ p2 / 2 ^ c ≠ 0)
  if bad then (s, .invalid)
  else
    match treeEntries s cl base h z p2 (List.range c) with
    | none => (s, .invalid)
    | some (acc, rej) =>
      let s := ((List.range acc.length).zip acc).foldl (fun s e => cmPutWord s cl (tab + 4 * ((first + e.1) % ts)) e.2) s
      let s := ((List.range rej.length).zip rej).foldl (fun s e => cmPutWord s cl (base + 4 * ((h + n + e.1) % z)) e.2) s
      let s := cmPutWord (cmPutWord s cl hdr ((h + c) % z)) cl (hdr + 4) (n - acc.length)
      (incWrap (incWrap s (fCluKvcnt_commits cl) 1) (fCluKvcnt_returned cl) rej.length, .ok)

/-- COMMIT (R189). -/
def execCommit (cl id : Nat) (s : State) : Host.Outcome State Fault Refusal :=
  .next (onDesc s cl id fun d =>
    let (s, st) := commitPages s cl (dP d.x 0) (dP d.x 1) (dP d.x 2) (dP d.x 3)
    endDesc s cl d st)

/-- R110, R175: a request completes: an error is recorded and kept in CLU_DMASTAT, and the flag's count falls. -/
def execRequestComplete (cl id : Nat) (s : State) : Host.Outcome State Fault Refusal :=
  .next (match descOf s cl id with
    | none => s
    | some d =>
      match d.done with
      | none => s
      | some st =>
        let x := s.dma cl
        let s := s.setDma cl { x with active := x.active.filter fun y => decide (y.id ≠ id) }
        let s := if st = .ok then s
          else
            let s := setB (wf s (fCluDmastat_lasterr cl) st.code) (fCluDmastat_derr cl)
            errNote s .fault st (unitCluster cl) (dDva d.x) (dKind d.x) d.core none
        let s := requestDone s d.core d.flag
        if (s.dma cl).active.isEmpty then wake s else s)

end Sys2Proof.Machine
end

