-- ==== Sys2Proof/Machine/Reset.lean ====
section
/-! DEFINITION. Resets of cores, clusters and partitions, and of register domains (R14, R15, R88, R89, R117, R128, R387). -/
namespace Sys2Proof.Machine

/-- Registers of some instances go back to their reset values (R14). -/
def resetRegs (s : State) (hit : RegSpec → Nat → Bool) : State :=
  { s with regs := s.regs.filter fun e =>
      match regFind e.1 with
      | some (r, i) => !hit r i
      | none => false }

/-- Whether a register belongs to a core, by its instance. -/
def RegName.perCore (n : RegName) : Bool :=
  match n with
  | .coreCvt | .coreFpflag | .coreSrstate | .coreId | .coreStat | .coreArrstat0 | .coreArrstat1 | .coreReserr
  | .coreCmstall | .coreEntry | .corePlen | .coreFlags | .corePcfg | .coreDbgctl | .coreDbgsel | .coreDbgdata
  | .coreBundles | .coreHoldcnt => true
  | _ => false

/-- The cluster of a register instance of the cluster domain. -/
def regCluster (n : RegName) (i : Nat) : Nat :=
  if n.perCore then i / 32 else if n = .mshDgen then i / 8 else i

/-- R89, R105, R107: a core reset. Program, entry and length stay (R117); a queued boundary load stays here and is absorbed
by RESET_UNIT. -/
def coreReset (s : State) (c : Nat) : State :=
  let k := s.core c
  let s := { s with latches := terase s.latches c }
  resetRegs (s.setCore c { store := k.store, qload := k.qload })
    fun r i => r.name.perCore && decide (r.dom = .core) && decide (i = c)

/-- A descriptor's command carried out now. -/
def runNow (s : State) (cl : Nat) (d : Desc) : State :=
  let r := match dKind d.x with
    | 1 => execDmaCopy cl d.id [] s
    | 2 => execTcopy cl d.id [] s
    | 3 => execDecode cl d.id [] s
    | 4 => if dDir d.x = 0 then execGather cl d.id [] s else execScatter cl d.id [] s
    | 5 => execCbload cl d.id [] s
    | 6 => execCbswap cl d.id s
    | _ => execCommit cl d.id s
  match r with
  | .next t => t
  | _ => s

/-- R387: descriptors in progress complete, and those not started end with no flag. -/
def drainDma (s : State) (cl : Nat) : State :=
  let s := s.setDma cl { s.dma cl with queue := [] }
  (s.dma cl).active.foldl (fun s d => if d.done.isSome then s else runNow s cl d) s

/-- Bytes of an address range of device memory become zero and clean. -/
def zeroCmem (s : State) (cl : Nat) : State := clearRange s (cmAddr cl 0) 0x400000

/-- R89, R117, R128: a cluster reset: every core with its program, cluster memory, codebook store, trace buffer, router
table and generators. -/
def clusterReset (s : State) (cl : Nat) : State :=
  let s := drainDma s cl
  let s := (List.range 32).foldl (fun s k => coreReset (s.setCore (32 * cl + k) {}) (32 * cl + k)) s
  let s := s.setDma cl { nextId := (s.dma cl).nextId }
  let s := s.setTraceBuf cl { gated := (s.traceBuf cl).gated }
  let s := (zeroCmem s cl).setRouter cl {}
  let u := s.upsets
  let lo := cmAddr cl 0 / 8
  let s := { s with upsets := { prog := u.prog.filter fun e => decide (e.1 / 65536 / 32 ≠ cl)
                                table := u.table.filter fun e => decide (e.1 / 65536 ≠ cl)
                                book := u.book.filter fun e => decide (e.1 / 65536 ≠ cl)
                                cmem := upsetOut u.cmem lo (lo + 0x7FFFF)
                                local' := upsetOut u.local' (262144 * cl) (262144 * cl + 262143) } }
  resetRegs s fun r i => decide (r.dom = .cluster) && decide (regCluster r.name i = cl)

/-- CLU_CFG written and committed (R88, R387). -/
def assignCluster (s : State) (cl p : Nat) (en : Bool) : State :=
  setB (wf (wf s (fCluCfg_part cl) p) (fCluCfg_en cl) (bit en)) (fCluCfg_commit cl)

/-- R387: a cluster reset after which the assignment stands as it did, logged as a firmware write. -/
def clusterResetKeep (s : State) (cl : Nat) : State :=
  let en := rb s (fCluCfg_en cl)
  let p := rf s (fCluCfg_part cl)
  let old := (s.reg (offCluCfg cl)).toNat
  let s := clusterReset s cl
  let s := audit s { kind := 1, part := p, target := tgtOff (offCluCfg cl), old := 0, new := old, mask := 0x1F }
  if en then assignCluster s cl p true else s

/-- R128: the partition-domain registers and counts of a partition. -/
def partitionRegs (s : State) (p : Nat) : State :=
  let x := s.part p
  let s := s.setPart p { errLim := x.errLim, capLim := x.capLim, thmLim := x.thmLim, clkAt := x.clkAt, rc := x.rc, cyc := x.cyc }
  resetRegs s fun r i => decide (r.dom = .partition) && decide (i = p)

end Sys2Proof.Machine
end

