-- ==== Sys2Proof/Machine/Security.lean ====
section
/-! DEFINITION. Rind: sessions, measurements, owners, keys and TDI events (R293 to R309). -/
namespace Sys2Proof.Machine

/-! Queues and functions, as far as owners need them. -/

/-- Attributes of a queue: its registers, or those that came with the entries that a cascade master forwards, kept as queue
64 + i for its queue i (R284). -/
def qAttr (s : State) (q : Nat) : Fwd :=
  if q < 64 then
    { fn := rf s (fCmdSqcfg_fn q), part := rf s (fCmdSqcfg_part q), key := rf s (fCmdSqcfg_key q)
      pasid := if rb s (fCmdSqcfg_pasen q) then some (rf s (fCmdSqcfg_pasid q)) else none }
  else tget {} s.fwd q
def qFn (s : State) (q : Nat) : Nat := (qAttr s q).fn
def qPart (s : State) (q : Nat) : Nat := (qAttr s q).part

/-- The partition a started entry names: the one its parameters name for the opcodes that may act on any (R245), else its
queue's. -/
def entryPart (s : State) (q : Nat) (e : Entry) : Nat :=
  let x := e.pkt
  match pkOpcode x with
  | 0x20 => pk x 8 1
  | 0x21 => pk x 9 1
  | 0x22 => pk x 10 1
  | 0x29 => if pk x 8 1 = 2 then pk x 12 4
            else if pk x 8 1 = 0 then (partOfCluster s (pk x 12 4 / 32)).getD (qPart s q)
            else if pk x 8 1 = 1 then (partOfCluster s (pk x 12 4)).getD (qPart s q)
            else qPart s q
  | 0x1A => if pk x 8 1 = 0 then (partOfCluster s (pk x 10 2 / 32)).getD (qPart s q)
            else if pk x 8 1 = 1 then (partOfCluster s (pk x 10 2)).getD (qPart s q)
            else qPart s q
  | _ => qPart s q

/-- An entry in flight ends at once with a status: its engine is freed, its run stops (R249, R303, R361). -/
def endNow (s : State) (q : Nat) (e : Entry) (st : Status) : State :=
  if e.reply.isSome then s
  else
    match runOf s q e.seq with
    | some p => endRun s p st
    | none =>
      match engineOf s q e.seq with
      | some n =>
        let g := s.engine n
        finish (s.setEngine n { out := g.out }) q e.seq st g.tile g.bytes
      | none => finish s q e.seq st 0 0

/-- Every entry in flight of the queues of a list that meets a condition ends at once. -/
def endEntries (s : State) (qs : List Nat) (hit : Nat → Entry → Bool) (st : Status) : State :=
  qs.foldl (fun s q => ((s.queue q).entries.filter (hit q)).foldl (fun s e =>
    match entryOf s q e.seq with
    | some e => endNow s q e st
    | none => s) s) s

def allQueues : List Nat := List.range 128

/-! Keys (R305, R306). -/

/-- Requests admitted with a slot complete before its key goes: misses are filled (R306). -/
def finishMisses (s : State) (slot : Nat) : State :=
  allSlices.foldl (fun s sl =>
    ((s.slice sl).miss.filter fun m => decide (m.acc.key = slot)).foldl (fun s m =>
      let pas := tagPasid (lineAddr m.line) m.acc.pasid
      (List.range 4).foldl (fun s k =>
        match execMissSectorArrival sl m.line pas k [] s with
        | .next t => t
        | _ => s) s) s) s

/-- R306: the five steps of a destruction: the slot is dying, what was admitted completes, its lines are purged, its key is zeroed in every
engine (number 0, under which no line is stored), and the slot is free. -/
def keyDestroy (s : State) (slot : Nat) : State :=
  let p := rf s (fSecSlot_part slot)
  let s := wf s (fSecSlot_state slot) 2
  let s := finishMisses s slot
  let s := (walkSlices s { op := 4, scope := 2, key := slot } allSlices).1
  let s := { s with slotKey := tset s.slotKey slot 0 }
  let s := wf s (fSecSlot_state slot) 0
  audit s { kind := 6, part := p, target := tgtOp 0x22 slot, old := 1, new := 0 }

/-- R305: a new key, known to no register. -/
def newKey (s : State) (slot : Nat) : State :=
  { s with slotKey := tset s.slotKey slot s.keyCount, keyCount := s.keyCount + 1 }

/-- R305: a key generated; the slot's generation count advances. -/
def keyInstall (s : State) (slot : Nat) : State := incWrap (newKey s slot) (fSecSlot_gen slot) 1

/-- R305: KEY generate once accepted. -/
def keyGenerate (s : State) (slot p : Nat) : State :=
  let s := audit s { kind := 6, part := p, target := tgtOp 0x22 slot, old := 0, new := 1 }
  let s := keyInstall s slot
  let s := wf (wf s (fSecSlot_state slot) 1) (fSecSlot_part slot) p
  if confidential s p then hwf s (fSecPbind_dkey p) slot else s

/-- Slots bound to a partition. -/
def slotsOf (s : State) (p : Nat) : List Nat :=
  (List.range 63).filter fun k => decide (rf s (fSecSlot_state k) ≠ 0) && decide (rf s (fSecSlot_part k) = p)

def destroyAll (s : State) (p : Nat) : State := (slotsOf s p).foldl keyDestroy s

/-! Owners (R301 to R303). -/

def tdiOf (s : State) (p : Nat) : Nat := rf s (fSecPbind_tdi p)

/-- A TDI transition with its audit entry (R312). -/
def setTdi (s : State) (p st : Nat) : State :=
  if tdiOf s p = st then s
  else
    let s := audit s { kind := 5, fn := p + 1, part := p, target := tgtOff (offSecPbind p), old := tdiOf s p, new := st }
    irq (wf s (fSecPbind_tdi p) st) 0 68

/-- Clusters reset, with their assignment kept (log entry 31), and scratch blocks zeroed. -/
def clearPartition (s : State) (p : Nat) : State :=
  let s := (clustersOf s p).foldl clusterResetKeep s
  (blocksOf s p).foldl zeroBlock s

/-- R303: an owner ends. but is the entry that caused it, which goes on. -/
def ownerEnd (s : State) (p : Nat) (but : Option (Nat × Nat)) (after : Nat) : State :=
  let s := endEntries s allQueues (fun q e => decide (some (q, e.seq) ≠ but) && decide (entryPart s q e = p)) .aborted
  let s := endRun s p .aborted
  let s := (clustersOf s p).foldl drainDma s
  let s := (coresOf s p).foldl coreReset s
  let s := destroyAll s p
  let s := partitionRegs (clearPartition s p) p
  let s := clrB (clrB (clrB s (fSecPbind_conf p)) (fSecPbind_dbg p)) (fSecPbind_trc p)
  let s := { s with sec := { s.sec with owners := terase s.sec.owners p, reports := terase s.sec.reports p
                                        loads := terase s.sec.loads p } }
  setTdi s p after

/-- R301, R304: a write or command that R304 refuses for a confidential partition puts its TDI into ERROR, and the owner
ends. -/
def refusedFor (s : State) (p : Nat) (but : Option (Nat × Nat)) : State := ownerEnd s p but 3

/-- Masks of what a partition holds (R302). -/
def maskOf (xs : List Nat) : Nat := xs.foldl (fun m i => Nat.lor m (2 ^ i)) 0
def clusterMask (s : State) (p : Nat) : Nat := maskOf (clustersOf s p)
def portsOf (s : State) (p : Nat) : List Nat :=
  (List.range 8).filter fun i => rb s (fLnkPcfg_own i) && decide (rf s (fLnkPcfg_part i) = p)
def grantsOf (s : State) (p : Nat) : List Nat :=
  (List.range 384).filter fun b => decide (rf s (fSecFtgrant_owner b) = p)

/-- A measurement block (Table 11-2); zero where it holds nothing. The layouts of blocks 5, 6 and 16 + p are not the manual's (log
entry 32). -/
def measBlock (s : State) (i : Nat) : BitVec 384 :=
  if i = 5 then Config.blockDigest 5 (((List.range 6).map fun k => (tget (0, 0) s.boot.svnMin k).1) ++ [Config.disabledFeatures.toNat])
  else if i = 6 then Config.blockDigest 6 [selfPos s, rf s fLnkCasc_master, rf s fLnkCasc_topo, rf s fLnkCasc_ndev]
  else if i < 16 then tget 0 s.sec.meas i
  else if i < 32 then
    match tfind s.sec.reports (i - 16) with
    | some r => Config.blockDigest i (r.bars.flatMap (fun b => [b.1, b.2]) ++ [r.part, r.clusters, r.ports, r.scratch, r.far, r.pasid] ++
        r.svns ++ r.meas.map BitVec.toNat)
    | none => 0
  else tget 0 s.sec.loads (i - 32)

/-- The interface report of VFp's TDI (R302). -/
def ifReport (s : State) (p : Nat) : IfReport :=
  { bars := [vfBar s p 0, vfBar s p 2], part := p, clusters := clusterMask s p, ports := maskOf (portsOf s p)
    scratch := maskOf (blocksOf s p), far := maskOf (grantsOf s p), pasid := rf s (fSecPbind_pasid p)
    svns := (List.range 6).map fun k => (tget (0, false) s.boot.svns k).1
    meas := (List.range 6).map fun i => measBlock s (i + 1) }

/-! DOE. -/

/-- SPDM is answered from the end of RIND (R371). -/
def spdmUp (s : State) : Bool := decide (3 ≤ rf s fBseBoot_stage ∧ rf s fBseBoot_stage ≤ 0xA)

/-- Rind's answer; vector 69 tells of it (Table 9-9). In a secured session it is encrypted and authenticated under the session's key
(R298). -/
def doeAnswer (s : State) (r : DoeRsp) : State :=
  let k := (s.sec.sessions.find? fun x => decide (x.id = r.sid)).map fun x => (x.key, x.gen)
  irq { s with sec := { s.sec with doe := [{ r with sealedBy := k }] } } 0 69

def doeOk (s : State) (sid : Nat) (ok : Bool) : State := doeAnswer s { sid := sid, ok := ok }

def sessionOpen (s : State) (sid : Nat) : Bool := s.sec.sessions.any fun x => decide (x.id = sid)

/-- A message that Rind takes only inside a secured session (R300). -/
def inSession (s : State) (sid : Nat) (f : State → State) : State :=
  if !spdmUp s then s
  else if sessionOpen s sid then f s
  else doeOk s sid false

/-! Rind's keys (R293). -/

/-- R293: identity keys from the device secret, alias keys from it and the measurement of Rind's firmware, block 2. -/
def deriveKeys (s : State) : State :=
  let m := tget 0 s.sec.meas 2
  let d := Config.deviceSecret
  let k : RindKeys := { idEc := Config.identityKey false d, idMl := Config.identityKey true d
                        alEc := Config.aliasKey false d m, alMl := Config.aliasKey true d m }
  { s with sec := { s.sec with keys := some k } }

/-- The identity and alias certificates of a kind, ML-DSA or ECDSA (R293, Table 11-3). -/
def certChain (s : State) (ml : Bool) : List (List Byte) :=
  match s.sec.keys with
  | some k =>
    let idk := if ml then k.idMl else k.idEc
    [Config.caCert ml (Config.publicKey ml idk), Config.aliasCert ml idk (Config.publicKey ml (if ml then k.alMl else k.alEc))]
  | none => []

/-- An alias signature of Rind over a text, none before the keys are derived. -/
def aliasSign (s : State) (ml : Bool) (text : List Byte) : Option (List Byte) :=
  s.sec.keys.map fun k =>
    if ml then bytesOf 4627 (Config.mldsaSign k.alMl text).toNat else bytesOf 96 (Config.ecdsaSign k.alEc text).toNat

/-- KEY_EXCHANGE (R298): at most 17 sessions; a further one receives ERROR Busy. The answer is signed over the transcript. -/
def execKeyExchange (x : KeyEx) (s : State) : Host.Outcome State Fault Refusal :=
  let sid := x.sid
  .next (if !spdmUp s then s
    else if 17 ≤ s.sec.sessions.length then doeAnswer s { sid := sid, ok := false, body := .busy }
    else if sessionOpen s sid then doeOk s sid false
    else
      let s := audit s { kind := 5, new := sid }
      let y : Session := { id := sid, seen := s.devtime.toNat, key := s.keyCount, transcript := x.transcript }
      let s := { s with sec := { s.sec with sessions := s.sec.sessions ++ [y] }, keyCount := s.keyCount + 1 }
      doeAnswer s { sid := sid, ok := true, sig := aliasSign s false (digestBytes x.transcript) })

/-- Partitions owned by a session. -/
def ownedBy (s : State) (sid : Nat) : List Nat := (s.sec.owners.filter fun o => decide (o.2 = sid)).map (·.1)

/-- R301: a session ends, and with it the owners behind it. -/
def sessionEnd (s : State) (sid : Nat) : State :=
  let s := audit s { kind := 5, old := sid }
  let s := (ownedBy s sid).foldl (fun s p => ownerEnd s p none 0) s
  { s with sec := { s.sec with sessions := s.sec.sessions.filter fun x => decide (x.id ≠ sid) } }

/-- END_SESSION (R301). -/
def execEndSession (sid : Nat) (s : State) : Host.Outcome State Fault Refusal :=
  .next (inSession s sid fun s => doeOk (sessionEnd s sid) sid true)

/-- HEARTBEAT (R298). -/
def execHeartbeat (sid : Nat) (s : State) : Host.Outcome State Fault Refusal :=
  .next (inSession s sid fun s =>
    let renew (x : Session) : Session := if x.id = sid then { x with seen := s.devtime.toNat } else x
    doeOk { s with sec := { s.sec with sessions := s.sec.sessions.map renew } } sid true)

/-- Three heartbeat periods of 10 s (Table 11-3). -/
def heartbeatLimit : Nat := 30 * 10 ^ 9

/-- HEARTBEAT_LOSS (R298): a session that has missed three heartbeats is ended. -/
def execHeartbeatLoss (sid : Nat) (s : State) : Host.Outcome State Fault Refusal :=
  .next (if s.sec.sessions.any (fun x => decide (x.id = sid ∧ x.seen + heartbeatLimit ≤ s.devtime.toNat))
    then sessionEnd s sid else s)

/-- Indices of Table 11-2. -/
def measIndexOk (i : Nat) : Bool := decide (1 ≤ i ∧ i ≤ 6) || decide (16 ≤ i ∧ i < 48)
def allMeas : List Nat := (List.range 48).filter measIndexOk

/-- The blocks that an index asks for; in recovery only block 1 (R386). -/
def measWanted (s : State) (idx : Nat) : List Nat :=
  if rf s fBseBoot_stage = 0xE then (if idx = 1 ∨ idx = 0xFF then [1] else [])
  else if idx = 0xFF then allMeas
  else if measIndexOk idx then [idx] else []

/-- Blocks with their digests, signed by the ECDSA alias key. -/
def answerBlocks (s : State) (sid : Nat) (is : List Nat) : State :=
  let bl := is.map fun i => (i, measBlock s i)
  doeAnswer s { sid := sid, ok := true, blocks := bl, sig := aliasSign s false (bl.flatMap fun b => digestBytes b.2) }

/-- R298: a key update gives the session the next generation of its key. -/
def keyUpdate (s : State) (sid : Nat) : State :=
  let next (x : Session) : Session := if x.id = sid then { x with gen := x.gen + 1 } else x
  { s with sec := { s.sec with sessions := s.sec.sessions.map next } }

/-- R298: part n of the last answer. The size of a part is not the manual's (log entry 92). -/
def answerPart (s : State) (sid n : Nat) : State :=
  match s.sec.doe with
  | [r] => if r.sid = sid ∧ r.ok then doeAnswer s { r with body := match r.body with | .none => .part n | b => b } else doeOk s sid false
  | _ => doeOk s sid false

/-- The answers of Table 11-3, and those TDISP messages that only ask (R301). -/
def spdmAnswer (s : State) (sid : Nat) (rq : SpdmReq) : State :=
  match rq with
  | .measurements idx => if (measWanted s idx).isEmpty then doeOk s sid false else answerBlocks s sid (measWanted s idx)
  | .challenge slot nonce =>
    if slot ≠ 0 then doeOk s sid false
    else doeAnswer s { sid := sid, ok := true, sig := aliasSign s false (bytesOf 32 nonce.toNat) }
  | .certificate slot =>
    if slot ≠ 0 then doeOk s sid false else doeAnswer s { sid := sid, ok := true, body := .certs (certChain s false) }
  | .version => doeAnswer s { sid := sid, ok := true, body := .version 1 3 }
  | .capabilities => doeAnswer s { sid := sid, ok := true
                                   body := .capabilities [.cert, .chal, .meas, .keyEx, .encrypt, .mac, .keyUpd, .hbeat, .chunk] }
  | .algorithms => doeAnswer s { sid := sid, ok := true, body := .algorithms [.ecdsaP384, .sha384, .ecdheSecp384r1, .aes256Gcm] }
  | .keyUpdate => inSession s sid fun s => doeOk (keyUpdate s sid) sid true
  | .chunk n => answerPart s sid n
  | .interfaceReport n => inSession s sid fun s =>
    match tfind s.sec.reports n with
    | some r => doeAnswer s { sid := sid, ok := true, body := .report r }
    | none => doeOk s sid false
  | .interfaceState n => inSession s sid fun s => doeAnswer s { sid := sid, ok := true, body := .tdi (tdiOf s n) }
  | .tdisp n code => inSession s sid fun s =>
    doeAnswer s { sid := sid, ok := true, body := .text (Config.tdispAnswer code (tdiOf s n)) }

/-- GET_MEASUREMENTS (R297, R298, R301, R386): what SPDM asks of Rind without a row of its own; the Starter answers for block 1 alone in
RECOVERY. -/
def execGetMeasurements (sid : Nat) (rq : SpdmReq) (s : State) : Host.Outcome State Fault Refusal :=
  .next (if spdmUp s then spdmAnswer s sid rq
    else if rf s fBseBoot_stage = 0xE then
      match rq with
      | .measurements _ => spdmAnswer s sid rq
      | _ => doeOk s sid false
    else s)

/-- The transcript hash of a session (R299). -/
def transcriptOf (s : State) (sid : Nat) : BitVec 384 :=
  ((s.sec.sessions.find? fun x => decide (x.id = sid)).map (·.transcript)).getD 0

/-- PQ_QUOTE (R299): the ML-DSA certificates, and the ML-DSA alias signature over the session's transcript hash with blocks 1 to 6. -/
def execPqQuote (sid : Nat) (s : State) : Host.Outcome State Fault Refusal :=
  .next (inSession s sid fun s =>
    let bl := (List.range 6).map fun i => (i + 1, measBlock s (i + 1))
    doeAnswer s { sid := sid, ok := true, blocks := bl, body := .certs (certChain s true)
                  sig := aliasSign s true (digestBytes (transcriptOf s sid) ++ bl.flatMap fun b => digestBytes b.2) })

/-- IDE_KM (R300): Rind draws the key of a stream, 0 the link's and n + 1 that of VFn. -/
def execIdeKm (sid stream : Nat) (s : State) : Host.Outcome State Fault Refusal :=
  .next (inSession s sid fun s =>
    if 17 ≤ stream then doeOk s sid false
    else doeOk { s with sec := { s.sec with ide := tset s.sec.ide stream s.keyCount }, keyCount := s.keyCount + 1 } sid true)

/-- SET_POLICY (R304): only the owner's session sets dbg and trc. -/
def execSetPolicy (sid p : Nat) (dbg trc : Bool) (s : State) : Host.Outcome State Fault Refusal :=
  .next (inSession s sid fun s =>
    if tfind s.sec.owners p = some sid then
      let old := rf s (fSecPbind_dbg p) * 2 ^ 60 + rf s (fSecPbind_trc p) * 2 ^ 59
      let s := audit s { kind := 1, part := p, target := tgtOff (offSecPbind p), old := old
                         new := bit dbg * 2 ^ 60 + bit trc * 2 ^ 59, mask := 3 * 2 ^ 59 }
      doeOk (wf (wf s (fSecPbind_dbg p) (bit dbg)) (fSecPbind_trc p) (bit trc)) sid true
    else doeOk s sid false)

/-- R301: a partition is assigned when it holds a cluster. -/
def assigned (s : State) (p : Nat) : Bool := !(clustersOf s p).isEmpty

/-- LOCK_INTERFACE_REQUEST (R301, R302). -/
def execLockInterfaceRequest (sid n : Nat) (s : State) : Host.Outcome State Fault Refusal :=
  .next (inSession s sid fun s =>
    if 16 ≤ n ∨ tdiOf s n ≠ 0 ∨ ¬ assigned s n ∨ ¬ stopped s n then doeOk s sid false
    else
      let s := clearPartition (destroyAll s n) n
      let s := setB (clrB (clrB s (fSecPbind_dbg n)) (fSecPbind_trc n)) (fSecPbind_conf n)
      let s := { s with sec := { s.sec with owners := tset s.sec.owners n sid, loads := terase s.sec.loads n } }
      let s := { s with sec := { s.sec with reports := tset s.sec.reports n (ifReport s n) } }
      doeOk (setTdi s n 1) sid true)

/-- START_INTERFACE_REQUEST (R301). -/
def execStartInterfaceRequest (sid n : Nat) (s : State) : Host.Outcome State Fault Refusal :=
  .next (inSession s sid fun s =>
    if n < 16 ∧ tdiOf s n = 1 ∧ tfind s.sec.owners n = some sid then doeOk (setTdi s n 2) sid true
    else doeOk s sid false)

/-- STOP_INTERFACE_REQUEST (R301): the owner ends. -/
def execStopInterfaceRequest (sid n : Nat) (s : State) : Host.Outcome State Fault Refusal :=
  .next (inSession s sid fun s =>
    if n < 16 ∧ (tfind s.sec.owners n = some sid ∨ tdiOf s n = 3) then
      doeOk (if tdiOf s n = 3 then setTdi s n 0 else ownerEnd s n none 0) sid true
    else doeOk s sid false)

/-! Loads (R309). -/

/-- R309: block 32 + n is extended at a load into a confidential partition. -/
def extendLoads (s : State) (p opcode : Nat) (img : List Byte) : State :=
  if confidential s p then
    let m := sha384 (digestBytes (tget 0 s.sec.loads p) ++ BitVec.ofNat 8 opcode :: digestBytes (sha384 img))
    { s with sec := { s.sec with loads := tset s.sec.loads p m } }
  else s

end Sys2Proof.Machine
end

