-- ==== Sys2Proof/Machine/Partition.lean ====
section
/-! DEFINITION. Steps of a partition: hold, step start and step boundary, boundary loads, clocks at boundaries (R90, R91,
R112, R114, R115, R127, R128, R134, R190, R246, R274, R325, R350, R353). -/
namespace Sys2Proof.Machine

/-! Hold. -/

/-- PARTITION_HOLD_START (R112): the line's rise reaches the cores and routers one hold lead after it. -/
def execPartitionHoldStart (p : Nat) (s : State) : Host.Outcome State Fault Refusal :=
  let x := s.part p
  .next (match x.levels with
    | true :: r => s.setPart p { x with levels := r, leads := x.leads.drop 1, held := true }
    | _ => s)

/-- PARTITION_HOLD_END. -/
def execPartitionHoldEnd (p : Nat) (s : State) : Host.Outcome State Fault Refusal :=
  let x := s.part p
  .next (match x.levels with
    | false :: r => s.setPart p { x with levels := r, leads := x.leads.drop 1, held := false }
    | _ => s)

/-! Clocks (R350, R353). -/

/-- Whether a PLL of a quadrant runs locked: a domain of the quadrant selects it, or it was started and has locked (R349). -/
def pllLocked (s : State) (q clk : Nat) : Bool :=
  ((List.range 4).any fun j => decide (domClk s (4 * q + j) = clk)) ||
    match tfind s.pwr.plls (4 * q + clk) with | some t => decide (t ≤ s.devtime.toNat) | none => false

/-- R350: a partition's domains have the voltage of a clock, and its PLLs are locked. -/
def riseReady (s : State) (p clk : Nat) : Bool :=
  (domainsOf s p).all fun d => decide (planMv s d clk ≤ rf s (fPwrDomctl_mv d)) && pllLocked s (d / 4) clk

/-- R349, R351: voltages start towards a higher clock, and PLLs that are off start, to lock 20 µs later. -/
def startRise (s : State) (p clk : Nat) : State :=
  (domainsOf s p).foldl (fun s d =>
    let s := if rf s (fPwrDomctl_mv d) < planMv s d clk then slewTo s d (planMv s d clk) 100 else s
    if pllLocked s (d / 4) clk || (tfind s.pwr.plls (4 * (d / 4) + clk)).isSome then s
    else { s with pwr := { s.pwr with plls := tset s.pwr.plls (4 * (d / 4) + clk) (s.devtime.toNat + 20000) } }) s

/-- A partition's clock and the voltages of its domains change; the boundary lasts 0.25 µs longer (R350). -/
def setClk (s : State) (p clk : Nat) : State :=
  let s := wf s (fPwrPclk_cur p) clk
  let ds := domainsOf s p
  let s := ds.foldl (fun s d => slewTo s d (planMv s d clk) 100) s
  let s := { s with pwr := { s.pwr with plls := s.pwr.plls.filter fun e =>
    !(ds.any (fun d => decide (d / 4 = e.1 / 4)) && decide (e.2 ≤ s.devtime.toNat)) } }
  s.setPart p { s.part p with clkAt := s.devtime.toNat, rise := false, dwell := 500 }

/-- R350: at a boundary a lower value takes effect in full; a higher one by one step, a millisecond after the last change,
once the floor has been raised, its voltages reached and its PLLs locked, and while no ramp limiting applies. -/
def applyClock (s : State) (p : Nat) : State :=
  let s := showLimits s p
  let x := s.part p
  let lim := rf s (fPwrPclk_lim p)
  let cur := rf s (fPwrPclk_cur p)
  if cur < lim then setClk s p lim
  else if lim = cur then (domainsOf s p).foldl (fun s d => slewTo s d (planMv s d cur) 100) s
  else if x.rise ∧ x.clkAt + 10 ^ 6 ≤ s.devtime.toNat ∧ rb s (fPwrPclk_ramp p) = false ∧ riseReady s p (cur - 1) then
    setClk s p (cur - 1)
  else s

/-- R353: predicted increase of a partition at a step, in mW. -/
def pestAt (s : State) (p clk : Nat) : Nat :=
  match tfind s.pwr.pests (4 * p + clk) with
  | some w => w
  | none => 1500 * (clustersOf s p).length * clkRate clk / 20

def capLimitMw (s : State) : Nat := 1000 * rf s fPwrCap_limit

/-- R353: the highest step at or below a limit whose prediction fits under the cap. -/
def startStepOf (s : State) (p lim : Nat) : Nat :=
  (([0, 1, 2, 3].filter fun c => decide (lim ≤ c)).find? fun c => decide (s.pwr.load + pestAt s p c ≤ capLimitMw s)).getD 3

/-- R350: the step that a stopped partition starts at, and a paused one resumes at, before the cap is looked at: a lower limit in
full, a higher one by one step and no sooner than a millisecond after the last change (log entry 74). -/
def startLimit (s : State) (p : Nat) : Nat :=
  let lim := rf s (fPwrPclk_lim p)
  let cur := rf s (fPwrPclk_cur p)
  if cur ≤ lim then lim else if (s.part p).clkAt + 10 ^ 6 ≤ s.devtime.toNat then cur - 1 else cur

/-- R350, R353: the step at which a RUN_STEPS starts. A paused partition keeps its clock. -/
def startClk (s : State) (p : Nat) : Nat :=
  if (s.part p).paused then rf s (fPwrPclk_cur p) else startStepOf s p (startLimit s p)

/-- R353: what F must reach before a start, a resume or a clock rise. -/
def floorTarget (s : State) (p clk : Nat) : Nat :=
  min (s.pwr.load + min 800000 (pestAt s p clk)) (max s.pwr.load (capLimitMw s))

/-! Step start. -/

/-- R131: lane-flits of the step before that are still to be delivered keep their places in its counts: those of an earlier cycle
first, then those of a lower lane. -/
def Router.countOff (r : Router) : Router :=
  let one (r : Router) (due : Nat) (e : Nat × List Dlv) : Router :=
    let (r, l) := e.2.foldl (fun (a : Router × List Dlv) x =>
      if x.due = due ∧ x.idx.isNone then
        let i := tget 0 a.1.gcount x.gen
        ({ a.1 with gcount := tset a.1.gcount x.gen (i + 1) }, a.2 ++ [{ x with idx := some i }])
      else (a.1, a.2 ++ [x])) (r, [])
    { r with dlv := tset r.dlv e.1 l }
  let r := (List.range 4).foldl (fun r due => r.dlv.foldl (fun r e => one r due e) r) r
  { r with gcount := [] }

/-- R90, R126, R127, R128: the first core cycle of a step. -/
def startStep (s : State) (p : Nat) : State :=
  let s := (coresOf s p).foldl (fun s c =>
    let k := s.core c
    let s := s.setCore c { k with pc := rf s (fCoreEntry_entry c), loops := [], stall := false
                                  ended := decide (rf s (fCorePlen_len c) = 0) }
    traceEv s c 1 ((s.part p).step.toNat % 2 ^ 32)) s
  let s := (clustersOf s p).foldl (fun s cl =>
    let r := s.router cl
    s.setRouter cl (if r.has then { r.countOff.enter 0 with loops := [], done := false } else { r with done := true })) s
  let x := s.part p
  s.setPart p { x with m := 0, inStep := true, paused := false, goAt := none, phase := 0 }

/-- Whether a load waits for the partition's boundary (R114, R134). -/
def loadsQueued (s : State) (p : Nat) : Bool :=
  (coresOf s p).any (fun c => (s.core c).qload.isSome) || (clustersOf s p).any fun cl => (s.router cl).qsched.isSome

/-- Core cycles that the queued loads of a boundary need at least: those of the longest image (R114, R115, R134). -/
def loadCycles (s : State) (p : Nat) : Nat :=
  let a := (coresOf s p).map fun c => match (s.core c).qload with | some l => l.bundles.length | none => 0
  let b := (clustersOf s p).map fun cl => match (s.router cl).qsched with | some q => q.1.length | none => 0
  (a ++ b).foldl max 0

/-- R190: KV_COMMIT entries that waited for the boundary. -/
def kvBoundary (s : State) (p : Nat) : State :=
  let l := (s.part p).kvq
  let s := s.setPart p { s.part p with kvq := [] }
  l.foldl (fun s e =>
    match entryOf s e.1 e.2 with
    | none => s
    | some en =>
      let y := en.pkt
      let (s, st) := commitPages s (pk y 8 2) (pk y 16 8) (pk y 24 8) (pk y 32 8) (pk y 40 8)
      finish (setPast s e.1 e.2) e.1 e.2 st 0 0) s

/-- The next step begins, after the KV_COMMIT entries that wait for it (R190). -/
def enterStep (s : State) (p : Nat) : State := startStep (kvBoundary s p) p

/-- What leads to a step: queued loads, then in a cascade the barrier of R274, else the step. -/
def beginStep (s : State) (p : Nat) : State :=
  if loadsQueued s p then s.setPart p { s.part p with loading := true, loadLeft := loadCycles s p }
  else if isCascade s p then s.emit [.readyMarker p (s.part p).step.toNat (rf s fLnkCasc_pos)]
  else enterStep s p

/-- Loads that are queued while a boundary's loads are written make it longer (R115). -/
def stretchLoads (s : State) (p n : Nat) : State :=
  let x := s.part p
  if x.loading then s.setPart p { x with loadLeft := max x.loadLeft n } else s

/-- A load written to a core: bundles, length and entry (R114). -/
def writeProgram (s : State) (c : Nat) (bs : List (BitVec 128)) (entry : Nat) : State :=
  let k := s.core c
  let store := (bs.zipIdx).foldl (fun t x => tset t x.2 x.1) k.store
  let s := { s.setCore c { k with store := store } with
    upsets := { s.upsets with prog := s.upsets.prog.filter fun e => !decide (65536 * c ≤ e.1 ∧ e.1 < 65536 * c + bs.length) } }
  hwf (wf s (fCorePlen_len c) bs.length) (fCoreEntry_entry c) entry

/-- A load written to a router: table and generators (R134). -/
def writeSchedule (s : State) (cl : Nat) (es : List (BitVec 512)) (gens : List (BitVec 64)) : State :=
  let r := s.router cl
  let s := s.setRouter cl { r with sched := (es.zipIdx).map fun x => (x.2, x.1), has := true }
  let s := { s with upsets := { s.upsets with table := s.upsets.table.filter fun e => decide (e.1 / 65536 ≠ cl) } }
  let s := { s with links := { s.links with ports := s.links.ports.map fun y =>
    (y.1, if (gateways[y.1]?).map (·.1) = some cl then { y.2 with noSched := false } else y.2) } }
  ((List.range 8).zip gens).foldl (fun s g => s.setReg (offMshDgen (8 * cl + g.1)) (BitVec.ofNat 256 g.2.toNat)) s

/-- R115: every queued load of the partition. -/
def writeLoads (s : State) (p : Nat) : State :=
  let s := (coresOf s p).foldl (fun s c =>
    match (s.core c).qload with
    | some l => onCore (writeProgram s c l.bundles l.entry) c fun k => { k with qload := none }
    | none => s) s
  (clustersOf s p).foldl (fun s cl =>
    match (s.router cl).qsched with
    | some (es, gens) =>
      let s := writeSchedule s cl es gens
      s.setRouter cl { s.router cl with qsched := none }
    | none => s) s

/-! Domains that a run needs (R348). -/

/-- Compute and near-tier domains of a partition that are not ON. -/
def asleepDomains (s : State) (p : Nat) : List Nat :=
  let ds := domainsOf s p
  let dies := (ds.map (· / 16)).eraseDups
  (ds ++ dies.map (64 + ·) ++ dies.map (68 + ·)).filter fun d => decide (rf s (fPwrDomctl_state d) ≠ 0)

/-- FLOOR_REACHED (R353): F has reached what a start, a resume or a clock rise of the partition needs. -/
def execFloorReached (p : Nat) (s : State) : Host.Outcome State Fault Refusal :=
  let x := s.part p
  .next (match x.run with
    | none => s
    | some r =>
      if rb s (fPwrPclk_ramp p) then s
      else if r.waitFloor then
        if !(asleepDomains s p).isEmpty then s
        else
          let clk := startClk s p
          if s.pwr.floor < floorTarget s p clk then s
          else if clk < rf s (fPwrPclk_cur p) ∧ riseReady s p clk = false then startRise s p clk
          else
            let s := s.setPart p { x with run := some { r with waitFloor := false, rel := none } }
            let s := { s with pwr := { s.pwr with starts := tset s.pwr.starts p (s.devtime.toNat, s.pwr.load) } }
            let s := if x.paused || rf s (fPwrPclk_cur p) = clk then s else setClk s p clk
            let s := beginStep s p
            match r.rel with
            | some e => finish (setPast s e.1 e.2) e.1 e.2 .ok 0 x.step.toNat
            | none => s
      else if rf s (fPwrPclk_lim p) < rf s (fPwrPclk_cur p) then
        if floorTarget s p (rf s (fPwrPclk_cur p) - 1) ≤ s.pwr.floor then
          startRise (s.setPart p { x with rise := true }) p (rf s (fPwrPclk_cur p) - 1)
        else s
      else s)

/-! Step boundary. -/

/-- R282: whether a gateway's receive queue of a partition's port still holds a lane-flit. -/
def flitsLeft (s : State) (p : Nat) : Bool :=
  (portsOf s p).any fun b =>
    match gateways[b]? with
    | some (cl, port) => (List.range 4).any fun j => !((s.router cl).lane (4 * port + j)).skid.isEmpty
    | none => false

/-- The gateway lane of a link port: cluster and input lane (Table 5-2). -/
def gatewayLane (b j : Nat) : Nat × Nat :=
  let g := (gateways[b]?).getD (0, 0)
  (g.1, 4 * g.2 + j)

def linkPort (s : State) (p : Nat) : LinkPort := tget {} s.links.ports p
def setLinkPort (s : State) (p : Nat) (x : LinkPort) : State :=
  { s with links := { s.links with ports := tset s.links.ports p x } }

/-- R289, R290: an aborted step that this device has completed, as its last GO names it, is not a completed one: its count is taken
back. -/
def Part.undone (x : Part) : Part :=
  match x.goSeen with
  | some (k, _) =>
    if x.step.toNat = k ∧ 1 ≤ k ∧ (x.run.isNone ∨ (x.run.any fun r => decide (1 ≤ r.ran)) = true) then
      { x with step := x.step - 1, run := x.run.map fun r => { r with ran := r.ran - 1 } }
    else x
  | none => x

/-- R289: the abort of a step in progress: routers and cores stop, cores are reset, the partition's link queues are emptied, and
routers return to entry 0. The run stays on the master; a member's ends until the next GO. -/
def stepAbort (s : State) (p : Nat) : State :=
  let x := (s.part p).undone
  let s := s.setPart p { x with inStep := false, fault := none, line := false, held := false, levels := [], leads := [], linkWait := [], linkPause := []
                                single := false, goAt := none, readyPos := [], ownReady := false, goWait := false
                                aborted := x.run.isSome && !isMember s, abortAt := s.devtime.toNat, acks := []
                                loading := false, bound := false, run := if isMember s then none else x.run }
  let s := (coresOf s p).foldl coreReset s
  let s := (clustersOf s p).foldl (fun s cl =>
    let r := s.router cl
    s.setRouter cl ({ r with loops := [], done := false, gcount := [], lanes := [], press := [], dlv := [] }.enter 0)) s
  (portsOf s p).foldl (fun s b =>
    setLinkPort { s with gwTx := tset s.gwTx b [] } b { linkPort s b with transit := [], paused := [] }) s

/-! Aborts of cascade steps (R280, R282, R289). -/

def portUp (s : State) (p : Nat) : Bool := decide (rf s (fLnkPstat_state p) = 2)
def upPorts (s : State) : List Nat := (List.range 8).filter (portUp s)

/-- A marker message leaves in the next frame of a port. -/
def sendMark (s : State) (p : Nat) (m : Mark) : State :=
  let x := linkPort s p
  setLinkPort s p { x with newMarks := x.newMarks ++ [m] }

/-- A marker message on every port that is up. -/
def floodMark (s : State) (m : Mark) : State := (upPorts s).foldl (fun s p => sendMark s p m) s

/-- Failed ports of a partition as a mask. -/
def failedPorts (s : State) (p : Nat) : Nat :=
  ((portsOf s p).filter fun b => decide (rf s (fLnkPstat_state b) = 3 ∨ rf s (fLnkPstat_state b) = 4)).foldl (fun m b => m + 2 ^ b) 0

/-- Whether a step of a cascade partition is in progress at this device: a run here, or a READY sent and no GO since (R289). -/
def stepOpen (s : State) (p : Nat) : Bool :=
  let x := s.part p
  isCascade s p && (x.run.isSome || (isMember s && x.ownReady)) && !x.paused && !x.aborted

/-- R290: a member tells the master of an abort, with the ports of the partition that have failed. -/
def tellAbort (s : State) (p : Nat) : State := tellMaster s 0x4E (p + 16 * failedPorts s p + 2 ^ 12 * selfPos s) noFlits

/-- R289: the step of a cascade partition is aborted, and every other device is told; a member tells the master that it has (R290). -/
def abortAndTell (s : State) (p : Nat) : State :=
  if stepOpen s p then
    let s := tellAbort (floodMark (stepAbort s p) (.abort p)) p
    { s with links := { s.links with mbx := { s.links.mbx with notices := s.links.mbx.notices ++ [p] } } }
  else s

/-- A step that this device cannot go on with ends the partition's RUN_STEPS with a status and without a detour (R280, R282): on a
member the master is told. -/
def failRun (s : State) (p : Nat) (st : Status) : State :=
  if isMember s && isCascade s p then tellMaster (abortAndTell s p) 0x49 (p + 16 * st.code) noFlits
  else endRun (if isCascade s p then abortAndTell s p else stepAbort s p) p st

/-- What ends a run at a boundary, or keeps it there: an abort, a quarantine, the step count, a HOLD (R246, R253, R277,
R325); go is what starts the next step. -/
def boundaryDecide (s : State) (p : Nat) (go : State → State) : State :=
  match (s.part p).run with
  | none => s
  | some r =>
    if r.abort then endRun s p .aborted
    else if rb s (fErrPart_quar p) then endRun (setB s (fErrPart_qact p)) p .aborted
    else if r.steps ≠ 0 ∧ r.steps ≤ r.ran then endRun (setPast s r.q r.seq) p .ok
    else
      let x := s.part p
      if x.holdReqs.isEmpty then go s
      else
        let s := s.setPart p { x with paused := true, holdReqs := [] }
        x.holdReqs.foldl (fun s h => finish (setPast s h.1 h.2) h.1 h.2 .ok 0 x.step.toNat) s

/-- What follows a boundary once its loads are written. In a cascade what ends a run waits for every device (R274, R277). -/
def boundaryEnd (s : State) (p : Nat) : State :=
  match (s.part p).fault with
  | some st => endRun s p st
  | none => if isCascade s p then beginStep s p else boundaryDecide s p fun s => beginStep s p

/-- BOUNDARY_LOADS_DONE (R115): the last queued load is written. At a step boundary its outcome follows, before a run's first step
that step. -/
def execBoundaryLoadsDone (p : Nat) (s : State) : Host.Outcome State Fault Refusal :=
  let x := s.part p
  .next (if x.run.isSome && x.loading && decide (x.loadLeft = 0) then
      let s := writeLoads s p
      let s := s.setPart p { s.part p with loading := false, bound := false, prevLen := none }
      if x.bound then boundaryEnd s p else beginStep s p
    else s)

/-- STEP_BOUNDARY (R91, R114, R115, R128, R190, R246, R253, R282, R325, R350): queued loads are written first. -/
def execStepBoundary (p : Nat) (s : State) : Host.Outcome State Fault Refusal :=
  .next (if !stepDone s p then s
    else if flitsLeft s p then failRun s p .invalid
    else
      let s := closeCycle s p
      let x := s.part p
      let s := s.setPart p { x with inStep := false, step := x.step + 1, prevLen := some x.m.toNat
                                    run := x.run.map fun r => { r with ran := r.ran + 1 } }
      let s := applyClock (kvBoundary s p) p
      if loadsQueued s p then s.setPart p { s.part p with loading := true, bound := true, loadLeft := loadCycles s p }
      else boundaryEnd s p)

end Sys2Proof.Machine
end

