-- ==== Sys2Proof/Machine/RegStore.lean ====
section
/-! DEFINITION. What a software write stores in a register by the access types of its fields (R4 to R6, Table 0-4), with the
audit entry of a change (R312). -/
namespace Sys2Proof.Machine

/-- A value as a field stores it; fr is an open value for what the manual does not state. -/
def clampV (c : Clamp) (fr v : Nat) : Nat :=
  match c with
  | .none => v
  | .range lo hi => if v < lo then lo else if hi < v then hi else v
  | .over m r => if m < v then r else v
  | .owner => if v ≤ 16 then v else 31
  | .share => if v = 0 then 1 else if v ≤ 16 then v else fr

/-- R8, R9: a counter written in the cycle of n increments holds the value written, then they land. -/
def landInc (w v : Nat) (inc : Nat × Bool) : Nat :=
  if inc.2 then satAdd (2 ^ w - 1) v inc.1 else (v + inc.1) % 2 ^ w

/-- A field after a write of n whose written bits are m, from its value o. set are the bits that the hardware set in this cycle and
inc its increments (R8, Table 0-5). -/
def fieldStore (f : FieldSpec) (locked : Bool) (fr o n m set : Nat) (inc : Nat × Bool) : Nat :=
  let all := Nat.lor (Nat.land n m) (Nat.land o (2 ^ f.w - 1 - m))
  match f.acc with
  | .rw => if f.ctr then landInc f.w (clampV f.clamp fr all) inc else clampV f.clamp fr all
  | .rwl => if locked then o else clampV f.clamp fr all
  | .w1c => Nat.lor (Nat.land o (2 ^ f.w - 1 - Nat.land n m)) (Nat.land o set)
  | .w1s => Nat.lor o (Nat.land n m)
  | .ro | .rc | .wo => o

/-- A register's word after a write. -/
def wordStore (fs : List FieldSpec) (locked : Bool) (fr old v mask set : Nat) (inc : Nat → Nat × Bool) : Nat :=
  fs.foldl (fun w f =>
    let m := bits mask f.lo f.w
    if m = 0 then w
    else
      putBits w f.lo f.w
        (fieldStore f locked fr (bits old f.lo f.w) (bits v f.lo f.w) m (bits set f.lo f.w) (inc f.lo))) old

/-- R5: CLU_CFG is the one block with a commit. -/
def lockedReg (s : State) (r : RegName) (i : Nat) : Bool := decide (r = .cluCfg) && rb s (fCluCfg_commit i)

/-- Bits of the fields that Table 11-7 logs: RW, RWL and W1S, counters and pointers left out. -/
def logMask (fs : List FieldSpec) : Nat :=
  fs.foldl (fun m f =>
    match f.acc with
    | .rw | .rwl | .w1s => if f.ctr then m else m + (2 ^ f.w - 1) * 2 ^ f.lo
    | _ => m) 0

/-- Bits of RWL fields. -/
def rwlMask (fs : List FieldSpec) : Nat :=
  fs.foldl (fun m f => match f.acc with | .rwl => m + (2 ^ f.w - 1) * 2 ^ f.lo | _ => m) 0

/-- Function number that stands for firmware's own writes, those of the register view among them (R152, R312). -/
def fnFirmware : Nat := 17

/-- The partition that a register instance belongs to. -/
def regPart (r : RegName) (i : Nat) : Nat :=
  match r with
  | .mshPctl | .mshPstep | .mshPcyc | .errPart | .secPbind | .pwrPclk => i
  | _ => 0xFF

/-- The audit entry of a write by a function: the register's offset, its 64 bits from bit lo, and the bits covered. -/
def writeEntry (fn off lo old new mask : Nat) (part : Nat) (kind : Nat) : AEnt :=
  { kind := kind, origin := if fn = fnFirmware then 2 else 0, fn := if fn = fnFirmware then 0 else fn, part := part
    target := tgtOff (off + lo / 8), old := bits old lo 64, new := bits new lo 64, mask := bits mask lo 64 }

/-- R312: a change that is logged, by words of 64 bits. -/
def auditChange (s : State) (fn : Nat) (r : RegSpec) (i off old new : Nat) : State :=
  [0, 64, 128, 192].foldl (fun s lo =>
    let m := bits (Nat.land (Nat.xor old new) (logMask r.fields)) lo 64
    if m = 0 then s else audit s (writeEntry fn off lo old new (m * 2 ^ lo) (regPart r.name i) 1)) s

/-- R312: a refused write. -/
def auditRefused (s : State) (fn : Nat) (r : RegName) (i off old v mask : Nat) : State :=
  [0, 64, 128, 192].foldl (fun s lo =>
    if bits mask lo 64 = 0 then s else audit s (writeEntry fn off lo old v mask (regPart r i) 2)) s

/-- A software write of the masked bits of a register by its fields' access types. -/
def regStore (s : State) (fn : Nat) (r : RegSpec) (i off v mask : Nat) : State :=
  let old := (s.reg off).toNat
  let locked := lockedReg s r.name i
  let big := r.fields.any fun f => decide (f.clamp = .share ∧ 16 < bits v f.lo f.w)
  let (fr, s) := if big then s.draw 5 else (0, s)
  let new := wordStore r.fields locked fr.toNat old v mask (tget 0 s.met.set off)
    fun lo => tget (0, false) s.met.inc (512 * off + lo)
  let late := Nat.land mask (rwlMask r.fields)
  let s := if locked && decide (late ≠ 0) then auditRefused s fn r.name i off old v late else s
  let s := { s with met := { s.met with sw := tset s.met.sw off (Nat.lor (tget 0 s.met.sw off) mask) } }
  (auditChange s fn r i off old new).setReg off (BitVec.ofNat 256 new)

/-- A write to a register named by its offset. -/
def regStoreAt (s : State) (fn off v mask : Nat) : State :=
  match regFind off with
  | some (r, i) => regStore s fn r i off v mask
  | none => s

end Sys2Proof.Machine
end

