-- ==== Sys2Proof/Machine/HostQueue.lean ====
section
/-! DEFINITION. Queues between the host and the command processor: rings and doorbells, fetch and checks of entries, replies,
enable, disable and release, FLR (R233 to R245, R249 to R254, R257, R304, R361, R371). -/
namespace Sys2Proof.Machine

/-! Rings. -/

def ringN (s : State) (q : Nat) : Nat := 2 ^ rf s (fCmdSqcfg_lsize q)
def qPasid (s : State) (q : Nat) : Nat := ((qAttr s q).pasid).getD noPasid

/-- Queues of a function in ascending order, at most 16 for a VF (R233). -/
def queuesOfFn (s : State) (fn : Nat) : List Nat :=
  let qs := (List.range 64).filter fun q => decide (qFn s q = fn)
  if fn = 0 then qs else qs.take 16

/-- The queue of a function's page or block j (R233). -/
def queueAt (s : State) (fn j : Nat) : Option Nat :=
  if fn = 0 then (if j < 64 ∧ qFn s j = 0 then some j else none) else (queuesOfFn s fn)[j]?

/-- R233: where a VF's BAR0 offset lies in PF0's. -/
def vfOffset (s : State) (fn off : Nat) : Option Nat :=
  (queueAt s fn (off / 0x40)).map fun q => offCmdSqbase q + off % 0x40

/-- R260: the vector of a queue is raised. -/
def queueIrq (s : State) (q : Nat) : State :=
  let fn := qFn s q
  irq s fn (if fn = 0 then q else (queuesOfFn s fn).idxOf q)

/-- Entries that the submission ring holds with a tail: (tail - head) mod N, where the head moves on as entries are reported, so that
those fetched and not reported count (R236). A fence that waits is fetched, until a halt discards it (R249, R250). -/
def ringHolds (s : State) (q tail : Nat) : Nat :=
  let n := ringN s q
  let x := s.queue q
  let fetched := bit (x.blocked && !x.stop)
  (tail + n - (x.nextseq + fetched) % n) % n + x.entries.length + fetched

/-- Replies written and not consumed with the head at an index (R236). -/
def repliesHeld (s : State) (q : Nat) : Nat :=
  let n := ringN s q
  let x := s.queue q
  (x.written % n + n - x.head % n) % n

/-- DOORBELL_SQ_TAIL (R236): the ring then holds at most N - 1 entries, those not yet reported counted. -/
def execDoorbellSqTail (fn j v : Nat) (s : State) : Host.Outcome State Fault Refusal :=
  .next (match queueAt s fn j with
    | none => s
    | some q =>
      let x := { s.queue q with lastTail := v }
      if ringN s q ≤ v ∨ ringN s q - 1 < ringHolds s q v then setB (s.setQueue q x) (fCmdSqstat_dberr q)
      else s.setQueue q { x with tail := v })

/-- DOORBELL_CQ_HEAD (R236): at most the replies not yet consumed are released. -/
def execDoorbellCqHead (fn j v : Nat) (s : State) : Host.Outcome State Fault Refusal :=
  .next (match queueAt s fn j with
    | none => s
    | some q =>
      let n := ringN s q
      let x := { s.queue q with lastHead := v }
      if n ≤ v ∨ repliesHeld s q < (v + n - x.head % n) % n then setB (s.setQueue q x) (fCmdSqstat_dberr q)
      else (s.setQueue q { x with head := v }))

/-! Checks of a packet (R244, R245, R304, R361, R371). -/

/-- Bits of n bytes from byte b. -/
def pkBits (b n : Nat) : Nat := (2 ^ (8 * n) - 1) * 2 ^ (8 * b)

/-- The bits that an opcode's parameters use, the header's among them (Tables 9-4, 9-7); none for a reserved opcode. -/
def pkMask (op : Nat) : Option Nat :=
  let head := pkBits 0 1 + 3 * 2 ^ 8 + 31 * 2 ^ 16 + pkBits 4 4
  let a (b : Nat) : Nat := pkBits b 6
  let m : Option Nat := match op with
    | 0x00 => some 0
    | 0x01 => some (a 16 + a 24 + pkBits 32 8)
    | 0x02 => some (a 16 + a 24 + pkBits 32 24 + 3 * 2 ^ 448)
    | 0x03 => some (a 24 + pkBits 32 16 + 3 * 2 ^ 384)
    | 0x04 => some (a 24 + pkBits 32 8)
    | 0x05 => some (a 16 + pkBits 32 8)
    | 0x06 => some (a 16 + pkBits 32 8 + pkBits 48 1)
    | 0x08 => some (pkBits 8 4 + a 16 + pkBits 24 4 + 2 ^ 224)
    | 0x09 => some (pkBits 8 1 + 2 ^ 72 + a 16 + pkBits 24 2)
    | 0x0A => some (pkBits 8 4 + a 16 + 0x87 * 2 ^ 192 + pkBits 28 4)
    | 0x10 => some (pkBits 8 1 + pkBits 16 8)
    | 0x11 | 0x12 => some (pkBits 8 1)
    | 0x13 => some (3 * 2 ^ 64 + a 16 + pkBits 32 8)
    | 0x14 => some (pkBits 8 1 + pkBits 12 6)
    | 0x18 => some (pkBits 8 2 + pkBits 16 32)
    | 0x19 => some (a 16 + pkBits 32 8)
    | 0x1A => some (pkBits 8 1 + pkBits 10 4)
    | 0x20 => some (pkBits 8 2 + pkBits 12 5)
    | 0x21 => some (pkBits 8 2 + a 16)
    | 0x22 => some (pkBits 8 3)
    | 0x28 => some (pkBits 8 1 + a 24 + pkBits 32 4)
    | 0x29 => some (pkBits 8 1 + pkBits 12 4)
    | _ => none
  m.map fun m => head + m

/-- Units of a RESET_UNIT kind (Table 14-8). -/
def resetUnits (kind : Nat) : Nat :=
  match kind with
  | 0 => 16384 | 1 => 512 | 2 => 16 | 3 => 16 | 4 => 8 | 5 => 8 | _ => 0

/-- Reserved values and indices outside Table 0-8 (R244), where they do not depend on the state. -/
def pkValuesOk (x : BitVec 512) : Bool :=
  match pkOpcode x with
  | 0x06 => decide (pk x 48 1 ≤ 2)
  | 0x08 => decide (1 ≤ pk x 10 2 ∧ pk x 8 2 + pk x 10 2 ≤ 16384)
  | 0x09 => decide (pk x 8 1 < 16 ∧ 1 ≤ pk x 24 2 ∧ pk x 24 2 ≤ 512)
  | 0x0A => decide (1 ≤ pk x 10 2 ∧ pk x 8 2 + pk x 10 2 ≤ 512 ∧ 1 ≤ pk x 28 4 ∧ pk x 28 4 ≤ 8192)
  | 0x10 | 0x11 | 0x12 => decide (pk x 8 1 < 16)
  | 0x14 => decide (pk x 8 1 < 64 ∧ 1 ≤ pk x 16 2 ∧ pk x 16 2 ≤ 64)
  | 0x18 => decide (pk x 8 2 < 512)
  | 0x1A =>
    match pk x 8 1 with
    | 0 => decide (pk x 10 2 < 16384 ∧ pk x 12 2 ≤ 4)
    | 1 => decide (pk x 10 2 < 512 ∧ 0x10 ≤ pk x 12 2 ∧ pk x 12 2 ≤ 0x12)
    | 2 => decide (pk x 10 2 < 16 ∧ pk x 12 2 = 0x20)
    | _ => false
  | 0x20 => decide (pk x 8 1 < 16 ∧ pk x 9 1 < 6 ∧ pk x 14 1 ≤ 16 ∧ 1 ≤ pk x 15 1 ∧ pk x 15 1 ≤ 16 ∧ 1 ≤ pk x 16 1 ∧
      pk x 16 1 ≤ 3 ∧ pk x 12 2 < 16384)
  | 0x21 => decide (pk x 8 1 ≤ 1 ∧ pk x 9 1 < 16)
  | 0x22 => decide (pk x 8 1 ≤ 1 ∧ pk x 9 1 < 64 ∧ pk x 10 1 < 16)
  | 0x28 => decide (pk x 8 1 ≤ 5)
  | 0x29 => decide (pk x 12 4 < resetUnits (pk x 8 1))
  | _ => true

/-- R244: whether a packet is well formed. -/
def pkOk (x : BitVec 512) : Bool :=
  match pkMask (pkOpcode x) with
  | some m => decide (Nat.land x.toNat (Nat.xor (2 ^ 512 - 1) m) = 0) && decide (pkClass x < 6) && pkValuesOk x
  | none => false

/-- R361: power is failing. -/
def powerFailed (s : State) : Bool := decide (rf s fPwrPfstat_state = 1)

/-- R361, R371: opcodes served in the state the device is in. -/
def opServed (s : State) (op : Nat) : Bool :=
  if powerFailed s then op == 0x28
  else if rf s fBseBoot_stage ≠ 0xA then op == 0x00 || op == 0x28 || op == 0x19 || op == 0x22
  else true

/-- R245, R301, R304: whether a queue may give the command. A locked TDI takes commands of its VF's queues from START on; before it they
are refused like those of other queues (log entry 91). -/
def mayGive (s : State) (q : Nat) (x : BitVec 512) : Bool :=
  let fn := qFn s q
  let op := pkOpcode x
  let p := entryPart s q { seq := 0, pkt := x }
  let conf := confidential s p && decide (fn ≠ p + 1 ∨ tdiOf s p ≠ 2)
  match op with
  | 0x20 | 0x21 | 0x1A => decide (fn = 0) && !conf
  | 0x29 => decide (fn = 0) && (!conf || decide (pk x 8 1 = 2))
  | 0x22 => (decide (fn = 0) || decide (fn = pk x 10 1 + 1)) && !conf
  | 0x00 | 0x13 | 0x14 | 0x28 => true
  | _ => !conf

/-- The command of a packet's opcode. -/
def opCmd (q seq : Nat) (x : BitVec 512) : Instr :=
  match pkOpcode x with
  | 0x01 => .copy q seq
  | 0x02 => .copy2d q seq
  | 0x03 => .fill q seq
  | 0x04 => .zero q seq
  | 0x05 => .prefetch q seq
  | 0x06 => match pk x 48 1 with
    | 0 => .adviseWriteback q seq
    | 1 => .adviseDrop q seq
    | _ => .adviseTranslate q seq
  | 0x08 => .loadProgram q seq
  | 0x09 => .loadSchedule q seq
  | 0x0A => .loadCodebook q seq
  | 0x10 => .runSteps q seq
  | 0x11 => .hold q seq
  | 0x12 => .release q seq
  | 0x13 => .fence q seq
  | 0x14 => .abort q seq
  | 0x18 => .kvCommit q seq
  | 0x19 => .digest q seq
  | 0x1A => .selfTest q seq
  | 0x20 => .setClass q seq
  | 0x21 => if pk x 8 1 = 0 then .partitionAssign q seq else .partitionDissolve q seq
  | 0x22 => if pk x 8 1 = 0 then .keyGenerate q seq else .keyDestroy q seq
  | 0x28 => .readTelemetry q seq
  | 0x29 => match pk x 8 1 with
    | 0 => .resetUnitCore q seq
    | 1 => .resetUnitCluster q seq
    | 2 => .resetUnitPartition q seq
    | 3 => .resetUnitCopyEngine q seq
    | 4 => .resetUnitFabricSegment q seq
    | _ => .resetUnitLinkPort q seq
  | _ => .cmdNop q seq

/-- Table 9-7: opcodes whose completion point is their start. -/
def startDone (op : Nat) : Bool := op == 0x00 || op == 0x14 || op == 0x21 || op == 0x22 || op == 0x29

/-- A started entry checked, and its command given to the command processor or a copy engine. -/
def startEntry (s : State) (q seq : Nat) (x : BitVec 512) : State :=
  if !pkOk x then finish s q seq .invalid 0 0
  else if !opServed s (pkOpcode x) then finish s q seq .busy 0 0
  else if !mayGive s q x then
    let p := entryPart s q { seq := seq, pkt := x }
    let s := if pkOpcode x = 0x21 ∧ confidential s p then
        refusedFor (audit s { kind := 2, fn := qFn s q, part := p, target := tgtOp 0x21 0, new := pk x 8 8 }) p (some (q, seq))
      else s
    finish s q seq .accessViolation 0 0
  else (if startDone (pkOpcode x) then setPast s q seq else s).emit [opCmd q seq x]

/-! Fetch (R238, R251, R257). -/

/-- Whether an entry can be fetched from a queue now. -/
def eligible (s : State) (q : Nat) : Bool :=
  let x := s.queue q
  rb s (fCmdSqcfg_en q) && !x.stop && !x.disabling && !x.ringFault && !x.blocked &&
    decide ((x.tail + ringN s q - x.nextseq % ringN s q) % ringN s q ≠ 0) &&
    decide (x.entries.length < rf s (fCmdSqcfg_depth q))

/-- The queue whose turn it is. -/
def nextQueue (s : State) : Option Nat := ((List.range 64).map fun i => (s.lastQ + 1 + i) % 64).find? (eligible s)

/-- R257: a ring access whose translation failed halts the queue at once; on the reply ring its replies are held. -/
def ringFault (s : State) (q : Nat) (reply : Bool) : State :=
  let x := s.queue q
  let s := s.setQueue q { x with ringFault := x.ringFault || reply, stop := true }
  queueIrq (setB (wf s (fCmdSqstat_laststat q) (Status.code .translationFault)) (fCmdSqstat_halt q)) q

/-- Whether an entry waits for every earlier entry of its queue to be reported (R238, R251). -/
def waitsForAll (x : BitVec 512) : Bool := pkFence x || pkOpcode x == 0x13

/-- R251: what a FENCE of partition scope waits for in other queues. -/
def fenceList (s : State) (q : Nat) (x : BitVec 512) : List (Nat × Nat) :=
  if pkOpcode x = 0x13 ∧ bits x.toNat 64 1 = 1 then
    (List.range 128).flatMap fun j =>
      if j ≠ q ∧ qPart s j = qPart s q then ((s.queue j).entries.filter (·.reply.isNone)).map fun e => (j, e.seq) else []
  else []

/-- An entry starts with the next sequence number: ended ABORTED where an ABORT named it (R253), else checked. -/
def beginEntry (s : State) (q : Nat) (pkt : BitVec 512) : State :=
  let x := s.queue q
  let seq := x.nextseq
  let e : Entry := { seq := seq, pkt := pkt, fence := fenceList s q pkt }
  let s := s.setQueue q { x with nextseq := (seq + 1) % 2 ^ 32, entries := x.entries ++ [e]
                                 aborts := x.aborts.filter fun n => decide (n ≠ seq) }
  if x.aborts.contains seq then finish s q seq .aborted 0 0 else startEntry s q seq pkt

/-- R284: an entry of a forwarded queue goes to its member; the packet's form is not the manual's (log entry 35). -/
def forwardEntry (s : State) (q seq : Nat) (pkt : BitVec 512) : State :=
  let t := rf s (fLnkQfwd_target q)
  match routePort s t with
  | none => finish s q seq .linkDown 0 0
  | some p =>
    let at' := qAttr s q
    let rq : Req := { src := nodeCp, tag := seq % 65536, addr := q, hint := 0, cls := 7, part := at'.part, key := at'.key
                      pasid := (at'.pasid).getD noPasid, imm := BitVec.ofNat 64 (seq + at'.fn * 2 ^ 32) }
    linkSend s p { op := 0x40, rq := rq, dst := 1024 * t + nodeCp
                   fl := ⟨2, BitVec.ofNat 2048 pkt.toNat, 0, 0⟩ }

/-- ENTRY_FETCH (R238): the queue whose turn it is reads its next entry, which the host's memory holds as pkt. -/
def execEntryFetch (q : Nat) (pkt : BitVec 512) (s : State) : Host.Outcome State Fault Refusal :=
  .next (if nextQueue s ≠ some q then s
    else
      let x := s.queue q
      let va := rf s (fCmdSqbase_base q) * 4096 + 64 * (x.nextseq % ringN s q)
      match translateOne s (qPasid s q) va false with
      | (s, .fault) => ringFault s q false
      | (s, .hit) =>
        let s := hostWrite { s with lastQ := q } (qPasid s q) va 64 pkt.toNat false
        if waitsForAll pkt && !x.entries.isEmpty then s.setQueue q { x with blocked := true }
        else if rf s (fLnkQfwd_target q) ≠ 0 ∧ !x.aborts.contains x.nextseq then
          let e : Entry := { seq := x.nextseq, pkt := pkt, begun := true }
          forwardEntry (s.setQueue q { x with nextseq := (x.nextseq + 1) % 2 ^ 32, entries := x.entries ++ [e] }) q x.nextseq pkt
        else beginEntry s q pkt
      | (s, _) => { s with waiting := s.waiting ++ [.entryFetch q pkt] })

/-! Replies (R239, R240, R242, R249, R257). -/

/-- The 32 bytes of a reply. -/
def replyWord (e : Entry) (r : Reply) (phase : Bool) : Nat :=
  e.seq + pk e.pkt 4 4 * 2 ^ 32 + r.status.code * 2 ^ 64 + pkOpcode e.pkt * 2 ^ 72 + bit phase * 2 ^ 80 +
    r.detail * 2 ^ 96 + r.result * 2 ^ 128 + r.time * 2 ^ 192

/-- What follows once a queue holds no started entry: the halt bit, with the status that stopped it, or the end of its disabling
(R249, R254). -/
def drainedQueue (s : State) (q : Nat) : State :=
  let x := s.queue q
  if !x.entries.isEmpty then s
  else
    let s := match x.failed with
      | some st => wf s (fCmdSqstat_laststat q) st.code
      | none => s
    let s := if x.stop then setB s (fCmdSqstat_halt q) else s
    if x.disabling then
      (hwf s (fCmdSqcfg_en q) 0).setQueue q { x with disabling := false, discard := false }
    else s

/-- The head entry leaves its queue. -/
def popEntry (s : State) (q : Nat) (written : Bool) : State :=
  let x := s.queue q
  drainedQueue (s.setQueue q { x with entries := x.entries.tail, written := x.written + bit written, cqfull := false
                                      blocked := false }) q

/-- REPLY_WRITE (R240): the reply of the oldest started entry, once it has ended and the ring has room. -/
def execReplyWrite (q : Nat) (s : State) : Host.Outcome State Fault Refusal :=
  let x := s.queue q
  .next (match x.entries with
    | [] => s
    | e :: _ =>
      match e.reply with
      | none => s
      | some r =>
        if 64 ≤ q then
          let at' := qAttr s q
          let s := match routePort s 0 with
            | some p =>
              let rq : Req := { src := nodeCp + 1024 * selfPos s, tag := e.seq % 65536, addr := q - 64, hint := 0, cls := 7
                                part := at'.part, key := at'.key, pasid := noPasid
                                imm := BitVec.ofNat 64 (e.seq + r.status.code * 2 ^ 32) }
              linkSend s p { op := 0x41, rq := rq, dst := nodeCp, fl := ⟨1, BitVec.ofNat 2048 (replyWord e r false), 0, 0⟩ }
            | none => s
          popEntry s q true
        else if x.discard then popEntry s q false
        else if x.ringFault then s
        else if ringN s q - 1 ≤ repliesHeld s q then s.setQueue q { x with cqfull := true }
        else
          let n := ringN s q
          let va := rf s (fCmdCqbase_base q) * 4096 + 32 * (x.written % n)
          match translateOne s (qPasid s q) va true with
          | (s, .fault) => ringFault s q true
          | (s, .hit) =>
            let s := hostWrite s (qPasid s q) va 32 (replyWord e r (x.written / n % 2 == 0)) false
            let s := if pkIrq e.pkt || decide (r.status ≠ .ok) then queueIrq s q else s
            popEntry s q true
          | (s, _) => { s with waiting := s.waiting ++ [.replyWrite q] })

/-! Enable, disable, release (R239, R249, R250, R254). -/

/-- Every started entry of a queue is aborted as R253 does. -/
def abortAll (s : State) (q : Nat) : State :=
  let (s, es) := (s.queue q).entries.foldl (fun (a : State × List Ending) e =>
    let (s', l) := abortEntry a.1 q e
    (s', a.2 ++ l)) (s, [])
  endAll 8192 es s

/-- R254: a queue is shut; its replies are written, or discarded for an FLR. -/
def shutQueue (s : State) (q : Nat) (discard : Bool) : State :=
  let s := s.setQueue q { s.queue q with disabling := true, discard := discard }
  drainedQueue (abortAll s q) q

/-- Table 9-12: a write of the masked bits of CMD_SQCFG. While en is 1 only en counts; a write that sets it restarts the
queue, and before the end of BASE it is ignored (R371). -/
def sqcfgWrite (s : State) (fn q v mask : Nat) : State :=
  let off := offCmdSqcfg q
  let enBit := 2 ^ 63
  if rb s (fCmdSqcfg_en q) then
    if bits mask 63 1 = 1 ∧ bits v 63 1 = 0 then
      let old := (s.reg off).toNat
      shutQueue (audit s (writeEntry fn off 0 old (old - enBit) enBit 0xFF 1)) q false
    else s
  else
    let mask := if rb s fBseBoot_cmd then mask else Nat.land mask (enBit - 1)
    let s := regStoreAt s fn off v mask
    if rb s (fCmdSqcfg_en q) then
      let x := s.queue q
      s.setQueue q { lastTail := x.lastTail, lastHead := x.lastHead, stop := rb s (fCmdSqstat_halt q) }
    else s

/-- Bits of CMD_SQCFG that a function may write (R233). -/
def sqcfgMask (fn : Nat) : Nat := if fn = 0 ∨ fn = fnFirmware then 2 ^ 64 - 1 else 2 ^ 63 + 127 * 2 ^ 40 + 15 * 2 ^ 36

/-- R304: a write of the masked bits of CMD_SQCFG that a confidential VF's queue refuses. -/
def sqcfgBarred (s : State) (q mask : Nat) : Bool :=
  decide (1 ≤ qFn s q) && confidential s (qFn s q - 1) &&
    decide (Nat.land mask (2 ^ 64 - 1 - sqcfgMask 1) ≠ 0)

/-- A write to CMD_SQCFG of a queue by a function, as 64 bits under a mask. -/
def sqcfgBy (s : State) (fn q v mask : Nat) : State :=
  let m := Nat.land mask (sqcfgMask fn)
  let chg := Nat.land m (Nat.xor (s.reg (offCmdSqcfg q)).toNat v)
  if sqcfgBarred s q chg then
    let s := auditRefused s fn .cmdSqcfg q (offCmdSqcfg q) (s.reg (offCmdSqcfg q)).toNat v chg
    refusedFor s (qFn s q - 1) none
  else sqcfgWrite s fn q v m

/-- QUEUE_ENABLE (R239, R371): a write of v, with en set, to the block of queue j of a function. -/
def execQueueEnable (fn j : Nat) (v : BitVec 64) (s : State) : Host.Outcome State Fault Refusal :=
  .next (match queueAt s fn j with
    | some q => sqcfgBy s fn q (Nat.lor v.toNat (2 ^ 63)) (2 ^ 64 - 1)
    | none => if fn = 0 ∧ j < 64 then sqcfgBy s 0 j (Nat.lor v.toNat (2 ^ 63)) (2 ^ 64 - 1) else s)

/-- QUEUE_DISABLE (R254): a write of 0 to en. -/
def execQueueDisable (fn j : Nat) (s : State) : Host.Outcome State Fault Refusal :=
  .next (match (if fn = 0 ∧ j < 64 then some j else queueAt s fn j) with
    | some q => sqcfgBy s fn q 0 (2 ^ 63)
    | none => s)

/-- R250: a halted queue is released: entries are fetched again from nextseq, and held replies are written first (R257); where one of
them reports a failed entry, the queue halts for it once they are written (R249). A halt of the same cycle stands (R8). -/
def releaseQueue (s : State) (q : Nat) : State :=
  if rb s (fCmdSqstat_halt q) && !metHas s (fCmdSqstat_halt q) then
    let x := s.queue q
    let more := x.failed.isSome && !x.entries.isEmpty
    (clrB s (fCmdSqstat_halt q)).setQueue q { x with stop := more, failed := if more then x.failed else none
                                                     ringFault := false, blocked := false }
  else s

/-- QUEUE_RELEASE (R250): a write of 1 to CMD_SQSTAT.halt of queue j of a function. -/
def execQueueRelease (fn j : Nat) (s : State) : Host.Outcome State Fault Refusal :=
  .next (match (if fn = 0 ∧ j < 64 then some j else queueAt s fn j) with
    | some q => releaseQueue s q
    | none => s)

/-- FLR (R254, R301): started entries of the function's queues are aborted and their replies discarded; the owner of the
VF's partition ends. -/
def execFlr (fn : Nat) (s : State) : Host.Outcome State Fault Refusal :=
  let s := (queuesOfFn s fn).foldl (fun s q => if rb s (fCmdSqcfg_en q) then shutQueue s q true else s) s
  .next (if 1 ≤ fn ∧ fn ≤ 16 ∧ (confidential s (fn - 1) ∨ tdiOf s (fn - 1) ≠ 0) then ownerEnd s (fn - 1) none 0 else s)

end Sys2Proof.Machine
end

