-- ==== Sys2Proof/Machine/LinkOps.lean ====
section
/-! DEFINITION. Operations on link ports: messages, a port going down, the barrier of a cascade step, frames (R263 to R267,
R273, R274, R277, R280 to R283, R289). -/
namespace Sys2Proof.Machine

/-- A control message leaves in the next frame of a port. -/
def sendCtl (s : State) (p : Nat) (c : LCtl) : State :=
  let x := linkPort s p
  setLinkPort s p { x with newCtl := x.newCtl ++ [c] }

/-! Topologies and routes (R271, R273, R274). -/

/-- Table 10-3: the peer's position and port that a port faces, if the topology names it. -/
def namedPeer (topo n N p : Nat) : Option (Nat × Nat) :=
  let line (m : Option Nat) : Option (Nat × Nat) := m.map fun x => (x, if p % 2 = 0 then p + 1 else p - 1)
  match topo with
  | 1 => if N = 2 ∧ n < 2 then some (1 - n, p) else none
  | 2 => if 4 ≤ p then none
         else if p % 2 = 0 then line (if n + 1 < N then some (n + 1) else none)
         else line (if 1 ≤ n then some (n - 1) else none)
  | 3 => if 4 ≤ p then none else line (some (if p % 2 = 0 then (n + 1) % N else (n + N - 1) % N))
  | 4 => if 6 ≤ p then none
         else
           let w := 4 ^ (p / 2)
           let x := n / w % 4
           let y := if p % 2 = 0 then (x + 1) % 4 else (x + 3) % 4
           line (some (n + y * w - x * w))
  | _ => none

/-- R273: the port of the dimension-ordered route from position n to d: x, then y, then z, each the shorter way round, a tie towards
the higher position (log entry 89). -/
def dimPort (topo N n d : Nat) : Option Nat :=
  let way (w x y p : Nat) : Option Nat :=
    let k := (y + w - x) % w
    if k = 0 then none else if 2 * k ≤ w then some p else some (p + 1)
  match topo with
  | 1 => if n = d then none else some 0
  | 2 => if n < d then some 0 else if d < n then some 1 else none
  | 3 => way N n d 0
  | 4 => (way 4 (n % 4) (d % 4) 0).orElse fun _ => (way 4 (n / 4 % 4) (d / 4 % 4) 2).orElse fun _ => way 4 (n / 16) (d / 16) 4
  | _ => none

/-- R273, R382: whether a cascade partition is running, here or as far as a member knows since its last READY. -/
def cascadeRuns (s : State) : Bool :=
  (List.range 16).any fun p => isCascade s p && ((s.part p).run.isSome || (s.part p).ownReady)

/-- R273: after a training this device's entries take the dimension-ordered routes, while no cascade partition is running; a member's
stand for the master's writes (log entry 89). -/
def writeRoutes (s : State) : State :=
  if cascadeRuns s then s
  else
    let s := { s with links := { s.links with ways := [] } }
    (members s).foldl (fun s d =>
      match dimPort (rf s fLnkCasc_topo) (rf s fLnkCasc_ndev + 1) (selfPos s) d with
      | some p => regStoreAt s fnFirmware (offLnkRoute d) (2 ^ (fLnkRoute_valid d).lo + p * 2 ^ (fLnkRoute_port d).lo)
          (2 ^ (fLnkRoute_valid d).lo + 7 * 2 ^ (fLnkRoute_port d).lo)
      | none => s) s

/-- The position to which position n sends what it sends to the master: that of its dimension-ordered route, or of the routes of a
detour. -/
def wayToMaster (s : State) (n : Nat) : Option Nat :=
  match tfind s.links.ways n with
  | some m => some m
  | none =>
    let N := rf s fLnkCasc_ndev + 1
    (dimPort (rf s fLnkCasc_topo) N n 0).bind fun p => (namedPeer (rf s fLnkCasc_topo) n N p).map (·.1)

/-- Whether the way of position n to the master passes through another. -/
def passes (s : State) (via : Nat) : Nat → Nat → Bool
  | 0, _ => false
  | k + 1, n =>
    match wayToMaster s n with
    | none => false
    | some m => m == via || passes s via k m

/-- R274: the devices whose way to the master passes through this one. -/
def behind (s : State) : List Nat := (members s).filter fun n => n != 0 && passes s (selfPos s) 64 n

/-- Where a position's port is cabled: as this device's port found its peer, as the member has reported it, or as Table 10-3 says
(R272). -/
def otherEnd (s : State) (x : Nat × Nat) : Option (Nat × Nat) :=
  if x.1 = selfPos s then some (rf s (fLnkPstat_ppos x.2), rf s (fLnkPstat_pport x.2))
  else
    match tfind s.links.cables (8 * x.1 + x.2) with
    | some y => some (y / 8, y % 8)
    | none => namedPeer (rf s fLnkCasc_topo) x.1 (rf s fLnkCasc_ndev + 1) x.2

/-- R290: the failed links of a partition, each by one of its ends: those of the master's ports and those that its members have told of
with their aborts. -/
def failedLinks (s : State) (p : Nat) : List (Nat × Nat) :=
  let ends := ((selfPos s, failedPorts s p) :: (s.part p).acks).flatMap fun a =>
    (List.range 8).filterMap fun b => if a.2 / 2 ^ b % 2 = 1 then some (a.1, b) else none
  ends.foldl (fun l x => if l.any fun y => decide (y = x) || decide (otherEnd s y = some x) then l else l ++ [x]) []

/-! A port goes down (R267, R289). -/

/-- R290: a detour is given up: the RUN_STEPS ends LINK_DOWN, and vector 67 is raised. -/
def detourFail (s : State) (p : Nat) : State :=
  let s := { s with links := { s.links with jobs := s.links.jobs.filter fun j => decide (j.part ≠ some p) } }
  irq (endRun s p .linkDown) 0 67

/-- Whether a detour of a partition is at work. -/
def detouring (s : State) (p : Nat) : Bool := s.links.jobs.any fun j => decide (j.part = some p)

/-- How long a request over a link waits for its response, in ns: 10 µs, and for a host-window line the time that the page request behind
it may take besides (R256, R265; log entry 90). -/
def reqLimit (s : State) (o : OutReq) : Nat := 10000 + if rangeOf o.addr = .host then rf s fCmdPrito_ms * 10 ^ 6 else 0

/-- A waiting requester is told that its request over a link has failed. -/
def failReq (s : State) (o : OutReq) (st : Status) : State :=
  let rq : Req := ⟨o.src, o.tag, o.addr, 0, 7, 0, 0, 0, 0⟩
  sendRsp s (0x240 + o.port + 1024 * selfPos s) rq 0x3F st.code 0 0 true noFlits

/-- Entries sent to members over a port end LINK_DOWN (R284). -/
def failForwarded (s : State) (p : Nat) : State :=
  (List.range 64).foldl (fun s q =>
    let t := rf s (fLnkQfwd_target q)
    if t ≠ 0 ∧ rf s (fLnkRoute_port t) = p then
      ((s.queue q).entries.filter fun e => e.reply.isNone).foldl (fun s e => finish s q e.seq .linkDown 0 0) s
    else s) s

/-- R267, R289: a port goes down for a cause of Table 10-6: state, record, requests over it, steps that use it, vector 67. -/
def portDown (s : State) (p cause : Nat) : State :=
  let x := linkPort s p
  let n := x.lastHdr.getD 0
  let s := if cause = 3 then errNote s .link .linkDown (unitLink p) 0 p n none
           else errEvent s .link .linkDown (unitLink p) 0 p n
  let s := wf (setB (wf s (fLnkPstat_state p) 3) (fLnkPstat_down p)) (fLnkPstat_cause p) cause
  let s := setLinkPort s p { fnum := x.fnum, noSched := true, failedAt := s.devtime.toNat, sendDown := decide (cause ≠ 3) }
  let lost := s.outReqs.filter fun o => decide (o.port = p)
  let s := { s with outReqs := s.outReqs.filter fun o => decide (o.port ≠ p), linkTx := terase s.linkTx p }
  let s := lost.foldl (fun s o => failReq s o .linkDown) s
  let s := failForwarded s p
  let s := match portOwner s p with
    | some q =>
      if detouring s q then detourFail s q
      else if stepOpen s q then abortAndTell s q
      else if isCascade s q then tellAbort s q
      else s
    | none => s
  wake (irq s 0 67)

/-! The barrier (R274, R277). -/

/-- R277: GO of a cascade partition is given: T is the master's DEVTIME plus bdelay. -/
def sendGo (s : State) (p : Nat) : State :=
  let x := s.part p
  let s := s.setPart p { x with readyPos := [], ownReady := false, goWait := false, aborted := false, acks := [] }
  s.emit [.goMarker p (x.step.toNat + 1) (s.devtime.toNat + rf s fLnkCasc_bdelay)]

/-- The devices that the barrier waits for. Before the first step of a run no other device has a step to complete. -/
def allReady (s : State) (p : Nat) : Bool :=
  let x := s.part p
  let first := match x.run with | some r => decide (r.ran = 0) | none => false
  x.ownReady && (first || (List.range (rf s fLnkCasc_ndev + 1)).all fun n => decide (n = selfPos s) || x.readyPos.contains n)

/-- Whether any core of a partition is debug-held (R118). -/
def debugHeld (s : State) (p : Nat) : Bool := (coresOf s p).any fun c => (s.core c).dbg

/-- What withholds GO (R277, R325): a core debug-held here or on another device, a quarantine elsewhere, the step-marker input. -/
def goHeld (s : State) (p : Nat) : Bool :=
  debugHeld s p || !(s.part p).farDbg.isEmpty || (s.part p).farQuar || rb s fLnkCasc_extgo

/-- R274, R277: once READY is held from every device, what ends or keeps the run, else GO, unless it is withheld. -/
def tryGo (s : State) (p : Nat) : State :=
  if !isCascade s p || isMember s || !allReady s p then s
  else boundaryDecide s p fun s =>
    if goHeld s p then s.setPart p { s.part p with goWait := true } else sendGo s p

/-- A withheld GO is given once nothing withholds it (R277, R325). -/
def releaseGo (s : State) (p : Nat) : State :=
  if (s.part p).goWait && !goHeld s p then sendGo s p else s

/-- R277: a member tells the master when a core of a cascade partition becomes debug-held, and when none is any more. -/
def tellDebug (s : State) (p : Nat) : State :=
  let x := s.part p
  let now := debugHeld s p
  if isMember s && isCascade s p && now != x.dbgTold then
    tellMaster (s.setPart p { x with dbgTold := now }) 0x48 (p + 16 * bit now + 32 * selfPos s) noFlits
  else s

/-- Whether the transmit queues of a partition's ports are empty, lane-flits that cross from another port included. -/
def txEmpty (s : State) (p : Nat) : Bool :=
  (portsOf s p).all fun b => (tget [] s.gwTx b).isEmpty && (linkPort s b).transit.all fun t => t.2.isEmpty

/-- R274: the READYs that a member holds go on to the master once it and every device behind it are ready. -/
def passReady (s : State) (p k : Nat) : State :=
  let x := s.part p
  match routePort s 0 with
  | some b =>
    if x.ownReady && (behind s).all x.readyPos.contains then
      (selfPos s :: x.readyPos).foldl (fun s n => sendMark s b (.ready p k n)) (s.setPart p { x with readyPos := [] })
    else s
  | none => s

/-- A READY of a position at this device: collected, and at a member passed on (R274). -/
def takeReady (s : State) (p k pos : Nat) : State :=
  let x := s.part p
  if isMember s then
    passReady (s.setPart p (if pos = selfPos s then { x with ownReady := true, run := none }
      else { x with readyPos := pos :: x.readyPos.filter fun n => decide (n ≠ pos) })) p k
  else if x.run.isSome && decide (k = x.step.toNat) then
    tryGo (s.setPart p (if pos = selfPos s then { x with ownReady := true } else { x with readyPos := pos :: x.readyPos })) p
  else s

/-! The start of a cascade (R384, R385, R382). -/

/-- A position's bit in BSE_FWPEND. -/
def setPend (s : State) (n : Nat) (on : Bool) : State :=
  let m := rf s fBseFwpend_pend
  let is := decide (m / 2 ^ n % 2 = 1)
  if on == is then s else wf s fBseFwpend_pend (if on then m + 2 ^ n else m - 2 ^ n)

/-- R385: on the master, the cascade has joined: every device is READY, its named ports are up, and none is pending. -/
def creadyCheck (s : State) : State :=
  let N := rf s fLnkCasc_ndev + 1
  let named (p : Nat) : Bool := (namedPeer (rf s fLnkCasc_topo) 0 N p).isSome
  if rf s fLnkCasc_topo ≠ 0 ∧ isMember s = false ∧ rb s fBseBoot_cready = false ∧ rf s fBseBoot_stage = 0xA ∧
      rf s fBseFwpend_pend = 0 ∧ ((List.range N).all fun n => n == 0 || s.boot.ready.contains n) ∧
      ((List.range 8).all fun p => !named p || portUp s p) then
    irq (setB s fBseBoot_cready) 0 70
  else s

/-- A member that is READY tells the master (log entry 35). -/
def tellReady (s : State) : State :=
  tellMaster s 0x46 (selfPos s) noFlits

/-! Link-wait (R280). -/

/-- How many lane-flits of an input lane a router's schedule takes in its next n non-held cycles. -/
def takesAhead (lane : Nat) : Nat → Router → Nat
  | 0, _ => 0
  | n + 1, r =>
    if r.done || !r.has then 0
    else
      let e := tget 0 r.sched r.slot
      let r1 := if r.rem ≤ 1 then r.sequence else { r with rem := r.rem - 1 }
      (if (takenLanes e).contains lane then 1 else 0) + takesAhead lane n r1

/-- Lane-flits that have arrived and not been taken. -/
def rxHeld (s : State) (b j : Nat) : Nat :=
  let g := gatewayLane b j
  ((s.router g.1).lane g.2).skid.length

/-! Frames. -/

/-- Codewords that hold any bit of a slot (R264). -/
def slotWords (i : Nat) : List Nat := [(398 + 259 * i) / 5140, (398 + 259 * i + 258) / 5140]
def slotBad (ucw : BitVec 6) (i : Nat) : Bool := (slotWords i).any fun w => ucw.getLsbD w

/-- Codes of the sync field; the manual names the types and gives no code (log entry 90). -/
def syncCode : Sync → Nat
  | .data => 0 | .training => 1 | .idle => 2

/-- A header copy (Table 10-2): the frame's type, number and counts of lane-flits by lane, with its marker and control fields and tag. -/
def frameHeader (x : Frame) (marker control : BitVec 64) (tag : BitVec 128) : BitVec 398 :=
  let scount := ((x.lanes.take 4).zipIdx.map fun l => l.1.length % 128 * 2 ^ (7 * l.2)).foldl (· + ·) 0
  BitVec.ofNat 398 (syncCode x.sync + x.fnum % 2 ^ 32 * 2 ^ 16 + scount * 2 ^ 48 + marker.toNat * 2 ^ 76 + control.toNat * 2 ^ 140 +
    tag.toNat * 2 ^ 204)

/-- A slot (Table 10-2): 256 data bits, poison, 2 line-check bits. -/
def slotBits (f : LFlit) : BitVec 259 := BitVec.ofNat 259 (f.data.toNat + 2 ^ 256 * bit f.psn + 2 ^ 257 * f.chk.toNat)

/-- The payload bits of a frame: header copy A, 116 slots, header copy B (Table 10-2). -/
def framePayload (header : BitVec 398) (slots : List (BitVec 259)) : BitVec 30840 :=
  BitVec.ofNat 30840 (header.toNat + ((slots.take 116).zipIdx.map fun f => f.1.toNat * 2 ^ (398 + 259 * f.2)).foldl (· + ·) 0 +
    header.toNat * 2 ^ 30442)

/-- The slots of a frame (R264): lane-flits of lanes 0 to 3, then packets, each its header and its data flits. -/
def frameSlots (x : Frame) : List (BitVec 259) :=
  x.lanes.flatMap (fun l => l.map slotBits) ++ x.pkts.flatMap fun p =>
    slotBits ⟨false, pieceCheck (headerWord p), headerWord p⟩ :: (List.range p.fl.n).map fun i =>
      slotBits ⟨p.fl.psn.getLsbD i, BitVec.ofNat 2 (p.fl.chk.toNat / 4 ^ i), BitVec.ofNat 256 (p.fl.data.toNat / 2 ^ (256 * i))⟩

/-- The nonce of a frame (R311): transmitting port and position, group and frame number. -/
def frameNonce (p pos g fnum : Nat) : BitVec 96 :=
  BitVec.ofNat 96 (p % 256 * 2 ^ 88 + pos % 256 * 2 ^ 80 + g % 2 ^ 32 * 2 ^ 32 + fnum % 2 ^ 32)

/-- A frame as it is sent from a port: with its nonce, and with the tag over its header, the tag field zero, and its slots (R311). -/
def sealFrame (s : State) (p : Nat) (x : Frame) : Frame :=
  let y := linkPort s p
  let nonce := frameNonce p (selfPos s) y.group x.fnum
  let key := Config.groupKey (Config.directionKey y.secret (selfPos s) p) y.group
  let head := frameHeader x (Config.markField x.marks) (Config.controlField x.ctl) 0
  { x with nonce := nonce, tag := Config.frameTag key nonce head (frameSlots x) }

/-- The frame number after one sent, and its group, which advances when the number wraps (R311). -/
def nextFrame (x : LinkPort) : LinkPort :=
  { x with fnum := (x.fnum + 1) % 2 ^ 32, group := if x.fnum + 1 = 2 ^ 32 then x.group + 1 else x.group }

/-- Ports that take a port's lane-flits across (R283). -/
def transitPorts (s : State) (p : Nat) : List Nat :=
  (List.range 8).filter fun b => rb s (fLnkPcfg_thru b) && decide (rf s (fLnkPcfg_src b) = p)

/-- One lane-flit arrives: its check, then its place in its lane (R265, R278, R283, R320). -/
def takeLaneFlit (s : State) (p j : Nat) (bad : Bool) (f : LFlit) : State :=
  let psn := f.psn || bad
  let miss := !psn && decide (pieceCheck f.data ≠ f.chk)
  let s := if miss then errEvent s .lineCheck .checkMismatch (unitLink p) 0 (unitLink p) 0 else s
  let fl : Flit := { valid := true, poison := psn || miss, chk := f.chk, data := f.data }
  let bs := transitPorts s p
  if bs.isEmpty then
    let g := gatewayLane p j
    let r := s.router g.1
    let l := r.lane g.2
    let s := s.setRouter g.1 (r.setLane g.2 { l with skid := l.skid ++ [fl] })
    let x := linkPort s p
    let s := setLinkPort s p { x with got := tset x.got j (tget 0 x.got j + 1) }
    if 1024 < l.skid.length + 1 && !x.paused.contains j then
      sendCtl (setLinkPort s p { linkPort s p with paused := j :: x.paused }) p (.pause j)
    else s
  else
    bs.foldl (fun s b =>
      let x := linkPort s b
      setLinkPort s b { x with transit := tset x.transit j (tget [] x.transit j ++
        [(BitVec.ofNat 3 (bit fl.poison + 2 * fl.chk.toNat), fl.data)]) }) s

/-- Lane-flits of a frame with the slots they came in. -/
def takeLanes (s : State) (p : Nat) (x : Frame) : State :=
  let all := (x.lanes.zipIdx.flatMap fun l => l.1.map fun f => (l.2, f)).zipIdx
  let s := all.foldl (fun s a => takeLaneFlit s p a.1.1 (slotBad x.ucw a.2) a.1.2) s
  match portOwner s p with
  | some q =>
    let y := s.part q
    let met (w : Nat × Nat × Nat) : Bool := decide (w.1 / 4 = p) && decide (w.2.2 ≤ tget 0 (linkPort s p).got (w.1 % 4))
    updateLine (s.setPart q { y with linkWait := y.linkWait.filter fun w => !met w }) q
  | none => s

/-- The command a packet for this device stands for. -/
def pktCmd (x : Pkt) : Option Instr :=
  let rq := x.rq
  let im := rq.imm.toNat
  match x.op with
  | 0x01 => some (if im / 256 % 2 = 1 then .sbPrefetch rq else .read rq [])
  | 0x02 => some (.write rq x.fl [])
  | 0x03 => some (.writeMasked rq x.fl [])
  | 0x04 =>
    match im % 16 with
    | 1 => some (.atomicAdd rq x.fl [])
    | 2 => some (.atomicMin rq x.fl [])
    | 3 => some (.atomicMax rq x.fl [])
    | 4 => some (.atomicSwap rq x.fl [])
    | 5 => some (.atomicCas rq x.fl [])
    | _ => some (.lineadd rq x.fl [])
  | 0x05 => some (.zeroLine rq [])
  | 0x20 => some (.readData rq.src x.dst rq.tag (im % 256) (bits im 16 16) (decide (im / 256 % 2 = 1)) x.fl)
  | 0x21 => some (.writeAck x.dst rq.tag)
  | 0x22 => some (.atomicResult x.dst rq.tag rq.imm)
  | 0x3F => some (.errorResponse x.dst rq.tag rq.addr im)
  | 0x30 => some (.control rq.src x.dst rq.imm)
  | _ => none

/-- A job of a LNK_DETOUR entry changed. -/
def mapJob (s : State) (e : Nat) (f : DetourJob → DetourJob) : State :=
  { s with links := { s.links with jobs := s.links.jobs.map fun j => if j.entry = e then f j else j } }

def dropJob (s : State) (e : Nat) : State :=
  { s with links := { s.links with jobs := s.links.jobs.filter fun j => decide (j.entry ≠ e) } }

/-- R290, R291: what the devices have answered for the elements of a list. A registration records the digest, or fails; a detour whose
digest is that of its entry goes on to load the images, and else is given up. -/
def jobAnswered (s : State) (e : Nat) : State :=
  match s.links.jobs.find? fun j => decide (j.entry = e) with
  | none => s
  | some j =>
    if j.loading || decide (j.answers.length < j.elems.length) then s
    else
      let ok := decide (1 ≤ j.elems.length ∧ j.elems.length ≤ 64) && j.answers.all fun a => a.2.1
      let d := (Config.detourDigest (j.answers.map fun a => a.2.2)).toNat
      match j.part with
      | none =>
        if ok then setB (wf (dropJob s e) (fLnkDetour_digest e) d) (fLnkDetour_ready e) else setB (dropJob s e) (fLnkDetour_err e)
      | some p =>
        if ok && decide (d = rf s (fLnkDetour_digest e)) then (mapJob s e fun j => { j with loading := true }).emit [.detour p false (some e) j.elems]
        else detourFail s p

/-- R290: once every image is loaded and the routes are written, the other devices learn the ways to the master, and GO is sent. -/
def jobLoaded (s : State) (p : Nat) : State :=
  match s.links.jobs.find? fun j => decide (j.part = some p) with
  | none => s
  | some j =>
    if !j.ordered || decide (j.loaded.length < j.elems.length) then s
    else
      let s := dropJob s j.entry
      let w := (List.range 64).map fun n => (tget 255 s.links.ways n) * 256 ^ n
      let s := (members s).foldl (fun s n => toMember s n 0x4F 0 ⟨2, BitVec.ofNat 2048 (w.foldl (· + ·) 0), 0, 0⟩ 0 0) s
      irq (sendGo s p) 0 67

/-- Messages between command processors (R284 to R286, R290, R291): 0x40 an entry and 0x41 its reply; a member's error record, vector,
quarantine, 0x45 a phase, 0x46 READY; 0x47 the cascade partitions; 0x48 a debug hold, 0x49 a run that fails; 0x4A the check of a
detour's image and 0x4B its answer, 0x4C its load and 0x4D its end; 0x4E an abort done; 0x4F ways to the master; 0x50 an ATS invalidation
and 0x51 its end; 0x52 where a port is cabled; 0x53 the end of a RUN_STEPS. -/
def cpPkt (s : State) (x : Pkt) : State :=
  let im := x.rq.imm.toNat
  let elem : DetourElem := ⟨selfPos s, x.rq.addr, x.rq.tag, (List.range 64).map fun i => BitVec.ofNat 32 (x.fl.data.toNat / 2 ^ (32 * i))⟩
  match x.op with
  | 0x47 => if isMember s then hwf s fLnkCasc_cpart (im % 2 ^ 16) else s
  | 0x48 =>
    let p := im % 16
    let n := im / 32 % 64
    let y := s.part p
    let l := y.farDbg.filter fun m => decide (m ≠ n)
    releaseGo (s.setPart p { y with farDbg := if im / 16 % 2 = 1 then n :: l else l }) p
  | 0x49 => if isMember s then s else endRun (abortAndTell s (im % 16)) (im % 16) (Status.ofCode (im / 16 % 256))
  | 0x4A => if isMember s then s.emit [.detourRegister (im % 32) (BitVec.ofNat 256 (im / 32 % 128)) [elem]] else s
  | 0x4B =>
    let e := im % 32
    jobAnswered (mapJob s e fun j => { j with answers := tset j.answers (im / 32 % 64) (decide (im / 2048 % 2 = 1),
      BitVec.ofNat 64 x.fl.data.toNat) }) e
  | 0x4C => if isMember s then s.emit [.detour (im % 16) true none [elem]] else s
  | 0x4D =>
    let p := im % 16
    if im / 1024 % 2 = 0 then (if detouring s p then detourFail s p else s)
    else
      let note (j : DetourJob) : DetourJob := if j.part = some p then { j with loaded := j.loaded ++ [im / 16 % 64] } else j
      jobLoaded { s with links := { s.links with jobs := s.links.jobs.map note } } p
  | 0x4E =>
    let p := im % 16
    let s := abortAndTell s p
    let y := s.part p
    let s := s.setPart p { y with acks := tset y.acks (im / 4096 % 64) (im / 16 % 256) }
    if detouring s p && decide (1 < (failedLinks s p).length) then detourFail s p else s
  | 0x4F =>
    let w := (List.range 64).filterMap fun n =>
      let m := x.fl.data.toNat / 256 ^ n % 256
      if m < 64 then some (n, m) else none
    { s with links := { s.links with ways := w } }
  | 0x50 => if isMember s then s.emit [.atsInvalidation (im / 2 ^ 21) (im % 2 ^ 21) x.rq.addr x.rq.tag] else s
  | 0x51 =>
    let i := im % 2 ^ 32
    let left := (tget [] s.host.invWait i).filter fun n => decide (n ≠ im / 2 ^ 32)
    wake { s with host := { s.host with invWait := tset s.host.invWait i left } }
  | 0x53 =>
    let y := s.part (im % 16)
    if isMember s then s.setPart (im % 16) { y with ownReady := false, readyPos := [] } else s
  | 0x52 => { s with links := { s.links with cables := tset s.links.cables (im % 512) (im / 1024 % 512) } }
  | 0x40 =>
    let q := 64 + x.rq.addr % 64
    let w : Fwd := { fn := im / 2 ^ 32 % 256, part := x.rq.part, key := x.rq.key
                     pasid := if x.rq.pasid = noPasid then none else some x.rq.pasid }
    let s := { s with fwd := tset s.fwd q w }
    beginEntry (s.setQueue q { s.queue q with nextseq := im % 2 ^ 32 }) q (BitVec.ofNat 512 x.fl.data.toNat)
  | 0x41 =>
    let w := x.fl.data.toNat
    finish s (x.rq.addr % 64) (im % 2 ^ 32) (Status.ofCode (im / 2 ^ 32 % 256)) (bits w 96 32) (bits w 128 64)
  | 0x42 => logHere s (ErrRec.ofWord x.fl.data.toNat)
  | 0x43 => irq s 0 (im % 128)
  | 0x44 =>
    let p := im % 16
    releaseGo (s.setPart p { s.part p with farQuar := decide (im / 256 % 2 = 1) }) p
  | 0x45 => s.emit [.phaseRequest (im % 4) false]
  | 0x46 =>
    let n := im % 64
    let s := toMember s n 0x47 (rf s fLnkCasc_cpart) noFlits 0 0
    creadyCheck (setPend { s with boot := { s.boot with ready := n :: s.boot.ready.filter fun m => decide (m ≠ n) } } n false)
  | _ => s

/-- R273: a packet that came over a link: for this device a command, for another the next link, or ERROR LINK_DOWN. An ATOMIC whose
operation Table 8-3 does not have is served as one at once (R209). -/
def takePkt (s : State) (x : Pkt) : State :=
  let s := if 0x20 ≤ x.op ∧ x.op < 0x40 then
      { s with outReqs := s.outReqs.filter fun o => !(decide (o.src = x.dst) && decide (o.tag = x.rq.tag)) } else s
  if nodePos x.dst = selfPos s then
    let op := x.rq.imm.toNat % 16
    if x.op = 4 ∧ (op = 0 ∨ 6 < op) then atomicReq s (.lineadd x.rq x.fl []) x.rq x.fl [] op else
    match pktCmd x with
    | some c => s.emit [c]
    | none => cpPkt s x
  else
    match routePort s (nodePos x.dst) with
    | some p =>
      let s := linkSend s p x
      if x.op < 0x20 then { s with outReqs := s.outReqs ++ [⟨x.rq.src, x.rq.tag, x.rq.addr, p, s.devtime.toNat⟩] } else s
    | none =>
      if x.op < 0x20 then sendRsp s (nodeCp + 1024 * selfPos s) x.rq 0x3F Status.linkDown.code 0 0 true noFlits
      else if x.op = 0x40 then
        sendRsp s (nodeCp + 1024 * selfPos s) x.rq 0x3F Status.linkDown.code 0 0 true noFlits
      else s

/-- Packets of a frame from a slot on; one with a flit in a bad codeword is dropped (R265). -/
def takePkts (s : State) (ucw : BitVec 6) : Nat → List Pkt → State
  | _, [] => s
  | i, x :: r =>
    let n := 1 + x.fl.n
    let bad := (List.range n).any fun d => slotBad ucw (i + d)
    takePkts (if bad then s else takePkt s x) ucw (i + n) r

/-- A marker message as the command it stands for. -/
def markCmd : Mark → Instr
  | .ready p k pos => .readyMarker p k pos
  | .go p k t => .goMarker p k t
  | .devtime t => .devtimeMessage t
  | .abort p => .abortMarker p

/-- A control message as the command it stands for; credits are no command. -/
def ctlCmd (b : Nat) : LCtl → Option Instr
  | .pause j => some (.linkPause b j)
  | .resume j => some (.linkResume b j)
  | .credits _ _ => none

/-- R264: credits that the peer gives back. -/
def takeCredits (x : LinkPort) (ms : List LCtl) : LinkPort :=
  ms.foldl (fun x m =>
    match m with
    | .credits v n => { x with credit := tset x.credit v (tget 0 x.credit v + n) }
    | _ => x) x

/-- R264: the flits of a frame's packets, taken or dropped, are room again in the buffers of their VCs (log entry 90). -/
def oweCredits (x : LinkPort) (ps : List Pkt) : LinkPort :=
  ps.foldl (fun x y => { x with owed := tset x.owed (opVc y.op) (tget 0 x.owed (opVc y.op) + 1 + y.fl.n) }) x

/-- Messages of a frame that no earlier frame brought (R265). -/
def fresh {α : Type} (x : LinkPort) (fnum : Nat) (ms : List (Nat × α)) : List α :=
  (ms.filter fun m => decide (m.1 = fnum) || decide (x.lastHdr ≠ some m.1)).map (·.2)

/-- The contents of a frame that is not lost (R264, R265). Only a data frame carries lane-flits and packets. -/
def deliverFrame (s : State) (p : Nat) (x : Frame) : State :=
  let y := linkPort s p
  let wrapped := match y.lastHdr with | some l => decide (x.fnum < l) | none => false
  let s := setLinkPort s p { y with lastHdr := some x.fnum, farGroup := if wrapped then y.farGroup + 1 else y.farGroup }
  let lanes := (x.lanes.map List.length).foldl (· + ·) 0
  if x.down && !slotBad x.ucw lanes then portDown s p 3
  else
    let ctl := fresh y x.fnum x.ctl
    let s := setLinkPort s p (takeCredits (linkPort s p) ctl)
    let s := s.emit (ctl.filterMap (ctlCmd p) ++ (fresh y x.fnum x.marks).map markCmd)
    if y.provision || decide (x.sync ≠ .data) then s
    else
      let s := setLinkPort s p (oweCredits (linkPort s p) x.pkts)
      takePkts (takeLanes s p x) x.ucw (lanes + bit x.down) x.pkts

/-- A frame arrives at a port that is up (R264 to R267). -/
def takeFrame (s : State) (p : Nat) (x : Frame) : State :=
  let ws := (List.range 6).filter fun i => x.ucw.getLsbD i
  let s := incWrap s (fLnkFeccnt_corr p) x.corr
  let s := incSat s (fLnkFeccnt_ucw p) ws.length
  let s := ws.foldl (fun s _ => errEvent s .link .uncorrectable (unitLink p) 0 p x.fnum) s
  let y := linkPort s p
  let bad := if ws.isEmpty then 0 else y.bad + 1
  let s := setLinkPort s p { y with bad := bad }
  if 8 ≤ bad then portDown s p 1
  else if (x.ucw.getLsbD 0 && x.ucw.getLsbD 5) || !x.tagOk then
    let s := setB (incSat s (fLnkFeccnt_lostf p) 1) (fLnkPstat_lost p)
    let s := errEvent s .link .uncorrectable (unitLink p) 0 p x.fnum
    let now := s.devtime.toNat
    let ls := now :: (y.lostAt.filter fun t => decide (now ≤ t + 10 ^ 6))
    let s := setLinkPort s p (oweCredits { linkPort s p with lostAt := ls } x.pkts)
    if 4 ≤ ls.length then portDown s p 2
    else
      match portOwner s p with
      | some q => abortAndTell s q
      | none => s
  else deliverFrame s p x

/-! Sending (R264). -/

/-- VC of a packet. -/
def pktVc (x : Pkt) : Nat := opVc x.op

/-- Whole packets of one VC, in order, that fit in n flits; those sent, those kept, flits left. -/
def fitPkts : Nat → List Pkt → List Pkt × List Pkt × Nat
  | n, [] => ([], [], n)
  | n, x :: r =>
    if 1 + x.fl.n ≤ n then
      let (a, b, m) := fitPkts (n - 1 - x.fl.n) r
      (x :: a, b, m)
    else ([], x :: r, n)

def toLFlit (f : Flit) : LFlit := ⟨f.poison, f.chk, f.data⟩

/-- Transit lane-flits as flits. -/
def ofTransit (x : BitVec 3 × BitVec 256) : Flit :=
  { valid := true, poison := x.1.getLsbD 0, chk := BitVec.ofNat 2 (x.1.toNat / 2), data := x.2 }

/-- What leaves gateway lane j of a port in a frame with room for n lane-flits: its own lane-flits, those that cross
unchanged, or the Press results of pairs (R283). -/
structure LaneOut where
  send : List Flit
  own : List (Nat × Flit)
  transit : List (BitVec 3 × BitVec 256)
  fl : Fl := flNone
  psn : Bool := false

def laneOut (s : State) (b j n : Nat) : LaneOut :=
  let own := (tget [] s.gwTx b).filter fun f => decide (f.1 = j)
  let tr := tget [] (linkPort s b).transit j
  if !rb s (fLnkPcfg_thru b) then { send := (own.take n).map (·.2), own := own.drop n, transit := tr }
  else if rf s (fLnkPcfg_op b) = 0 then
    let a := (tr.take n).map ofTransit
    { send := a ++ (own.take (n - a.length)).map (·.2), own := own.drop (n - a.length), transit := tr.drop n }
  else
    let k := min n (min own.length tr.length)
    let rs := ((own.take k).zip (tr.take k)).map fun x => pressFlit (rf s (fLnkPcfg_op b) + 1) [ofTransit x.2, x.1.2]
    { send := rs.map (·.1), own := own.drop k, transit := tr.drop k
      fl := rs.foldl (fun f r => f ||| r.2) flNone, psn := rs.any fun r => r.1.poison }

/-- Lanes 0 to 3 of a frame, at most 100 lane-flits together. -/
def lanesOut (s : State) (b : Nat) : List LaneOut :=
  ((List.range 4).foldl (fun (a : List LaneOut × Nat) j =>
    let o := laneOut s b j a.2
    (a.1 ++ [o], a.2 - o.send.length)) ([], 100)).1

/-- Packets of one VC that fit in the slots left and in the credits of the VC (R264): those sent, those kept, slots left. -/
def fitVc (x : LinkPort) (vc slots : Nat) (q : List Pkt) : List Pkt × List Pkt × Nat :=
  let c := min slots (tget 0 x.credit vc)
  let (a, b, left) := fitPkts c q
  (a, b, slots - (c - left))

/-- One frame is assembled and sent (R264). -/
def sendFrame (s : State) (p : Nat) : State :=
  let x := linkPort s p
  let outs := if x.noSched then [] else lanesOut s p
  let lanes := outs.map fun o => o.send.map toLFlit
  let kept := outs.flatMap (·.own)
  let cl := (gatewayLane p 0).1
  let s := outs.foldl (fun s o => pressFlags s cl o.fl o.psn) s
  let used := (lanes.map List.length).foldl (· + ·) 0
  let q := tget [] s.linkTx p
  let vc (v : Nat) : List Pkt := q.filter fun y => decide (pktVc y = v)
  let (a2, k2, n2) := fitVc x 2 (116 - used) (vc 2)
  let (a1, k1, n1) := fitVc x 1 n2 (vc 1)
  let (a0, k0, _) := fitVc x 0 n1 (vc 0)
  let pkts := a2 ++ a1 ++ a0
  let credit := pkts.foldl (fun c y => tset c (opVc y.op) (tget 0 c (opVc y.op) - 1 - y.fl.n)) x.credit
  let free := (List.range 4).filter fun j => x.paused.contains j && decide (rxHeld s p j ≤ 512)
  let ctl := (x.newCtl ++ free.map LCtl.resume ++ x.owed.map fun o => LCtl.credits o.1 o.2).map fun c => (x.fnum, c)
  let marks := x.newMarks.map fun m => (x.fnum, m)
  let f : Frame := { fnum := x.fnum, ucw := 0, corr := 0, tagOk := true, lanes := lanes, down := false
                     ctl := x.oldCtl ++ ctl, marks := x.oldMarks ++ marks, pkts := pkts }
  let f := sealFrame s p f
  let s := setLinkPort s p { nextFrame x with newMarks := [], oldMarks := marks, newCtl := [], oldCtl := ctl, sent := some f
                                              paused := x.paused.filter fun j => !free.contains j, credit := credit, owed := []
                                              transit := (outs.zipIdx.filter fun o => !o.1.transit.isEmpty).map fun o => (o.2, o.1.transit) }
  wake (txPauses { s with gwTx := tset s.gwTx p kept, linkTx := tset s.linkTx p (k2 ++ k1 ++ k0) } p)

end Sys2Proof.Machine
end

