-- ==== Sys2Proof/Machine/Debug.lean ====
section
/-! DEFINITION. Writes to the debug registers and the generator state of a core (R49, R118, R119, R304). -/
namespace Sys2Proof.Machine

/-- R304: a core of a confidential partition whose owner does not allow debug. -/
def debugBarred (s : State) (c : Nat) : Bool :=
  match corePart s c with
  | some p => rb s (fSecPbind_conf p) && !rb s (fSecPbind_dbg p)
  | none => false

/-- A debug hold raised by a core: it starts one hold lead later (R118). -/
def debugHalt (s : State) (c : Nat) : State := updateLineOf (s.setCore c { s.core c with dbg := true }) c

/-- A core's debug hold released; a cascade goes on once nothing withholds it (R277). -/
def debugResume (s : State) (c : Nat) : State :=
  let s := updateLineOf (s.setCore c { s.core c with dbg := false }) c
  match corePart s c with
  | some p => releaseGo s p
  | none => s

/-- The debug-held partition of a core runs one non-held core cycle (R118). -/
def debugStep (s : State) (c : Nat) : State :=
  match corePart s c with
  | none => s
  | some p =>
    let x := s.part p
    if x.held && debugHeld s p then s.setPart p { x with single := true } else s

/-- A write to CORE_DBGCTL by the masked bits: resume, then halt, then step (log entry 40). -/
def dbgctlBy (s : State) (fn c v mask : Nat) : State :=
  let barred := debugBarred s c
  let set (i : Nat) : Bool := decide (bits (Nat.land v mask) i 1 = 1)
  let s := regStoreAt s fn (offCoreDbgctl c) v (if barred then mask - Nat.land mask (2 ^ 28) else mask)
  let s := if set 30 then debugResume s c else s
  if barred then s
  else
    let s := if set 31 then debugHalt s c else s
    if set 29 then debugStep s c else s

/-- DEBUG_HALT. -/
def execDebugHalt (c : Nat) (s : State) : Host.Outcome State Fault Refusal :=
  .next (if 16384 ≤ c then s else dbgctlBy s 0 c (2 ^ 31) (2 ^ 31))
/-- DEBUG_RESUME. -/
def execDebugResume (c : Nat) (s : State) : Host.Outcome State Fault Refusal :=
  .next (if 16384 ≤ c then s else dbgctlBy s 0 c (2 ^ 30) (2 ^ 30))
/-- DEBUG_STEP. -/
def execDebugStep (c : Nat) (s : State) : Host.Outcome State Fault Refusal :=
  .next (if 16384 ≤ c then s else dbgctlBy s 0 c (2 ^ 29) (2 ^ 29))

/-- R119: a core with a register of its selector replaced. -/
def dbgPut (k : Core) (n v : Nat) : Core :=
  if n < 0x20 then k.setS n (BitVec.ofNat 64 v)
  else if n < 0x28 then k.setA (n - 0x20) (BitVec.ofNat 32 v)
  else if n = 0x28 then { k with preds := BitVec.ofNat 8 v }
  else if n < 0x2D then
    { k with loops := (k.loops.reverse.zipIdx.map fun l => if l.2 = n - 0x29 then { l.1 with count := v % 2 ^ 32 } else l.1).reverse }
  else
    let i := n - 0x80
    { k with vregs := tset k.vregs (i / 8) (BitVec.ofNat 512 (putBits (k.v (i / 8)).toNat (64 * (i % 8)) 64 v)) }

/-- R312: the audit entry of a change made through CORE_DBGDATA. -/
def auditDebug (s : State) (fn c old new : Nat) : State :=
  match regFind (offCoreDbgdata c) with
  | some (r, i) => auditChange s fn r i (offCoreDbgdata c) old new
  | none => s

/-- A write to CORE_DBGDATA by the masked bits, or none where it does not reach the register. -/
def dbgdataBy (s : State) (fn c v mask : Nat) : State :=
  let n := rf s (fCoreDbgsel_sel c)
  if dbgOpen s c && dbgSelOk n then
    let k := s.core c
    let m := mask % 2 ^ 64
    let new := Nat.lor (Nat.land v m) (Nat.land (dbgRead k n) (2 ^ 64 - 1 - m))
    (auditDebug s fn c (dbgRead k n) new).setCore c (dbgPut k n new)
  else s

/-- DEBUG_DATA_WRITE. -/
def execDebugDataWrite (c : Nat) (v : BitVec 64) (s : State) : Host.Outcome State Fault Refusal :=
  .next (if 16384 ≤ c then s else dbgdataBy s 0 c v.toNat (2 ^ 64 - 1))

/-- A write to CORE_SRSTATE: zero stores one. The state before it is kept for a conversion of the same cycle, and the written
value stands (R49). -/
def srstateBy (s : State) (fn c v mask : Nat) : State :=
  let s := { s with met := { s.met with sr := tset s.met.sr c (srState s c) } }
  regStoreAt s fn (offCoreSrstate c) v mask

/-- SRSTATE_WRITE. -/
def execSrstateWrite (c : Nat) (v : BitVec 32) (s : State) : Host.Outcome State Fault Refusal :=
  .next (if 16384 ≤ c then s else srstateBy s 0 c v.toNat (2 ^ 32 - 1))

end Sys2Proof.Machine
end

