-- ==== Sys2Proof/Machine/HostRows.lean ====
section
/-! DEFINITION. What the hardware responder serves without firmware: BAR4, configuration space, ATS invalidations, the link
coming up, and the low half of DEVTIME (R231, R234, R258, R261, R276, R304, R371, R386). -/
namespace Sys2Proof.Machine

/-! BAR4. -/

/-- The attributes of a BAR4 request (R234). -/
def bar4Acc (r : Bar4) : Acc := { node := nodeHost, part := r.part, key := r.key, pasid := noPasid, cls := 6, op := if r.write then 2 else 1 }

/-- R386: in RECOVERY, BAR4 reaches the recovery buffer alone. -/
def recovering (s : State) : Bool := decide (rf s fBseBoot_stage = 0xE)

/-- R304: the window names a confidential partition or its slot. -/
def bar4Shut (s : State) (r : Bar4) : Bool :=
  confidential s r.part || (decide (rf s (fSecSlot_state r.key) = 1) && confidential s (rf s (fSecSlot_part r.key)))

/-- R234, R304, R386: whether a request is completed with Unsupported Request: it leaves the near tier, far tier and scratch,
falls where R149 gives ACCESS_VIOLATION, fails its owner or key check, or carries a confidential partition or its slot. -/
def bar4Bad (s : State) (r : Bar4) (off : Nat) : Bool :=
  if recovering s then decide (0x2000000 < off + r.n)
  else
    let bad (a : Nat) : Bool :=
      match rangeOf a with
      | .near | .far | .scratch => rangeBad s nodeHost a || keyBad s (bar4Acc r) a || ownerBad s (bar4Acc r) a
      | _ => true
    bar4Shut s r || (piecesFrom r.addr r.n).any fun p => bad p.1

/-- R308: the first piece that fails a check of the memory that serves it leaves a FAULT record; a request outside the three
ranges, or one that R304 turns away, reaches no memory. -/
def bar4Note (s : State) (r : Bar4) (off : Nat) : State :=
  let out (a : Nat) : Bool := match rangeOf a with | .near | .far | .scratch => false | _ => true
  if recovering s || bar4Shut s r || (piecesFrom r.addr r.n).any fun p => out p.1 then s
  else
    match (piecesFrom r.addr r.n).find? fun p => bar4Bad s { r with addr := p.1, n := 1 } off with
    | some p => reqFault s (bar4Acc r) p.1 .accessViolation
    | none => s

/-- The request of a number: as it was recorded at its arrival, or new under the window in force. -/
def bar4Find (s : State) (id off n : Nat) (write : Bool) : Bar4 :=
  match s.host.bar4.find? fun r => decide (r.id = id) with
  | some r => r
  | none =>
    { id := id, addr := if recovering s then scrBase + off else rf s fCmdBar4_base * 2 ^ 36 + off
      part := rf s fCmdBar4_part, key := rf s fCmdBar4_key, n := n, write := write, sent := s.devtime.toNat }

def bar4Drop (s : State) (id : Nat) : State :=
  { s with host := { s.host with bar4 := s.host.bar4.filter fun r => decide (r.id ≠ id) } }

/-- A request that the memory has not answered yet is kept, with the command that makes it again. -/
def bar4Wait (s : State) (r : Bar4) (cmd : Instr) : State :=
  let s := bar4Drop s r.id
  { s with host := { s.host with bar4 := s.host.bar4 ++ [r] }, waiting := s.waiting ++ [cmd] }

def setCpl (s : State) (c : Cpl) : State := { s with host := { s.host with cpl := some c } }

/-- The recovery buffer answers at once. -/
def bar4ReadRange (s : State) (r : Bar4) (ecc : Eccs) : State × List (Byte × Bool) × Option (Got × Nat) :=
  if recovering s then
    (s, (bytesOf r.n (memRead s.mem r.addr r.n)).map fun b => (b, psnAny s.psn r.addr r.n), none)
  else readRange s { bar4Acc r with ecc := ecc } (piecesFrom r.addr r.n)

/-- BAR4_READ (R234, R261): a read of n bytes at an offset. A poisoned line poisons the completion. -/
def execBar4Read (id off n : Nat) (ecc : Eccs) (s : State) : Host.Outcome State Fault Refusal :=
  let r := bar4Find s id off n false
  .next (if !s.host.up then s
    else if bar4Bad s r off then setCpl (bar4Drop (bar4Note s r off) id) { ur := true }
    else
      match bar4ReadRange s r ecc with
      | (s, bs, none) => setCpl (bar4Drop s id) { data := natOf (bs.map (·.1)), psn := bs.any (·.2) }
      | (s, _, some (.wait, _)) => bar4Wait s r (.bar4Read id off n ecc)
      | (s, _, some _) => setCpl (bar4Drop s id) { data := 256 ^ n - 1, psn := true })

/-- One piece of a write: masked bytes of one line. -/
def bar4Piece (s : State) (r : Bar4) (ecc : Eccs) (bytes : List Byte) (psn : Bool) : State × Got :=
  if recovering s then
    let s := { s with mem := memWrite s.mem r.addr bytes.length (natOf bytes) }
    (if psn then { s with psn := psnSet s.psn r.addr bytes.length true } else s, .ok 0 0 0)
  else writeBytes s { bar4Acc r with ecc := ecc } r.addr bytes.length (natOf bytes) (if psn then 255 else 0)

/-- The pieces of a write in order; the rest of one that must wait keeps its place. -/
def bar4Pieces (ecc : Eccs) : Nat → State → Bar4 → Nat → List Byte → Bool → State
  | 0, s, r, _, _, _ => bar4Drop s r.id
  | k + 1, s, r, off, bytes, psn =>
    if bytes.isEmpty then bar4Drop s r.id
    else
      let n := min bytes.length (256 - r.addr % 256)
      match bar4Piece s r ecc (bytes.take n) psn with
      | (s, .wait) => bar4Wait s r (.bar4Write r.id off bytes psn ecc)
      | (s, .err _) => bar4Drop s r.id
      | (s, _) => bar4Pieces ecc k s { r with addr := r.addr + n, n := r.n - n } (off + n) (bytes.drop n) psn

/-- BAR4_WRITE (R234, R261): a posted write, poisoned or not. -/
def execBar4Write (id off : Nat) (bytes : List (BitVec 8)) (psn : Bool) (ecc : Eccs) (s : State) : Host.Outcome State Fault Refusal :=
  let r := bar4Find s id off bytes.length true
  .next (if !s.host.up then s
    else if bar4Bad s r off then setCpl (bar4Drop (bar4Note s r off) id) { ur := true }
    else bar4Pieces ecc (bytes.length + 1) s r off bytes psn)

def bar4Is (id : Nat) (c : Instr) : Bool :=
  match c with
  | .bar4Read i _ _ _ => decide (i = id)
  | .bar4Write i _ _ _ _ => decide (i = id)
  | _ => false

/-- BAR4_TIMEOUT (R261): 20 µs without an answer: a read completes with all ones and the poison bit, a write is discarded, and
a TIMEOUT record is written. -/
def execBar4Timeout (id : Nat) (s : State) : Host.Outcome State Fault Refusal :=
  .next (match s.host.bar4.find? fun r => decide (r.id = id ∧ r.sent + 20000 ≤ s.devtime.toNat) with
    | none => s
    | some r =>
      let s := bar4Drop s id
      let s := { s with waiting := s.waiting.filter fun c => !bar4Is id c, pending := s.pending.filter fun c => !bar4Is id c }
      let s := errNote s .fault .timeout unitHost r.addr 0 nodeHost (some r.part)
      if r.write then s else setCpl s { data := 256 ^ r.n - 1, psn := true })

/-- A write to CMD_BAR4 by the masked bits. -/
def bar4Window (s : State) (fn v mask : Nat) : State := regStoreAt s fn offCmdBar4 v mask

/-- BAR4_WINDOW_WRITE (R234): requests that arrive later use the new window. -/
def execBar4WindowWrite (v : BitVec 64) (s : State) : Host.Outcome State Fault Refusal :=
  .next (bar4Window s 0 v.toNat (2 ^ 64 - 1))

/-! Configuration space (R231, R261). -/

/-- BAR2 of a function (R233, R236): the tail and head last written of the queue whose page it is; zero elsewhere. -/
def bar2Read (s : State) (fn off : Nat) : Nat :=
  match queueAt s fn (off / 0x1000) with
  | some q =>
    match off % 0x1000 with
    | 0 => (s.queue q).lastTail
    | 4 => (s.queue q).lastHead
    | _ => 0
  | none => 0

/-- BAR0 of a function (R232, R233): PF0's registers, or a VF's blocks of its local queues; zero beyond them. -/
def bar0Read (s : State) (fn off : Nat) : State × Nat :=
  if fn = 0 then regRead1 s off
  else
    match vfOffset s fn off with
    | some o => (s, regRead32 s o)
    | none => (s, 0)

/-- CONFIG_ACCESS (R231, R261): what the hardware responder answers at once: a read or a write, with v, of configuration word off of function
fn, a read of 32 or 64 bits of its BAR0 or BAR2, or a request of a kind that the host port does not support. -/
def execConfigAccess (fn off : Nat) (rq : HostReq) (v : BitVec 32) (s : State) : Host.Outcome State Fault Refusal :=
  .next (if !s.host.up then s
    else if 17 ≤ fn then setCpl s { ur := true }
    else
      match rq with
      | .config => if 1024 ≤ off then setCpl s { ur := true } else setCpl s { data := (cfgRead s fn off).toNat }
      | .configWrite =>
        if 1024 ≤ off then setCpl s { ur := true }
        else
          let w := cfgKeep fn off (Config.cfgWrite fn off (cfgRead s fn off) v)
          setCpl { s with host := { s.host with cfg := tset s.host.cfg (1024 * fn + off) w } } {}
      | .bar0 two =>
        let (s, x) := bar0Read s fn off
        let (s, y) := if two then bar0Read s fn (off + 4) else (s, 0)
        setCpl s { data := x + y * 2 ^ 32 }
      | .bar2 two => setCpl s { data := bar2Read s fn off + (if two then bar2Read s fn (off + 4) * 2 ^ 32 else 0) }
      | .unlisted => setCpl s { ur := true })

/-! ATS invalidation (R258). -/

/-- Whether a miss of a host-window line that an invalidation covers is in progress. -/
def invBusy (s : State) (pasid va lg : Nat) : Bool :=
  allSlices.any fun sl => (s.slice sl).miss.any fun m =>
    decide (rangeOf (lineAddr m.line) = .host) && decide (m.acc.pasid = pasid) &&
      decide ((lineAddr m.line - hostBase) / 2 ^ lg = va / 2 ^ lg)

/-- Pages that entries of queues have translated for a tile and that an invalidation covers are translated again (R256). -/
def dropTranslated (s : State) (pasid va lg : Nat) : State :=
  { s with queues := s.queues.map fun (e : Nat × Queue) =>
      if qPasid s e.1 = pasid then
        (e.1, { e.2 with entries := e.2.entries.map fun y =>
          { y with pages := y.pages.filter fun p => !decide (p.1 * 4096 / 2 ^ lg = va / 2 ^ lg ∨ p.1 = va / 4096) } })
      else e }

/-- ATS_INVALIDATION: entries that cover the range leave the cache; once their users are done, CLEAN_INV runs over the lines of
the PASID and range; the completion is sent when no line waits and, at the master, every member has done the same (R285). A member
tells the master instead. -/
def execAtsInvalidation (id pasid va lg : Nat) (s : State) : Host.Outcome State Fault Refusal :=
  let h := s.host
  let again (s : State) : State := { s with waiting := s.waiting ++ [.atsInvalidation id pasid va lg] }
  let x : Xlat := ⟨pasid, va / 2 ^ lg * 2 ^ lg, lg, false, false⟩
  let ask := if rf s fLnkCasc_topo = 0 ∨ isMember s then [] else (members s).filter fun n => (routePort s n).isSome
  let s := if h.invs.contains id then s
    else
      let s := { dropTranslated s pasid x.va lg with host := { h with
        cache := h.cache.filter fun y => !(decide (y.pasid = pasid) && (y.covers pasid x.va || x.covers pasid y.va))
        invs := h.invs ++ [id], invWait := if ask.isEmpty then h.invWait else tset h.invWait id ask } }
      ask.foldl (fun s n => toMember s n 0x50 (pasid + 2 ^ 21 * id) noFlits lg va) s
  .next (if invBusy s pasid va lg then again s
    else
      let (s, left) := walkSlices s (hostWalk 3 (hostBase + x.va) (2 ^ lg) pasid) allSlices
      if !left.isEmpty || !(tget [] s.host.invWait id).isEmpty then again s
      else
        tellMaster { s with host := { s.host with invs := s.host.invs.filter fun i => decide (i ≠ id)
                                                  invWait := terase s.host.invWait id } }
          0x51 (id + 2 ^ 32 * selfPos s) noFlits)

/-! Others. -/

/-- PCIE_LINK_UP (R371): from here on the hardware responder serves the host. -/
def execPcieLinkUp (s : State) : Host.Outcome State Fault Refusal := .next { s with host := { s.host with up := true } }

/-- DEVTIME_LOW_READ (R276): the low half of BSE_TIME is returned, and the high half is kept for the next 32-bit read. -/
def execDevtimeLowRead (s : State) : Host.Outcome State Fault Refusal :=
  .next (if !s.host.up then s
    else
      let (s, x) := regRead1 s offBseTime
      setCpl s { data := x })

end Sys2Proof.Machine
end

