-- ==== Sys2Proof/Machine/Copy.lean ====
section
/-! DEFINITION. The copy engines: COPY, COPY2D, FILL, ZERO, PREFETCH and DIGEST tile by tile (R247, R248, R256, R259, R323,
R324, R409), and ADVISE. -/
namespace Sys2Proof.Machine

/-! Ranges. -/

/-- Where a range of Table 6-1, or a gap between two, begins; the remote ranges are 64, one for each position. -/
def rangeEdges : List Nat :=
  [0x002000000000, farBase, 0x016000000000, scrBase, 0x020018000000, cmBase, 0x030080000000, regBase, 0x040004000000,
   hostBase] ++ (List.range 65).map (fun n => remBase + n * 0x008000000000) ++ [2 ^ 48]

def rangeIx (a : Nat) : Nat := (rangeEdges.filter fun e => decide (e ≤ a)).length

/-- Rows of bytes: base, pitch, count, width. -/
structure Rows where
  base : Int
  pitch : Int
  count : Nat
  width : Nat
deriving DecidableEq, Repr

def Rows.at (x : Rows) (i : Nat) : Int := x.base + (i : Int) * x.pitch

/-- Whether the rows leave one range of Table 6-1. -/
def Rows.crosses (x : Rows) : Bool :=
  let lo := min (x.at 0) (x.at (x.count - 1))
  let hi := max (x.at 0) (x.at (x.count - 1)) + (x.width : Int) - 1
  decide (lo < 0) || decide (rangeIx lo.toNat ≠ rangeIx hi.toNat)

/-- Whether some row of x holds a byte of a row of width w at a: an index i with a - width < at i < a + w. -/
def Rows.meets (x : Rows) (a : Int) (w : Nat) : Bool :=
  let lo := a - (x.width : Int) + 1 - x.base
  let hi := a + (w : Int) - 1 - x.base
  if x.pitch = 0 then decide (lo ≤ 0 ∧ 0 ≤ hi)
  else
    let (l, h, d) := if 0 < x.pitch then (lo, hi, x.pitch) else (-hi, -lo, -x.pitch)
    let i := max 0 (-((-l) / d))
    decide (i * d ≤ h ∧ i < (x.count : Int))

def Rows.overlap (x y : Rows) : Bool := (List.range x.count).any fun i => y.meets (x.at i) x.width

/-! Commands as rows. -/

def qKey (s : State) (q : Nat) : Nat :=
  if 1 ≤ qFn s q ∧ confidential s (qFn s q - 1) then rf s (fSecPbind_dkey (qFn s q - 1)) else (qAttr s q).key

/-- What a copy-class packet reads and writes. Transposed rows are the runs that one element of each source row fills. -/
def srcRows (x : BitVec 512) : Rows :=
  if pkOpcode x = 2 then ⟨pkAddr x 16, sint 64 (pk x 40 8), pk x 36 4, pk x 32 4⟩ else ⟨pkAddr x 16, 0, 1, pk x 32 8⟩
def elemOf (x : BitVec 512) : Nat := match bits x.toNat 448 2 with | 1 => 1 | 2 => 2 | 3 => 4 | _ => 0
def dstRows (x : BitVec 512) : Rows :=
  if pkOpcode x = 2 then
    (if elemOf x = 0 then ⟨pkAddr x 24, sint 64 (pk x 48 8), pk x 36 4, pk x 32 4⟩
     else ⟨pkAddr x 24, sint 64 (pk x 48 8), pk x 32 4 / elemOf x, pk x 36 4 * elemOf x⟩)
  else ⟨pkAddr x 24, 0, 1, pk x 32 8⟩

/-- Bytes of FILL's pattern. -/
def fillWidth (x : BitVec 512) : Nat := 2 ^ bits x.toNat 384 2

/-- R247: what ends a copy-class entry INVALID. -/
def copyOk (x : BitVec 512) : Bool :=
  let op := pkOpcode x
  let lens := if op = 2 then
      decide (1 ≤ pk x 32 4 ∧ pk x 32 4 ≤ 65536 ∧ 1 ≤ pk x 36 4) &&
        (elemOf x == 0 || decide (pk x 32 4 ≤ 1024 ∧ pk x 32 4 % elemOf x = 0))
    else decide (1 ≤ pk x 32 8) && decide (op ≠ 1 ∨ pk x 32 8 ≤ 2 ^ 36)
  let fill := if op = 3 then decide (pkAddr x 24 % fillWidth x = 0 ∧ pk x 32 8 % fillWidth x = 0) else true
  lens && fill && !(dstRows x).crosses &&
    (decide (3 ≤ op) || (!(srcRows x).crosses && !(srcRows x).overlap (dstRows x)))

/-- A write of one tile within one destination line: its bytes come from the sources in turn, or are made by the engine. -/
structure Mv where
  dst : Nat
  n : Nat
  src : List (Nat × Nat)
deriving DecidableEq, Repr

/-- Span of tile k of a linear command: offsets from the destination. -/
def linTile (dst len k : Nat) : Nat × Nat :=
  (if k = 0 then 0 else (dst / 65536 + k) * 65536 - dst, min len ((dst / 65536 + k + 1) * 65536 - dst))

/-- Tiles of a copy-class packet. -/
def tileCount (x : BitVec 512) : Nat :=
  if pkOpcode x = 2 then
    (if elemOf x = 0 then let p := max 1 (65536 / pk x 32 4); (pk x 36 4 + p - 1) / p else (pk x 36 4 + 63) / 64)
  else (pkAddr x 24 + pk x 32 8 + 65535) / 65536 - pkAddr x 24 / 65536

/-- The writes of tile k. -/
def tileMoves (x : BitVec 512) (k : Nat) : List Mv :=
  let run (d n : Nat) (src : Nat → Nat → List (Nat × Nat)) : List Mv :=
    (piecesFrom d n).map fun p => ⟨p.1 % 2 ^ 48, p.2, src (p.1 - d) p.2⟩
  if pkOpcode x = 2 then
    let w := pk x 32 4
    let rows := pk x 36 4
    if elemOf x = 0 then
      let p := max 1 (65536 / w)
      ((List.range rows).drop (k * p)).take p |>.flatMap fun r =>
        run ((dstRows x).at r).toNat w fun o n => piecesFrom (((srcRows x).at r).toNat + o) n
    else
      let e := elemOf x
      let r0 := 64 * k
      let m := min 64 (rows - r0)
      (List.range (w / e)).flatMap fun i =>
        run (((dstRows x).at i).toNat + r0 * e) (m * e) fun o n =>
          ((List.range m).filter fun r => decide (o < (r + 1) * e ∧ r * e < o + n)).flatMap fun r =>
            let lo := max o (r * e) - r * e
            let hi := min (o + n) ((r + 1) * e) - r * e
            piecesFrom (((srcRows x).at (r0 + r)).toNat + i * e + lo) (hi - lo)
  else
    let (lo, hi) := linTile (pkAddr x 24) (pk x 32 8) k
    run (pkAddr x 24 + lo) (hi - lo) fun o n =>
      if pkOpcode x = 1 then piecesFrom (pkAddr x 16 + lo + o) n else []

/-- Bytes that the engine makes itself for a write: FILL's pattern or zeros. -/
def madeBytes (x : BitVec 512) (m : Mv) : List (Byte × Bool) :=
  (List.range m.n).map fun i =>
    (if pkOpcode x = 3 then BitVec.ofNat 8 (pk x 40 8 / 2 ^ (8 * ((m.dst + i) % fillWidth x))) else 0, false)

/-! Translations (R256). -/

/-- Host pages that accesses touch, as PASID, page and whether they are written. -/
def hostPages (pasid : Nat) (write : Bool) (ps : List (Nat × Nat)) : List (Nat × Nat × Bool) :=
  ((ps.filter fun p => decide (rangeOf p.1 = .host) && decide (p.2 ≠ 0)).flatMap fun p =>
    let v := p.1 - hostBase
    (List.range ((v + p.2 - 1) / 4096 - v / 4096 + 1)).map fun i => (pasid, v / 4096 + i, write)).eraseDups

/-- Where the translations of a list of pages stand: the first that failed, or whether all are there. -/
inductive Pages where
  | ready | wait | failed (page : Nat)
deriving DecidableEq, Repr

/-- R256: every page that the entry's tile has not translated yet is looked up; those that lack a translation or a permission are
asked for in one page request group, of at most the 512 that may be outstanding (R231). What a look-up finds counts for the tile,
which may touch more pages than the cache holds (log entry 88). -/
def pagesReady (s : State) (q seq : Nat) (ps : List (Nat × Nat × Bool)) : State × Pages :=
  let got := ((entryOf s q seq).map Entry.pages).getD []
  let (s, rs) := (ps.filter fun p => !got.contains (p.2.1, p.2.2)).foldl (fun (a : State × List ((Nat × Nat × Bool) × Tr)) p =>
    let (s', t) := translatePage a.1 p.1 (p.2.1 * 4096) p.2.2
    (s', a.2 ++ [(p, t)])) (s, [])
  let hits := (rs.filter fun r => decide (r.2 = .hit)).map fun r => (r.1.2.1, r.1.2.2)
  let s := mapEntry s q seq fun e => { e with pages := e.pages ++ hits }
  match rs.find? fun r => decide (r.2 = .fault) with
  | some r => (s, .failed r.1.2.1)
  | none =>
    if rs.any fun r => decide (r.2 = .wait) then (s, .wait)
    else
      let needs := (rs.filter fun r => decide (r.2 = .need)).map (·.1)
      if needs.isEmpty then (s, .ready) else (sendPrg s (needs.take 512), .wait)

/-! Engines. -/

/-- Attributes of an engine's requests (R222, R308). -/
def engineAcc (s : State) (e q : Nat) (x : BitVec 512) (ecc : Eccs) : Acc :=
  { node := 0x228 + e, part := qPart s q, key := qKey s q, pasid := qPasid s q, cls := pkClass x, hint := pkHint x, ecc := ecc }

def engineFree (s : State) (e : Nat) : Bool :=
  let g := s.engine e
  !g.busy && !g.out && !g.testing && !(s.rjobs.any fun j => decide (j.kind = 3 ∧ j.idx = e))

def freeEngine (s : State) : Option Nat := (List.range 16).find? (engineFree s)

/-- A started entry whose command has not run. -/
def onEntry (s : State) (q seq : Nat) (f : State → BitVec 512 → State) : State :=
  match entryOf s q seq with
  | some e => if e.reply.isSome || e.begun then s else f s e.pkt
  | none => s

/-- An entry's command begins to act. -/
def setBegun (s : State) (q seq : Nat) : State := mapEntry s q seq fun e => { e with begun := true }

def waitFor (s : State) (c : Instr) : State := { s with waiting := s.waiting ++ [c] }

/-- An entry takes an engine, or waits for one. -/
def takeEngine (s : State) (q seq : Nat) (cmd : Instr) : State :=
  match freeEngine s with
  | none => waitFor s cmd
  | some e =>
    ((setBegun s q seq).setEngine e { q := q, seq := seq, busy := true, out := (s.engine e).out }).emit [.tileComplete e []]

/-- COPY, COPY2D, FILL and ZERO start (R247). -/
def copyStart (q seq : Nat) (cmd : Instr) (s : State) : State :=
  onEntry s q seq fun s x => if copyOk x then takeEngine s q seq cmd else finish s q seq .invalid 0 0

def execCopy (q seq : Nat) (s : State) : Host.Outcome State Fault Refusal := .next (copyStart q seq (.copy q seq) s)
def execCopy2d (q seq : Nat) (s : State) : Host.Outcome State Fault Refusal := .next (copyStart q seq (.copy2d q seq) s)
def execFill (q seq : Nat) (s : State) : Host.Outcome State Fault Refusal := .next (copyStart q seq (.fill q seq) s)
def execZero (q seq : Nat) (s : State) : Host.Outcome State Fault Refusal := .next (copyStart q seq (.zero q seq) s)

/-- An engine's entry ends and the engine is free. -/
def engineEnd (s : State) (e : Nat) (st : Status) (detail result : Nat) : State :=
  let g := s.engine e
  let s := s.setEngine e { out := g.out }
  wake (finish (if st = .ok ∨ st = .uncorrectable then setPast s g.q g.seq else s) g.q g.seq st detail result)

/-- One write of a tile: what it reads, then the write under a mask. -/
def moveOne (s : State) (q : Acc) (x : BitVec 512) (m : Mv) (mask : Nat) : State × Option Nat × Option (Got × Nat) :=
  let (s, xs, bad) := if m.src.isEmpty then (s, madeBytes x m, none) else readRange s q m.src
  match bad with
  | some b => (s, none, some b)
  | none =>
    let psn := if xs.any (·.2) then
        (m.src.find? fun p => let (_, l, _) := readRange s q [p]; l.any (·.2)).map fun p => p.1 / 256 * 256
      else none
    let off := m.dst % 256
    let d := natOf (xs.map (·.1))
    let marks := markPieces off xs
    let whole := decide (mask = 2 ^ 256 - 1)
    let (s, g) :=
      if pkOpcode x = 4 ∧ m.n = 256 ∧ whole then zeroLine s q m.dst
      else if whole then writeBytes s q m.dst m.n d marks
      else access s { q with op := 3 } m.dst m.n
        (.masked (Nat.land mask ((2 ^ m.n - 1) * 2 ^ off)) (d * 2 ^ (8 * off)) marks)
    match g with
    | .ok _ _ _ => (s, psn, none)
    | g => (s, psn, some (g, m.dst))

/-- R409: of the writes of a tile that failed, each byte may or may not have been written. -/
def failTile (s : State) (q : Acc) (x : BitVec 512) (ms : List Mv) : State :=
  ms.foldl (fun s m =>
    let (b, s) := s.draw 1
    if b = 0 then s
    else
      let (k, s) := s.draw 256
      (moveOne s q x m k.toNat).1) s

/-- The writes of a tile from where the engine stands. -/
def runTile (s : State) (e : Nat) (q : Acc) (x : BitVec 512) (cmd : Instr) : List Mv → State
  | [] => s
  | m :: r =>
    match moveOne s q x m (2 ^ 256 - 1) with
    | (s, psn, none) =>
      let g := s.engine e
      runTile (s.setEngine e { g with pos := g.pos + 1, bytes := g.bytes + m.n, badAddr := g.badAddr.orElse fun _ => psn })
        e q x cmd r
    | (s, _, some (.wait, _)) => waitFor s cmd
    | (s, _, some (.err st, a)) => s.setEngine e { s.engine e with fail := some (st, a) }
    | (s, _, some (.ok _ _ _, _)) => s

/-- The next tile of an entry asks for its own translations. -/
def dropPages (s : State) (q seq : Nat) : State := mapEntry s q seq fun e => { e with pages := [] }

/-- One tile of a copy-class command. -/
def copyTile (s : State) (e : Nat) (x : BitVec 512) (ecc : Eccs) : State :=
  let g := s.engine e
  let q := engineAcc s e g.q x ecc
  let ms := tileMoves x g.tile
  let (s, pg) := pagesReady s g.q g.seq
    (hostPages q.pasid false (ms.flatMap (·.src)) ++ hostPages q.pasid true (ms.map fun m => (m.dst, m.n)))
  match pg with
  | .failed p => engineEnd s e .translationFault g.tile (hostBase + 4096 * p)
  | .wait => waitFor (s.setEngine e { g with waitPages := [g.tile] }) (.tileComplete e ecc)
  | .ready =>
    let s0 := s.setEngine e { g with waitPages := [] }
    let s := runTile s0 e q x (.tileComplete e ecc) (ms.drop g.pos)
    let i := (s.engine e).pos
    match (s.engine e).fail with
    | some (st, a) =>
      let s := failTile s0 q x ((ms.take i).drop g.pos)
      let s := match ms[i]? with
        | some m => (moveOne s q x m (2 ^ 256 - 1)).1
        | none => s
      engineEnd (failTile s q x (ms.drop (i + 1))) e st g.tile a
    | none =>
      let g := s.engine e
      if g.pos < ms.length then s
      else
        let g := { g with tile := g.tile + 1, pos := 0 }
        let s := dropPages (s.setEngine e g) g.q g.seq
        if g.tile < tileCount x then s.emit [.tileComplete e []]
        else
          match g.badAddr with
          | some a => engineEnd s e .uncorrectable g.tile a
          | none => engineEnd s e .ok g.tile g.bytes

/-! DIGEST (R323, R324). -/

/-- R324: what ends a DIGEST INVALID. -/
def digestOk (x : BitVec 512) : Bool :=
  decide (pkAddr x 16 % 256 = 0 ∧ pk x 32 8 % 256 = 0 ∧ pk x 32 8 ≠ 0) &&
    decide (rangeIx (pkAddr x 16) = rangeIx (pkAddr x 16 + pk x 32 8 - 1))

def execDigest (q seq : Nat) (s : State) : Host.Outcome State Fault Refusal :=
  .next (onEntry s q seq fun s x => if digestOk x then takeEngine s q seq (.digest q seq) else finish s q seq .invalid 0 0)

/-- Lines of portion k. -/
def portionLines (x : BitVec 512) (k : Nat) : List Nat :=
  let a := pkAddr x 16
  let (lo, hi) := linTile a (pk x 32 8) k
  (List.range ((hi - lo) / 256)).map fun i => a + lo + 256 * i

/-- Lines of a portion from where the engine stands. -/
def runPortion (s : State) (e : Nat) (q : Acc) (x : BitVec 512) (cmd : Instr) : List Nat → State
  | [] => s
  | a :: r =>
    match readBytes s q a 256 with
    | (s, .ok d p _) =>
      let g := s.engine e
      let c := crc64 (bytesOf 8 ((a - pkAddr x 16) / 256) ++ bytesOf 256 d)
      runPortion (s.setEngine e { g with pos := g.pos + 1, crc := g.crc ^^^ BitVec.ofNat 64 c
                                         badAddr := g.badAddr.orElse fun _ => if p = 0 then none else some a }) e q x cmd r
    | (s, .wait) => waitFor s cmd
    | (s, .err st) => s.setEngine e { s.engine e with fail := some (st, a) }

/-- One portion of a DIGEST. -/
def digestPortion (s : State) (e : Nat) (x : BitVec 512) (ecc : Eccs) : State :=
  let g := s.engine e
  let q := engineAcc s e g.q x ecc
  let ls := portionLines x g.tile
  let (s, pg) := pagesReady s g.q g.seq (hostPages q.pasid false (ls.map fun a => (a, 256)))
  match pg with
  | .failed p => engineEnd s e .translationFault g.tile (hostBase + 4096 * p)
  | .wait => waitFor (s.setEngine e { g with waitPages := [g.tile] }) (.tileComplete e ecc)
  | .ready =>
    let s := runPortion (s.setEngine e { g with waitPages := [] }) e q x (.tileComplete e ecc) (ls.drop g.pos)
    let g := s.engine e
    match g.fail with
    | some (st, a) => engineEnd s e st g.tile a
    | none =>
      if g.pos < ls.length then s
      else
        let g := { g with tile := g.tile + 1, pos := 0 }
        let s := dropPages (s.setEngine e g) g.q g.seq
        if linTile (pkAddr x 16) (pk x 32 8) g.tile |>.1 |> (· < pk x 32 8) then s.emit [.tileComplete e []]
        else
          let n := pk x 32 8 / 256
          match g.badAddr with
          | some a => engineEnd s e .uncorrectable n a
          | none => engineEnd s e .ok n g.crc.toNat

/-- TILE_COMPLETE (R247): at a tile boundary an engine ends an aborted command, or does its next tile. -/
def execTileComplete (e : Nat) (ecc : Eccs) (s : State) : Host.Outcome State Fault Refusal :=
  let g := s.engine e
  .next (match entryOf s g.q g.seq with
    | none => s
    | some en =>
      if !g.busy then s
      else if g.abort && g.pos == 0 then engineEnd s e .aborted g.tile g.bytes
      else
        match g.fail with
        | some (st, a) => engineEnd s e st g.tile a
        | none => if copyClass (pkOpcode en.pkt) then copyTile s e en.pkt ecc else digestPortion s e en.pkt ecc)

/-! PREFETCH and ADVISE (R259). -/

/-- The line addresses of a range. -/
def rangeLines (s : State) (a n : Nat) : List Nat :=
  (List.range ((a + n - 1) / 256 - a / 256 + 1)).map fun i => resolve s ((a / 256 + i) * 256 % 2 ^ 48)

/-- PREFETCH: one prefetch for each line of the range. A range that the queue's partition may not reach ends it ACCESS_VIOLATION
before any (R245). -/
def execPrefetch (q seq : Nat) (s : State) : Host.Outcome State Fault Refusal :=
  .next (onEntry s q seq fun s x =>
    let a := pkAddr x 16
    let n := pk x 32 8
    if n = 0 then finish s q seq .invalid 0 0
    else
      match freeEngine s with
      | none => waitFor s (.prefetch q seq)
      | some e =>
        let acc := engineAcc s e q x []
        let ls := rangeLines s a n
        if ls.any fun b => decide (checkReq s acc b 1 false = some .accessViolation) then finish s q seq .accessViolation 0 0
        else
          let s := ls.foldl (fun s b =>
            match checkReq s acc b 1 false with
            | some st => reqFault s acc b st
            | none => if rangeOf b = .far ∨ rangeOf b = .host then prefetchLine s acc (b / 256) else s) s
          finish (setPast (setBegun s q seq) q seq) q seq .ok 0 ls.length)

/-- Whether a range is host window and not empty. -/
def hostOnly (a n : Nat) : Bool := decide (rangeOf a = .host ∧ 1 ≤ n ∧ a + n ≤ remBase)

/-- ADVISE WRITEBACK and DROP: a walk of the range under the queue's PASID. -/
def adviseWalk (q seq op : Nat) (cmd : Instr) (s : State) : State :=
  onEntry s q seq fun s x =>
    let a := pkAddr x 16
    let n := pk x 32 8
    if !hostOnly a n then finish s q seq .invalid 0 0
    else
      let (s, left) := walkSlices s (hostWalk op a n (qPasid s q)) allSlices
      if left.isEmpty then finish (setPast (setBegun s q seq) q seq) q seq .ok 0 0 else waitFor s cmd

def execAdviseWriteback (q seq : Nat) (s : State) : Host.Outcome State Fault Refusal :=
  .next (adviseWalk q seq 2 (.adviseWriteback q seq) s)
def execAdviseDrop (q seq : Nat) (s : State) : Host.Outcome State Fault Refusal :=
  .next (adviseWalk q seq 3 (.adviseDrop q seq) s)

/-- ADVISE TRANSLATE: every page of the range is translated for reading. -/
def execAdviseTranslate (q seq : Nat) (s : State) : Host.Outcome State Fault Refusal :=
  .next (onEntry s q seq fun s x =>
    let a := pkAddr x 16
    let n := pk x 32 8
    if !hostOnly a n then finish s q seq .invalid 0 0
    else
      let (s, pg) := pagesReady s q seq (hostPages (qPasid s q) false [(a, n)])
      match pg with
      | .ready => finish (setPast (setBegun s q seq) q seq) q seq .ok 0 0
      | .wait => waitFor s (.adviseTranslate q seq)
      | .failed _ => finish s q seq .translationFault 0 0)

end Sys2Proof.Machine
end

