-- ==== Sys2Proof/Machine/MeshVerify.lean ====
section
/-! DEFINITION. The simulation of one step that LOAD_SCHEDULE makes before it writes anything (R135, Table 5-7). -/
namespace Sys2Proof.Machine

/-- A partition's schedule as it will stand after the load: per cluster its entries and its eight generator values. -/
structure SchedSet where
  clusters : List Nat
  entries : Tab (Tab (BitVec 512))
  gens : Tab (List (BitVec 64))
deriving DecidableEq, Repr

def SchedSet.entry (x : SchedSet) (cl n : Nat) : BitVec 512 := tget 0 (tget [] x.entries cl) n
def SchedSet.has (x : SchedSet) (cl : Nat) : Bool := !(tget [] x.entries cl).isEmpty
def SchedSet.gen (x : SchedSet) (cl g : Nat) : Nat := (((tget [] x.gens cl)[g]?).getD 0).toNat

/-- A router in the simulation: sequencer, valid arrivals (cycles left, input lane), Press results (cycles left, lane, whether valid),
deliveries (cycles left, delivery lane, generator) and generator counts. -/
structure SimR where
  slot : Nat := 0
  rem : Nat := 0
  loops : List (Nat × Nat) := []
  done : Bool := false
  arr : List (Nat × Nat) := []
  press : List (Nat × Nat × Bool) := []
  dlv : List (Nat × Nat × Nat) := []
  gcount : Tab Nat := []
  gw : List Nat := []
deriving DecidableEq, Repr

/-- The first of a list of conditions that holds, with its status. -/
def firstBad (xs : List (Bool × Status)) : Option Status := (xs.find? (·.1)).map (·.2)

/-- A lane code whose op or sources Table 5-7 refuses. -/
def badCode (c : Nat) : Bool :=
  let n := lcN c + bit (lcL c)
  match lcOp c with
  | 0 => false
  | 1 => decide (n ≠ 1)
  | 2 | 3 | 4 => decide (n < 2)
  | _ => true

/-- The lane codes of an entry: 16 output lanes, then 4 delivery lanes. -/
def entryCodes (e : BitVec 512) : List Nat :=
  ((List.range 16).map (seOut e)) ++ ((List.range 4).map fun j => (seDeliver e j).2)

/-- Reserved values of an entry. -/
def badEntry (e : BitVec 512) : Bool :=
  (entryCodes e).any badCode || decide (4 ≤ seSeq e) || decide (bits e.toNat 288 68 ≠ 0)

/-- The port pairs of an entry's forwards between input and output lanes (R132). -/
def forwardPairs (e : BitVec 512) : List (Nat × Nat) :=
  (List.range 16).filterMap fun j =>
    let c := seOut e j
    if lcOp c = 1 ∧ lcN c = 1 then some (((lcLanes c).headD 0) / 4, j / 4) else none

/-- R132: a forward that leaves by its own port, or a second forward between one pair of ports. -/
def badTransit (ps : List (Nat × Nat)) : Bool :=
  ps.any (fun p => decide (p.1 = p.2)) || decide ¬ ps.Nodup

/-- Where a delivery goes: a bank of cluster memory (0) or of a core's local scratch (1 + core) with its word, or a feeder. -/
inductive DlvTo where
  | bank (mem bank word : Nat)
  | feeder (core arr gen i : Nat)
deriving DecidableEq, Repr

/-- Target of lane-flit i of generator n, whose value is g. -/
def dlvTarget (n g i : Nat) : DlvTo :=
  let inner := bits g 44 12 + 1
  let a : Int := (bits g 0 22 : Int) + 32 * ((i % inner : Nat) : Int)
    + 32 * sint 16 (bits g 28 16) * ((i / inner : Nat) : Int)
  match bits g 62 2 with
  | 0 =>
    let x := (a % 0x400000).toNat
    .bank 0 (bankOf x) (x / 64)
  | 1 =>
    let x := (a % 0x10000).toNat
    .bank (1 + bits g 57 5) (x / 64 % 4) (x / 64)
  | _ => .feeder (bits g 57 5) (bits g 56 1) n i

/-- Two delivery writes that may not fall in one cycle (Table 5-7): different words of one bank; to one feeder, the high halves of
two deliveries, or lane-flits of two generators (log entry 84). -/
def DlvTo.clash : DlvTo → DlvTo → Bool
  | .bank m b w, .bank m' b' w' => decide (m = m' ∧ b = b' ∧ w ≠ w')
  | .feeder c a n i, .feeder c' a' n' i' => decide (c = c' ∧ a = a' ∧ (n ≠ n' ∨ i % 2 = 1 ∧ i' % 2 = 1))
  | _, _ => false

/-- Delivery writes of one cycle that Table 5-7 refuses. -/
def badDeliveries : List DlvTo → Bool
  | [] => false
  | t :: ts => ts.any t.clash || badDeliveries ts

/-- One simulated cycle of one router: its checks, and what it places on other routers (cluster, lane, latency). A lane whose local
source is a stream that the entry does not enable carries an idle lane-flit. Of several conditions in a cycle the first of the list
is the load's outcome: DESIGN CHOICE, Table 5-7 gives no precedence (log entry 84). -/
def simRouter (s : State) (x : SchedSet) (owns : Nat → Bool) (cyc cl : Nat) (r : SimR) :
    Option Status × SimR × List (Nat × Nat × Nat) :=
  let arrived := (r.arr.filter fun a => decide (a.1 = 0)).map (·.2)
  let arr := (r.arr.filter fun a => decide (0 < a.1)).map fun a => (a.1 - 1, a.2)
  let dueP := (r.press.filter fun a => decide (a.1 = 0)).map (·.2)
  let duePs := dueP.map (·.1)
  let press := (r.press.filter fun a => decide (0 < a.1)).map fun a => (a.1 - 1, a.2)
  let dueD := (List.range 4).flatMap fun d => (r.dlv.filter fun a => decide (a.1 = 0 ∧ a.2.1 = d)).map (·.2.2)
  let dlv := (r.dlv.filter fun a => decide (0 < a.1)).map fun a => (a.1 - 1, a.2)
  let (gcount, targets) := dueD.foldl (fun (a : Tab Nat × List DlvTo) g =>
    let i := tget 0 a.1 g
    (tset a.1 g (i + 1), a.2 ++ [dlvTarget g (x.gen cl g) i])) (r.gcount, [])
  let r := { r with arr := arr, press := press, dlv := dlv, gcount := gcount }
  if r.done then
    (firstBad [(!arrived.isEmpty, .invalid), (badDeliveries targets, .invalid)], r, [])
  else
    let e := x.entry cl r.slot
    let used := ((entryCodes e).filter fun c => decide (lcOp c ≠ 0)).flatMap lcLanes
    let seg (lane : Nat) : Seg := segmentOf cl (lane / 4)
    let outside (sg : Seg) : Bool := match sg with
      | .link n _ => !x.clusters.contains n
      | .gateway p => !owns p
      | .none => false
    let fwdOut := (List.range 16).filter fun j => decide (lcOp (seOut e j) = 1)
    let pressOut := (List.range 16).filter fun j => decide (2 ≤ lcOp (seOut e j))
    let active := (List.range 16).filter fun j => decide (lcOp (seOut e j) ≠ 0)
    let streams := (List.range 4).filterMap fun j =>
      let (en, k, ch) := seInject e j
      if en then some (k, ch) else none
    let live (j code : Nat) : Bool := !lcL code || (seInject e (j % 4)).1
    let placed := (fwdOut.filter fun j => live j (seOut e j)) ++ (dueP.filter (·.2)).map (·.1)
    let gwNow := (placed.filter fun j => match seg j with | .gateway _ => true | _ => false).map fun _ => cyc
    let gw := (r.gw.filter fun t => decide (cyc < t + 32)) ++ gwNow
    let bad := firstBad [
      ((used ++ active).any (fun j => outside (seg j)), .accessViolation),
      (badEntry e, .invalid),
      ((used ++ active).any (fun j => seg j == .none), .invalid),
      (badTransit (forwardPairs e), .invalid),
      (duePs.any (fun j => fwdOut.contains j), .invalid),
      (used.any (fun j => (match seg j with | .gateway _ => false | _ => true) && !arrived.contains j), .invalid),
      (arrived.any (fun j => !used.contains j), .invalid),
      (decide ¬ streams.Nodup, .invalid),
      (streams.any (fun k => decide (rf s (fCluCoremap_dis cl) / 2 ^ k.1 % 2 = 1)), .invalid),
      (badDeliveries targets, .invalid),
      (decide (100 < gw.length), .invalid)]
    let out := placed.filterMap fun j => match seg j with
      | .link n lat => some (n, 4 * opposite (j / 4) + j % 4, lat)
      | _ => none
    let newD := (List.range 4).filterMap fun j =>
      let (g, c) := seDeliver e j
      if lcOp c = 0 then none else some (if lcOp c = 1 then 0 else 2, j, g)
    let r : SimR := { r with press := r.press ++ pressOut.map (fun j => (1, j, live j (seOut e j))), dlv := r.dlv ++ newD, gw := gw }
    if 0 < r.rem then (bad, { r with rem := r.rem - 1 }, out)
    else
      let go (n : Nat) (ls : List (Nat × Nat)) : SimR :=
        { r with slot := n, rem := seRun (x.entry cl n), loops := ls }
      let (seqBad, r') : Bool × SimR := match seSeq e with
        | 1 =>
          if r.loops.head?.map (·.1) = some r.slot then (false, go (r.slot + 1) r.loops)
          else (decide (4 ≤ r.loops.length), go (r.slot + 1) ((r.slot, seCnt e + 1) :: r.loops))
        | 2 =>
          let n := seCnt e % 4 + 1
          let (t, ls) := finishLoops n r.loops
          (decide (r.loops.length < n), go (t.getD (r.slot + 1)) ls)
        | 3 => (!r.press.isEmpty || r.dlv.any (fun d => decide (1 ≤ d.1)) || !r.arr.isEmpty || !r.loops.isEmpty, { r with done := true })
        | _ => (false, go (r.slot + 1) r.loops)
      (bad.orElse fun _ => if seqBad || decide (1024 ≤ r'.slot) then some .invalid else none, r', out)

/-- Cycles of the simulation until every router has completed its step, which may take 2^32 - 1 of them, and delivered what it took.
Arrivals placed in a cycle with latency L are taken L cycles later. -/
def simCycles (s : State) (x : SchedSet) (owns : Nat → Bool) : Nat → Nat → Tab SimR → Option Status
  | 0, _, _ => some .invalid
  | fuel + 1, cyc, rs =>
    if rs.all (fun r => r.2.done && r.2.arr.isEmpty && r.2.dlv.isEmpty) then none
    else if 2 ^ 32 - 1 ≤ cyc && rs.any (fun r => !r.2.done) then some .invalid
    else
      let step := rs.map fun r => (r.1, simRouter s x owns cyc r.1 r.2)
      match step.findSome? fun r => r.2.1 with
      | some st => some st
      | none =>
        let outs := step.flatMap fun r => r.2.2.2
        let rs := step.map fun r =>
          (r.1, { r.2.2.1 with arr := r.2.2.1.arr ++ ((outs.filter fun o => decide (o.1 = r.1)).map
            (fun o => (o.2.2 - 1, o.2.1))) })
        simCycles s x owns fuel (cyc + 1) rs

/-- R135: the status a load is refused with, if any. Reserved values are refused first, and in entries that the step does not reach
too: DESIGN CHOICE, the manual speaks of what the simulation finds and gives no order (log entry 84). -/
def verifySchedule (s : State) (x : SchedSet) (owns : Nat → Bool) : Option Status :=
  let reserved := x.clusters.any fun cl =>
    (tget [] x.entries cl).any (fun e => badEntry e.2) ||
      (tget [] x.gens cl).any fun g => decide (bits g.toNat 62 2 = 3 ∨ bits g.toNat 22 6 ≠ 0 ∨ bits g.toNat 0 5 ≠ 0)
  if reserved then some .invalid
  else
    simCycles s x owns (2 ^ 32 + 8) 0 (x.clusters.map fun cl =>
      (cl, { rem := seRun (x.entry cl 0), done := !x.has cl }))

end Sys2Proof.Machine
end

