-- ==== Sys2Proof/Machine/Program.lean ====
section
/-! DEFINITION. Bundles as field commands (R92 to R98, R102, R104, R106) and the checks that LOAD_PROGRAM makes
(R116, Table 4-9). -/
namespace Sys2Proof.Machine

/-- The control field (Table 4-2); none for a reserved operation or a reserved operand bit. -/
def decodeControl (x : Nat) : Option Instr :=
  let g := bits x 20 4
  let o := bits x 0 15
  let sl : Slot := ⟨0, false, false⟩
  let only (mask : Nat) (i : Instr) : Option Instr := if o / 2 ^ mask = 0 then some i else none
  let sd := bits o 10 5
  let sa := bits o 5 5
  let sb := bits o 0 5
  match bits x 15 5 with
  | 0x00 => only 0 (.ctrlNop sl g)
  | 0x01 => some (.loopi sl g (bits o 8 7 + 1) (if bits o 0 8 = 0 then 256 else bits o 0 8))
  | 0x02 => if bits o 5 3 = 0 then some (.loopr sl g (bits o 8 7 + 1) sb) else none
  | 0x03 => only 11 (.br sl g (bits o 0 11))
  | 0x04 => only 5 (.jr sl g sb)
  | 0x05 => only 6 (.waitf sl g (bits o 5 1 == 1) sb)
  | 0x06 => only 0 (.endstep sl g)
  | 0x07 => only 0 (.brk sl g)
  | 0x08 => some (.setp sl g (bits o 12 3) (bits o 10 2) sa sb)
  | 0x09 => if bits o 0 4 = 0 then some (.plog sl g (bits o 12 3) (bits o 10 2) (bits o 7 3) (bits o 4 3)) else none
  | 0x0A => some (.movi sl g sd (BitVec.ofNat 10 o))
  | 0x0B => some (.addi sl g sd (BitVec.ofNat 10 o))
  | 0x0C => some (.add sl g sd sa sb)
  | 0x0D => some (.sub sl g sd sa sb)
  | 0x0E => some (.mul sl g sd sa sb)
  | 0x0F => some (.and sl g sd sa sb)
  | 0x10 => some (.or sl g sd sa sb)
  | 0x11 => some (.xor sl g sd sa sb)
  | 0x12 => some (.shl sl g sd sa sb)
  | 0x13 => some (.shr sl g sd sa sb)
  | 0x14 => some (.sra sl g sd sa sb)
  | 0x15 => some (.min sl g sd sa sb)
  | 0x16 => some (.max sl g sd sa sb)
  | 0x17 => some (.aaddi sl g (bits o 12 3) (BitVec.ofNat 12 o))
  | 0x18 => if bits o 5 7 = 0 then some (.amov sl g (bits o 12 3) sb) else none
  | 0x19 => if bits o 3 7 = 0 then some (.smova sl g sd (bits o 0 3)) else none
  | 0x1A => if bits o 4 6 = 0 ∧ bits o 0 4 < 8 then some (.rds sl g sd (bits o 0 4)) else none
  | _ => none

/-- 0 stands for 256 in the counts of Tables 4-2 and 4-3. -/
def count256 (n : Nat) : Nat := if n = 0 then 256 else n

/-- A feeder field (Table 4-3): some none is an empty field, none is refused. -/
def decodeFeeder (arr x : Nat) : Option (Option Instr) :=
  let sl : Slot := ⟨0, false, false⟩
  let mem (cm : Bool) : Option (Option Instr) :=
    let fmt := bits x 0 5
    if streamable fmt then
      let a := bits x 14 3
      let w := count256 (bits x 6 8)
      let inc := bits x 5 1 == 1
      some (some (if cm then .feedCm sl arr a w inc fmt else .feedLs sl arr a w inc fmt))
    else none
  let loads (cm : Bool) : Option (Option Instr) :=
    let sf := bits x 8 5
    let tf := bits x 3 5
    if bits x 0 3 = 0 ∧ (pairClass sf tf).isSome then
      let a := bits x 14 3
      let inc := bits x 13 1 == 1
      some (some (if cm then .loadsCm sl arr a inc sf tf else .loadsLs sl arr a inc sf tf))
    else none
  match bits x 17 3 with
  | 0 => if x = 0 then some none else none
  | 1 => mem true
  | 2 => mem false
  | 3 =>
    let vb := bits x 13 4
    let n := bits x 9 4 + 1
    if bits x 5 4 = 0 ∧ streamable (bits x 0 5) ∧ vb + n ≤ 16 then some (some (.feedV sl arr vb n (bits x 0 5))) else none
  | 4 =>
    if bits x 5 4 = 0 ∧ streamable (bits x 0 5) then
      some (some (.feedMesh sl arr (count256 (bits x 9 8)) (bits x 0 5)))
    else none
  | 5 => loads true
  | 6 => loads false
  | _ =>
    let sf := bits x 8 5
    let tf := bits x 3 5
    let vb := bits x 13 4
    if bits x 0 3 = 0 ∧ (pairClass sf tf).isSome ∧ vb + elemBits sf / 2 + (if isMx sf then 1 else 0) ≤ 16 then
      some (some (.loadsV sl arr vb sf tf))
    else none

/-- One half of the array operation field (Table 4-4). -/
def decodeArray (arr x : Nat) : Option (Option Instr) :=
  let sl : Slot := ⟨0, false, false⟩
  let n := bits x 0 5
  match bits x 5 3 with
  | 0 => if n = 0 then some none else none
  | 1 => some (some (.iss sl arr (n + 1)))
  | 2 => some (some (.pass sl arr (n + 1)))
  | 3 => if n < 16 then some (some (.pre sl arr n)) else none
  | 4 => if n < 16 then some (some (.drain sl arr n)) else none
  | 5 => if n = 0 then some (some (.discard sl arr)) else none
  | _ => none

/-- Lane type of a 3-bit code. -/
def vtyOf (t : Nat) : Option VTy :=
  match t with
  | 0 => some .f32
  | 1 => some .bf16
  | 2 => some .f16
  | _ => none

/-- A conversion's destination and rounding (R42, Table 2-5): own is the source's own code. -/
def cvtAllowed (own dst rnd : Nat) : Bool :=
  if dst = 0 ∧ own ≠ 0 then decide (rnd ≤ 1)
  else decide (dst ≤ 9 ∧ dst ≠ own ∧ rnd ≤ 2) && (decide (rnd ≠ 2) || decide (3 ≤ dst ∧ dst ≤ 7))

/-- An MX code and rounding of MXP (R42). -/
def mxpAllowed (code rnd : Nat) : Bool := isMx code && decide (rnd ≤ 2) && (decide (rnd ≠ 2) || decide (code ≠ 0x0F))

/-- The vector field (Table 4-5). -/
def decodeVector (x : Nat) : Option (Option Instr) :=
  let sl : Slot := ⟨0, false, false⟩
  let p := bits x 21 3
  let vd := bits x 11 4
  let va := bits x 7 4
  let vb := bits x 3 4
  let code := bits x 2 5
  let rnd := bits x 0 2
  let typed (f : VTy → Instr) : Option (Option Instr) := (vtyOf (bits x 0 3)).map fun t => some (f t)
  let ok (b : Bool) (i : Instr) : Option (Option Instr) := if b then some (some i) else none
  let unpk (q : Nat) : Option (Option Instr) :=
    match vtyOf rnd with
    | some t => ok (decide (3 ≤ code ∧ code ≤ 9)) (.unpk sl p q vd va code t)
    | none => none
  match bits x 15 6 with
  | 0x00 => (vtyOf (bits x 0 3)).map fun _ => if x = 0 then none else some (.vnop sl p)
  | 0x01 => typed fun t => .vadd sl p t vd va vb
  | 0x02 => typed fun t => .vsub sl p t vd va vb
  | 0x03 => typed fun t => .vmul sl p t vd va vb
  | 0x04 => typed fun t => .vfma sl p t vd va vb
  | 0x05 => typed fun t => .vmax sl p t vd va vb
  | 0x06 => typed fun t => .vmin sl p t vd va vb
  | 0x07 => typed fun t => .vabs sl p t vd va
  | 0x08 => typed fun t => .vneg sl p t vd va
  | 0x09 => typed fun t => .vexp sl p t vd va
  | 0x0A => typed fun t => .vrcp sl p t vd va
  | 0x0B => typed fun t => .vrsq sl p t vd va
  | 0x0C => typed fun t => .vtab sl p t vd va vb
  | 0x0D => typed fun _ => .vtwr sl p va (2 * vb + bits x 0 1)
  | 0x0E => typed fun t => .vrsum sl p t vd va
  | 0x0F => typed fun t => .vrmax sl p t vd va
  | 0x10 => typed fun _ => .vand sl p vd va vb
  | 0x11 => typed fun _ => .vor sl p vd va vb
  | 0x12 => typed fun _ => .vxor sl p vd va vb
  | 0x13 => typed fun _ => .vmov sl p vd va
  | 0x14 => typed fun t => .vcmplt sl p t vd va vb
  | 0x15 => typed fun t => .vsel sl p t vd va vb
  | 0x16 => typed fun t => .vbc sl p t vd va vb
  | 0x17 => typed fun t => .vbcs sl p t vd va
  | 0x18 => ok (cvtAllowed 0 code rnd) (.cvtF32 sl p vd va code rnd)
  | 0x19 => ok (cvtAllowed 2 code rnd) (.cvtBf16 sl p vd va code rnd)
  | 0x1A => ok (cvtAllowed 1 code rnd) (.cvtF16 sl p vd va code rnd)
  | 0x1B => ok (decide (code = 0 ∧ rnd ≤ 1)) (.cvtI32 sl p vd va)
  | 0x1C => unpk 0
  | 0x1D => unpk 1
  | 0x1E => unpk 2
  | 0x1F => unpk 3
  | 0x20 => ok (mxpAllowed code rnd && decide (va < 15)) (.mxpF32 sl p vd va code rnd)
  | 0x21 => ok (mxpAllowed code rnd) (.mxpF16 sl p vd va code rnd)
  | 0x22 => ok (mxpAllowed code rnd) (.mxpBf16 sl p vd va code rnd)
  | 0x23 =>
    match vtyOf rnd with
    | some t => ok (isMx code && (decide (t ≠ .f32) || decide (vd < 15))) (.mxu sl p vd va code t)
    | none => none
  | 0x24 => typed fun t => .vtmask sl p vd va vb t
  | _ => none

/-- The memory field (Table 4-6). Bits that the table names for no operand of an operation are taken as reserved, as are the parameter
bits of the array operations that Table 4-4 does not name; the register fields of a vector operation that does not use them are not:
DESIGN CHOICE, the manual does not say which bits of an operation are reserved (log entry 82). -/
def decodeMemory (x : Nat) : Option (Option Instr) :=
  let sl : Slot := ⟨0, false, false⟩
  let p := bits x 21 3
  let off := BitVec.ofNat 10 x
  match bits x 18 3 with
  | 0 => if bits x 0 18 = 0 then some none else none
  | 1 => some (some (.vld sl p (bits x 14 4) (bits x 11 3) (bits x 10 1 == 1) off))
  | 2 => some (some (.vst sl p (bits x 14 4) (bits x 11 3) (bits x 10 1 == 1) off))
  | 3 => some (some (.sld sl p (bits x 13 5) (bits x 10 3) off))
  | 4 => some (some (.sst sl p (bits x 13 5) (bits x 10 3) off))
  | 5 => if bits x 0 10 = 0 then some (some (.send sl p (bits x 14 4) (bits x 10 4))) else none
  | 6 => if bits x 0 8 = 0 ∧ 24 ≤ bits x 8 5 then some (some (.sigf sl p (bits x 13 5) (bits x 8 5))) else none
  | _ => if bits x 0 9 = 0 ∧ bits x 9 5 ≤ 23 then some (some (.req sl p (bits x 14 4) (bits x 9 5))) else none

/-- A field command put into its slot. -/
def withSlot (i : Instr) (sl : Slot) : Instr :=
  match i with
  | .ctrlNop _ g => .ctrlNop sl g
  | .loopi _ g n count => .loopi sl g n count
  | .loopr _ g n sa => .loopr sl g n sa
  | .br _ g target => .br sl g target
  | .jr _ g sa => .jr sl g sa
  | .waitf _ g keep f => .waitf sl g keep f
  | .endstep _ g => .endstep sl g
  | .brk _ g => .brk sl g
  | .setp _ g pd cmp sa sb => .setp sl g pd cmp sa sb
  | .plog _ g pd fn pa pb => .plog sl g pd fn pa pb
  | .movi _ g sd imm => .movi sl g sd imm
  | .addi _ g sd imm => .addi sl g sd imm
  | .add _ g sd sa sb => .add sl g sd sa sb
  | .sub _ g sd sa sb => .sub sl g sd sa sb
  | .mul _ g sd sa sb => .mul sl g sd sa sb
  | .and _ g sd sa sb => .and sl g sd sa sb
  | .or _ g sd sa sb => .or sl g sd sa sb
  | .xor _ g sd sa sb => .xor sl g sd sa sb
  | .shl _ g sd sa sb => .shl sl g sd sa sb
  | .shr _ g sd sa sb => .shr sl g sd sa sb
  | .sra _ g sd sa sb => .sra sl g sd sa sb
  | .min _ g sd sa sb => .min sl g sd sa sb
  | .max _ g sd sa sb => .max sl g sd sa sb
  | .aaddi _ g ad imm => .aaddi sl g ad imm
  | .amov _ g ad sa => .amov sl g ad sa
  | .smova _ g sd aa => .smova sl g sd aa
  | .rds _ g sd sel => .rds sl g sd sel
  | .feedCm _ arr a words inc fmt => .feedCm sl arr a words inc fmt
  | .feedLs _ arr a words inc fmt => .feedLs sl arr a words inc fmt
  | .feedV _ arr vbase n fmt => .feedV sl arr vbase n fmt
  | .feedMesh _ arr n fmt => .feedMesh sl arr n fmt
  | .loadsCm _ arr a inc sf tf => .loadsCm sl arr a inc sf tf
  | .loadsLs _ arr a inc sf tf => .loadsLs sl arr a inc sf tf
  | .loadsV _ arr vbase sf tf => .loadsV sl arr vbase sf tf
  | .iss _ arr n => .iss sl arr n
  | .pass _ arr n => .pass sl arr n
  | .pre _ arr v => .pre sl arr v
  | .drain _ arr v => .drain sl arr v
  | .discard _ arr => .discard sl arr
  | .vnop _ p => .vnop sl p
  | .vadd _ p ty vd va vb => .vadd sl p ty vd va vb
  | .vsub _ p ty vd va vb => .vsub sl p ty vd va vb
  | .vmul _ p ty vd va vb => .vmul sl p ty vd va vb
  | .vfma _ p ty vd va vb => .vfma sl p ty vd va vb
  | .vmax _ p ty vd va vb => .vmax sl p ty vd va vb
  | .vmin _ p ty vd va vb => .vmin sl p ty vd va vb
  | .vabs _ p ty vd va => .vabs sl p ty vd va
  | .vneg _ p ty vd va => .vneg sl p ty vd va
  | .vexp _ p ty vd va => .vexp sl p ty vd va
  | .vrcp _ p ty vd va => .vrcp sl p ty vd va
  | .vrsq _ p ty vd va => .vrsq sl p ty vd va
  | .vtab _ p ty vd va vb => .vtab sl p ty vd va vb
  | .vtwr _ p va grp => .vtwr sl p va grp
  | .vrsum _ p ty vd va => .vrsum sl p ty vd va
  | .vrmax _ p ty vd va => .vrmax sl p ty vd va
  | .vand _ p vd va vb => .vand sl p vd va vb
  | .vor _ p vd va vb => .vor sl p vd va vb
  | .vxor _ p vd va vb => .vxor sl p vd va vb
  | .vmov _ p vd va => .vmov sl p vd va
  | .vcmplt _ p ty vd va vb => .vcmplt sl p ty vd va vb
  | .vsel _ p ty vd va vb => .vsel sl p ty vd va vb
  | .vbc _ p ty vd va l => .vbc sl p ty vd va l
  | .vbcs _ p ty vd sa => .vbcs sl p ty vd sa
  | .cvtF32 _ p vd va dst rnd => .cvtF32 sl p vd va dst rnd
  | .cvtBf16 _ p vd va dst rnd => .cvtBf16 sl p vd va dst rnd
  | .cvtF16 _ p vd va dst rnd => .cvtF16 sl p vd va dst rnd
  | .cvtI32 _ p vd va => .cvtI32 sl p vd va
  | .unpk _ p q vd va src ty => .unpk sl p q vd va src ty
  | .mxpF32 _ p vd va code rnd => .mxpF32 sl p vd va code rnd
  | .mxpF16 _ p vd va code rnd => .mxpF16 sl p vd va code rnd
  | .mxpBf16 _ p vd va code rnd => .mxpBf16 sl p vd va code rnd
  | .mxu _ p vd va code ty => .mxu sl p vd va code ty
  | .vtmask _ p vd va vb ty => .vtmask sl p vd va vb ty
  | .vld _ p v a inc off => .vld sl p v a inc off
  | .vst _ p v a inc off => .vst sl p v a inc off
  | .sld _ p s a off => .sld sl p s a off
  | .sst _ p s a off => .sst sl p s a off
  | .send _ p v ch => .send sl p v ch
  | .sigf _ p k f => .sigf sl p k f
  | .req _ p v f => .req sl p v f
  | i => i

/-- The six fields of a bundle as commands, empty fields left out; none for a reserved encoding. -/
def decodeFields (b : BitVec 128) : Option (List Instr) :=
  let x := b.toNat
  match decodeControl (bits x 104 24), decodeFeeder 0 (bits x 84 20), decodeFeeder 1 (bits x 64 20),
      decodeArray 0 (bits x 48 8), decodeArray 1 (bits x 56 8), decodeVector (bits x 24 24), decodeMemory (bits x 0 24) with
  | some c, some f0, some f1, some a0, some a1, some v, some m =>
    some (c :: [f0, f1, a0, a1, v, m].filterMap id)
  | _, _, _, _, _, _, _ => none

/-- The commands of a bundle issued by a core: control, feeder 0, feeder 1, array 0, array 1, vector, memory. -/
def bundleCmds (core : Nat) (b : BitVec 128) : Option (List Instr) :=
  (decodeFields b).map fun is =>
    is.zipIdx.map fun x => withSlot x.1 ⟨core, x.2 == 0, x.2 + 1 == is.length⟩

/-! Checks of a program (Table 4-9). -/

/-- Destination registers of a field: 0 + scalar, 100 + address, 200 + vector, 300 + predicate (R109). -/
def destsOf (i : Instr) : List Nat :=
  match i with
  | .setp _ _ pd _ _ _ | .plog _ _ pd _ _ _ => [300 + pd]
  | .movi _ _ sd _ | .addi _ _ sd _ => [sd]
  | .add _ _ sd _ _ | .sub _ _ sd _ _ | .mul _ _ sd _ _ | .and _ _ sd _ _ | .or _ _ sd _ _ | .xor _ _ sd _ _
  | .shl _ _ sd _ _ | .shr _ _ sd _ _ | .sra _ _ sd _ _ | .min _ _ sd _ _ | .max _ _ sd _ _ => [sd]
  | .aaddi _ _ ad _ => [100 + ad]
  | .amov _ _ ad _ => [100 + ad]
  | .smova _ _ sd _ => [sd]
  | .rds _ _ sd _ => [sd]
  | .feedCm _ _ a _ inc fmt | .feedLs _ _ a _ inc fmt =>
    if inc then (100 + a) :: (if isMx fmt then [100 + Nat.xor a 1] else []) else []
  | .loadsCm _ _ a inc sf _ | .loadsLs _ _ a inc sf _ =>
    if inc then (100 + a) :: (if isMx sf then [100 + Nat.xor a 1] else []) else []
  | .drain _ _ v => [200 + v]
  | .vadd _ _ _ vd _ _ | .vsub _ _ _ vd _ _ | .vmul _ _ _ vd _ _ | .vfma _ _ _ vd _ _ | .vmax _ _ _ vd _ _
  | .vmin _ _ _ vd _ _ | .vtab _ _ _ vd _ _ | .vcmplt _ _ _ vd _ _ | .vsel _ _ _ vd _ _ | .vbc _ _ _ vd _ _ => [200 + vd]
  | .vabs _ _ _ vd _ | .vneg _ _ _ vd _ | .vexp _ _ _ vd _ | .vrcp _ _ _ vd _ | .vrsq _ _ _ vd _
  | .vrsum _ _ _ vd _ | .vrmax _ _ _ vd _ | .vbcs _ _ _ vd _ => [200 + vd]
  | .vand _ _ vd _ _ | .vor _ _ vd _ _ | .vxor _ _ vd _ _ => [200 + vd]
  | .vmov _ _ vd _ => [200 + vd]
  | .cvtF32 _ _ vd _ _ _ | .cvtBf16 _ _ vd _ _ _ | .cvtF16 _ _ vd _ _ _ => [200 + vd]
  | .cvtI32 _ _ vd _ => [200 + vd]
  | .unpk _ _ _ vd _ _ _ => [200 + vd]
  | .mxpF32 _ _ vd _ _ _ | .mxpF16 _ _ vd _ _ _ | .mxpBf16 _ _ vd _ _ _ => [200 + vd]
  | .mxu _ _ vd _ _ ty => if ty = .f32 then [200 + vd, 201 + vd] else [200 + vd]
  | .vtmask _ _ vd _ _ _ => [200 + vd]
  | .vld _ _ v a inc _ => (200 + v) :: (if inc then [100 + a] else [])
  | .vst _ _ _ a inc _ => if inc then [100 + a] else []
  | .sld _ _ r _ _ => [r]
  | _ => []

/-- A bundle whose encoding is not reserved and whose fields name no register twice as a destination. -/
def bundleOk (b : BitVec 128) : Bool :=
  match decodeFields b with
  | none => false
  | some is => decide (is.flatMap destsOf).Nodup

/-- Vector registers that a field reads (R81, R109). -/
def readsV (i : Instr) : List Nat :=
  match i with
  | .feedV _ _ vb n _ => (List.range n).map (vb + ·)
  | .loadsV _ _ vb sf _ => (List.range (elemBits sf / 2 + (if isMx sf then 1 else 0))).map (vb + ·)
  | .pre _ _ v => [v]
  | .vadd _ _ _ _ va vb | .vsub _ _ _ _ va vb | .vmul _ _ _ _ va vb | .vmax _ _ _ _ va vb | .vmin _ _ _ _ va vb
  | .vtab _ _ _ _ va vb | .vcmplt _ _ _ _ va vb => [va, vb]
  | .vfma _ _ _ vd va vb | .vsel _ _ _ vd va vb => [vd, va, vb]
  | .vabs _ _ _ _ va | .vneg _ _ _ _ va | .vexp _ _ _ _ va | .vrcp _ _ _ _ va | .vrsq _ _ _ _ va
  | .vrsum _ _ _ _ va | .vrmax _ _ _ _ va | .vbc _ _ _ _ va _ => [va]
  | .vtwr _ _ va _ => [va]
  | .vand _ _ _ va vb | .vor _ _ _ va vb | .vxor _ _ _ va vb => [va, vb]
  | .vmov _ _ _ va => [va]
  | .cvtF32 _ _ _ va _ _ | .cvtBf16 _ _ _ va _ _ | .cvtF16 _ _ _ va _ _ => [va]
  | .cvtI32 _ _ _ va => [va]
  | .unpk _ _ _ _ va _ _ => [va]
  | .mxpF32 _ _ _ va _ _ => [va, va + 1]
  | .mxpF16 _ _ _ va _ _ | .mxpBf16 _ _ _ va _ _ => [va]
  | .mxu _ _ _ va _ _ => [va]
  | .vtmask _ _ _ va vb _ => [va, vb]
  | .vst _ _ v _ _ _ => [v]
  | .send _ _ v _ => [v]
  | .req _ _ v _ => [v]
  | _ => []

/-- Whether a bundle ends a stretch in which bundle follows bundle: a branch, a loop, a wait or the end of the step. -/
def leavesStretch (is : List Instr) : Bool :=
  is.any fun i => match i with
    | .br .. | .jr .. | .loopi .. | .loopr .. | .waitf .. | .endstep .. => true
    | _ => false

/-- A write of register v by a unit other than the array that drains into it, in one of the n bundles that follow its DRAIN with
nothing between that reads v, and so before the drain can have completed. -/
def drainClash (arr v : Nat) : Nat → List (List Instr) → Bool
  | 0, _ => false
  | _ + 1, [] => false
  | n + 1, is :: r =>
    if (is.flatMap readsV).contains v then false
    else if is.any fun i => (destsOf i).contains (200 + v) && (match i with | .drain _ a _ => decide (a ≠ arr) | _ => true) then true
    else if leavesStretch is then false
    else drainClash arr v n r

/-- R81, Table 4-9: whether a write conflict with a drain is visible in the program: on a straight stretch, in one of the 16 bundles after
the DRAIN's, that no loop ends within (log entry 81). A drain completes 17 cycles after its request at the soonest. -/
def drainsOk (bs : List (BitVec 128)) (ends : List Nat) : Bool :=
  let ds := bs.map fun b => (decodeFields b).getD []
  ds.zipIdx.all fun x =>
    let n := match (ends.filter fun e => decide (x.2 ≤ e)).min? with
      | some e => min 16 (e - x.2)
      | none => 16
    leavesStretch x.1 || x.1.all fun i =>
      match i with
      | .drain _ arr v => !drainClash arr v n (ds.drop (x.2 + 1))
      | _ => true

/-- The control command of a bundle. -/
def bundleControl (b : BitVec 128) : Option Instr := decodeControl (bits b.toNat 104 24)

/-- Loops of a program: the index of the loop bundle and its body length. -/
def programLoops (bs : List (BitVec 128)) : List (Nat × Nat) :=
  bs.zipIdx.filterMap fun x =>
    match bundleControl x.1 with
    | some (.loopi _ _ n _) => some (x.2, n)
    | some (.loopr _ _ n _) => some (x.2, n)
    | _ => none

/-- Whether bundle i lies in the body of a loop. -/
def inBody (i : Nat) (l : Nat × Nat) : Bool := decide (l.1 < i ∧ i ≤ l.1 + l.2)

/-- The loop and branch conditions of Table 4-9. -/
def flowOk (bs : List (BitVec 128)) : Bool :=
  let ls := programLoops bs
  let len := bs.length
  let nested := ls.all fun l => decide (l.1 + l.2 < len) &&
    ls.all fun m => !inBody m.1 l || decide (m.1 + m.2 ≤ l.1 + l.2)
  let depth := (List.range len).all fun i => decide ((ls.filter (inBody i)).length ≤ 4)
  let ctl := bs.zipIdx.all fun x =>
    let i := x.2
    let atEnd := ls.any fun l => decide (l.1 + l.2 = i)
    let inside := ls.any (inBody i)
    match bundleControl x.1 with
    | some (.br _ _ t) => decide (t < len) && !atEnd && ls.all fun l => inBody i l == inBody t l
    | some (.loopi _ _ _ _) => !atEnd
    | some (.loopr _ _ _ _) => !atEnd
    | some (.jr _ _ _) => !inside
    | some (.endstep _ _) => !inside
    | _ => true
  nested && depth && ctl

/-- R116: a program that LOAD_PROGRAM accepts, the target cores apart. -/
def programOk (bs : List (BitVec 128)) (entry : Nat) : Bool :=
  decide (1 ≤ bs.length ∧ bs.length ≤ 2048 ∧ entry < bs.length) && bs.all bundleOk && flowOk bs &&
    drainsOk bs ((programLoops bs).map fun l => l.1 + l.2)

end Sys2Proof.Machine
end

