-- ==== Sys2Proof/Machine/Commands.lean ====
section
/-! DEFINITION. Opcodes of the command processor: NOP, loads, steps, FENCE, ABORT, KV_COMMIT, SET_CLASS, PARTITION and KEY
(R88, R114 to R116, R134, R135, R183, R190, R223, R244 to R246, R251, R253, R305, R306). -/
namespace Sys2Proof.Machine

/-! What an opcode reads as the command processor. -/

/-- Attributes of the command processor's requests for a command (R222, R308). -/
def cpAcc (s : State) (q : Nat) (x : BitVec 512) : Acc :=
  { node := nodeCp, part := qPart s q, key := qKey s q, pasid := qPasid s q, cls := 6, hint := pkHint x }

/-- n bytes read for a command; an image that cannot be read or is poisoned ends the command with that status, and a read
that waits makes the command again. -/
def cpRead (s : State) (q seq : Nat) (x : BitVec 512) (cmd : Instr) (a n : Nat) (k : State → List Byte → State) : State :=
  match readRange s (cpAcc s q x) (piecesFrom a n) with
  | (s, xs, none) =>
    if xs.any (·.2) then finish s q seq .uncorrectable 0 0 else k s (xs.map (·.1))
  | (s, _, some (.wait, _)) => waitFor s cmd
  | (s, _, some (.err st, _)) => finish s q seq st 0 0
  | (s, _, some (.ok _ _ _, _)) => s

/-- A command that needs domains waits until they are awake (R348). -/
def awake (s : State) (ds : List Nat) (cmd : Instr) (k : State → State) : State :=
  let off := ds.filter fun d => decide (rf s (fPwrDomctl_state d) ≠ 0)
  if off.isEmpty then k s else (waitFor s cmd).emit (off.map fun d => .domainWake d)

/-- An entry ends OK at its completion point. -/
def done (s : State) (q seq detail result : Nat) : State := finish (setPast (setBegun s q seq) q seq) q seq .ok detail result

/-- A command's audit entry (R312). -/
def auditCmd (s : State) (q opcode slot part old new : Nat) : State :=
  audit s { kind := 3, origin := if q < 64 then 0 else 1, member := if q < 64 then 0 else selfPos s, fn := qFn s q, part := part, pasid := (qAttr s q).pasid
            target := tgtOp opcode slot, old := old, new := new }

/-- The audit entry of a load, with the low 64 bits of the images' digests, and the digest kept (R309, R313). -/
def auditLoad (s : State) (q opcode target part : Nat) (img : List Byte) : State :=
  let d := (sha384 img).toNat % 2 ^ 64
  let k := opcode * 2 ^ 20 + target
  let s := extendLoads (auditCmd s q opcode 0 part (tget 0 s.sec.imgs k) d) part opcode img
  { s with sec := { s.sec with imgs := tset s.sec.imgs k d } }

/-- CMD_NOP (R244): the command completes at its start. -/
def execCmdNop (q seq : Nat) (s : State) : Host.Outcome State Fault Refusal :=
  .next (onEntry s q seq fun s _ => done s q seq 0 0)

/-! LOAD_PROGRAM (R114, R116). -/

/-- Groups of 16 bytes as bundles. -/
def bundlesOf (bs : List Byte) : Nat → List (BitVec 128)
  | 0 => []
  | n + 1 => BitVec.ofNat 128 (natOf (bs.take 16)) :: bundlesOf (bs.drop 16) n

def coreUsable (s : State) (c : Nat) : Bool := decide (rf s (fCluCoremap_dis (c / 32)) / 2 ^ (c % 32) % 2 = 0)

def execLoadProgram (q seq : Nat) (s : State) : Host.Outcome State Fault Refusal :=
  .next (onEntry s q seq fun s x =>
    let p := qPart s q
    let cs := (List.range (pk x 10 2)).map fun i => pk x 8 2 + i
    let len := pk x 24 2
    let entry := pk x 26 2
    let now := bits x.toNat 224 1 == 0
    if len < 1 ∨ 2048 < len ∨ len ≤ entry then finish s q seq .invalid 0 0
    else if !(cs.all fun c => decide (partOfCluster s (c / 32) = some p)) then finish s q seq .accessViolation 0 0
    else
      awake s ((cs.map fun c => domainOf (c / 32)).eraseDups) (.loadProgram q seq) fun s =>
        cpRead s q seq x (.loadProgram q seq) (pkAddr x 16) (16 * len) fun s img =>
          let bs := bundlesOf img len
          if !programOk bs entry || !(cs.all (coreUsable s)) then finish s q seq .invalid 0 0
          else if (s.part p).aborted || (if now then !stopped s p else cs.any fun c => (s.core c).qload.isSome) then finish s q seq .busy 0 0
          else
            let s := auditLoad s q 8 (pk x 8 2) p img
            let s := cs.foldl (fun s c =>
              if now then writeProgram s c bs entry else s.setCore c { s.core c with qload := some ⟨bs, entry⟩ }) s
            done (if now then s else stretchLoads s p len) q seq 0 0)

/-! LOAD_SCHEDULE (R134, R135). -/

/-- Groups of 64 bytes as schedule entries. -/
def entriesOf (bs : List Byte) : Nat → List (BitVec 512)
  | 0 => []
  | n + 1 => BitVec.ofNat 512 (natOf (bs.take 64)) :: entriesOf (bs.drop 64) n

/-- A router-list entry: cluster, image address, generator values; none for a reserved bit. -/
def routerEntry (bs : List Byte) : Option (Nat × Nat × List (BitVec 64)) :=
  let x := natOf bs
  if bits x 16 48 = 0 ∧ bits x 112 400 = 0 ∧ bits x 0 16 < 512 then
    some (bits x 0 16, bits x 64 48, (List.range 8).map fun i => BitVec.ofNat 64 (bits x (512 + 64 * i) 64))
  else none

/-- Images of listed routers, read one after another. -/
def readImages (s : State) (q : Acc) : List (Nat × Nat × List (BitVec 64)) →
    State × List (Nat × List (BitVec 512) × List (BitVec 64)) × Option Got × List Byte
  | [] => (s, [], none, [])
  | (cl, a, gens) :: r =>
    match readRange s q (piecesFrom a 65536) with
    | (s, xs, none) =>
      if xs.any (·.2) then (s, [], some (.err .uncorrectable), [])
      else
        let bs := xs.map (·.1)
        let (s, l, g, all) := readImages s q r
        (s, (cl, entriesOf bs 1024, gens) :: l, g, bs ++ all)
    | (s, _, some (g, _)) => (s, [], some g, [])

/-- The schedule of a partition as it will stand: loads of this command over queued ones, where they count, over those in
place. -/
def schedAfter (s : State) (p : Nat) (queued : Bool) (ls : List (Nat × List (BitVec 512) × List (BitVec 64))) : SchedSet :=
  let cls := clustersOf s p
  let pick (cl : Nat) : Tab (BitVec 512) × List (BitVec 64) :=
    let num (es : List (BitVec 512)) : Tab (BitVec 512) := es.zipIdx.map fun x => (x.2, x.1)
    match (ls.filter fun l => decide (l.1 = cl)).getLast? with
    | some l => (num l.2.1, l.2.2)
    | none =>
      let r := s.router cl
      let kept := ((if r.has then r.sched else []),
        (List.range 8).map fun g => BitVec.ofNat 64 (s.reg (offMshDgen (8 * cl + g))).toNat)
      match r.qsched with
      | some (es, gens) => if queued then (num es, gens) else kept
      | none => kept
  { clusters := cls, entries := cls.map fun cl => (cl, (pick cl).1), gens := cls.map fun cl => (cl, (pick cl).2) }

def ownsPort (s : State) (p port : Nat) : Bool := rb s (fLnkPcfg_own port) && decide (rf s (fLnkPcfg_part port) = p)

def execLoadSchedule (q seq : Nat) (s : State) : Host.Outcome State Fault Refusal :=
  .next (onEntry s q seq fun s x =>
    let p := pk x 8 1
    let n := pk x 24 2
    let now := bits x.toNat 72 1 == 0
    if p ≠ qPart s q then finish s q seq .accessViolation 0 0
    else
      cpRead s q seq x (.loadSchedule q seq) (pkAddr x 16) (128 * n) fun s list =>
        let es := (List.range n).map fun i => routerEntry ((list.drop (128 * i)).take 128)
        if es.any (·.isNone) then finish s q seq .invalid 0 0
        else
          let rs := es.filterMap id
          if !(rs.all fun r => decide (partOfCluster s r.1 = some p)) then finish s q seq .accessViolation 0 0
          else
            awake s ((rs.map fun r => domainOf r.1).eraseDups) (.loadSchedule q seq) fun s =>
              match readImages s (cpAcc s q x) rs with
              | (s, _, some .wait, _) => waitFor s (.loadSchedule q seq)
              | (s, _, some (.err st), _) => finish s q seq st 0 0
              | (s, ls, _, img) =>
                match verifySchedule s (schedAfter s p (!now) ls) (ownsPort s p) with
                | some st => finish s q seq st 0 0
                | none =>
                  if (s.part p).aborted || (if now then !stopped s p else ls.any fun l => (s.router l.1).qsched.isSome) then
                    finish s q seq .busy 0 0
                  else
                    let s := auditLoad s q 9 p p (list ++ img)
                    let s := ls.foldl (fun s l =>
                      if now then writeSchedule s l.1 l.2.1 l.2.2
                      else s.setRouter l.1 { s.router l.1 with qsched := some (l.2.1, l.2.2) }) s
                    done (if now then s else stretchLoads s p ((ls.map fun l => l.2.1.length).foldl max 0)) q seq 0 0)

/-! LOAD_CODEBOOK (R183). -/

def execLoadCodebook (q seq : Nat) (s : State) : Host.Outcome State Fault Refusal :=
  .next (onEntry s q seq fun s x =>
    let p := qPart s q
    let cls := (List.range (pk x 10 2)).map fun i => pk x 8 2 + i
    if !(cls.all fun cl => decide (partOfCluster s cl = some p)) then finish s q seq .accessViolation 0 0
    else if !stopped s p then finish s q seq .busy 0 0
    else
      awake s ((cls.map domainOf).eraseDups) (.loadCodebook q seq) fun s =>
        if cls.any fun cl => !(s.dma cl).active.isEmpty || !(s.dma cl).queue.isEmpty then waitFor s (.loadCodebook q seq)
        else
          let d0 : Desc := { id := 0, core := 0, flag := 0, x := 0 }
          match dmaReadAll s (cpAcc s q x) d0 (piecesFrom (pkAddr x 16) (pk x 28 4)) with
          | (s, none) => waitFor s (.loadCodebook q seq)
          | (s, some (d, xs)) =>
            let s := auditLoad s q 0xA (pk x 8 2) p (xs.map (·.1))
            let s := cls.foldl (fun s cl =>
              let m := s.dma cl
              let a := 65536 * (1 - m.half) + 8192 * bits x.toNat 192 3
              let s := bookWritten (s.setDma cl (storeWrite m a xs)) cl a xs.length
              let s := if d.sawPsn then setB s (fCluDmastat_psn cl) else s
              if bits x.toNat 199 1 = 1 then swapHalves s cl else s) s
            finish (setPast (setBegun s q seq) q seq) q seq d.status 0 0)

/-! RUN_STEPS, HOLD, RELEASE (R246, R325, R348, R353). -/

/-- R246, R325: whether a RUN_STEPS on a partition ends BUSY. -/
def runBusy (s : State) (p : Nat) : Bool :=
  (s.part p).run.isSome || (coresOf s p).any (fun c => (s.core c).faulted) || rb s (fErrPart_qact p) || s.pwr.tripped

def execRunSteps (q seq : Nat) (s : State) : Host.Outcome State Fault Refusal :=
  .next (onEntry s q seq fun s x =>
    let p := pk x 8 1
    if p ≠ qPart s q then finish s q seq .accessViolation 0 0
    else if runBusy s p then finish s q seq .busy 0 0
    else
      let s := (setBegun s q seq).setPart p { s.part p with run := some { q := q, seq := seq, steps := pk x 16 8 } }
      (showLimits s p).emit ((asleepDomains s p).map fun d => .domainWake d))

def execHold (q seq : Nat) (s : State) : Host.Outcome State Fault Refusal :=
  .next (onEntry s q seq fun s x =>
    let p := pk x 8 1
    let y := s.part p
    if p ≠ qPart s q then finish s q seq .accessViolation 0 0
    else
      match y.run with
      | none => finish s q seq .busy 0 y.step.toNat
      | some r =>
        if y.paused && !r.waitFloor then done s q seq 0 y.step.toNat
        else (setBegun s q seq).setPart p { y with holdReqs := y.holdReqs ++ [(q, seq)] })

def execRelease (q seq : Nat) (s : State) : Host.Outcome State Fault Refusal :=
  .next (onEntry s q seq fun s x =>
    let p := pk x 8 1
    let y := s.part p
    if p ≠ qPart s q then finish s q seq .accessViolation 0 0
    else
      match y.run with
      | none => finish s q seq .busy 0 y.step.toNat
      | some r =>
        if !y.paused || r.waitFloor then finish s q seq .busy 0 y.step.toNat
        else
          let s := (setBegun s q seq).setPart p { y with run := some { r with waitFloor := true, rel := some (q, seq) } }
          (showLimits s p).emit ((asleepDomains s p).map fun d => .domainWake d))

/-! FENCE and ABORT (R251, R253, R259). -/

/-- FENCE: what it waits for in other queues has ended, then its flush. -/
def execFence (q seq : Nat) (s : State) : Host.Outcome State Fault Refusal :=
  .next (match entryOf s q seq with
    | none => s
    | some e =>
      if e.reply.isSome || e.begun then s
      else
        let x := e.pkt
        let flush := bits x.toNat 65 1 == 1
        let a := pkAddr x 16
        let n := pk x 32 8
        if flush && decide (n ≠ 0) && !hostOnly a n then finish s q seq .invalid 0 0
        else if e.fence.any fun f => ((entryOf s f.1 f.2).map (·.reply.isNone)).getD false then waitFor s (.fence q seq)
        else if !flush then done s q seq 0 0
        else
          let (s, left) := walkSlices s (hostWalk 2 a n (qPasid s q)) allSlices
          if left.isEmpty then done s q seq 0 0 else waitFor s (.fence q seq))

/-- One target of an ABORT: the state, endings, and whether it was too late. -/
def abortTarget (s : State) (t seq : Nat) : State × List Ending × Bool :=
  let y := s.queue t
  if seqBefore seq y.nextseq then
    match entryOf s t seq with
    | none => (s, [], true)
    | some e =>
      if e.past || e.reply.isSome then (s, [], true)
      else
        let (s, l) := abortEntry s t e
        (s, l, false)
  else (s.setQueue t { y with aborts := seq :: y.aborts }, [], false)

def execAbort (q seq : Nat) (s : State) : Host.Outcome State Fault Refusal :=
  .next (onEntry s q seq fun s x =>
    let fn := qFn s q
    let j := pk x 8 1
    match (if fn = 0 then some j else (queuesOfFn s fn)[j]?) with
    | none => finish s q seq .invalid 0 0
    | some t =>
      if fn ≠ 0 ∧ qFn s t ≠ fn then finish s q seq .accessViolation 0 0
      else
        let s := setPast (setBegun s q seq) q seq
        let (s, es, late) := (List.range (pk x 16 2)).foldl (fun (a : State × List Ending × Nat) i =>
          let (s', l, tooLate) := abortTarget a.1 t ((pk x 12 4 + i) % 2 ^ 32)
          (s', a.2.1 ++ l, a.2.2 + bit tooLate)) (s, [], 0)
        let s := endAll 8192 es s
        finish s q seq (if late = 0 then .ok else .abortTooLate) late (pk x 16 2 - late))

/-! KV_COMMIT (R190, R325). -/

/-- P0 to P3 use only the bits of a COMMIT's parameters. -/
def commitBitsOk (x : BitVec 512) : Bool :=
  decide (Nat.land (pk x 16 32 * 2 ^ 256) (Nat.xor (2 ^ 512 - 1) (dMask 7)) = 0)

def execKvCommit (q seq : Nat) (s : State) : Host.Outcome State Fault Refusal :=
  .next (onEntry s q seq fun s x =>
    let cl := pk x 8 2
    let p := qPart s q
    if !commitBitsOk x then finish s q seq .invalid 0 0
    else if partOfCluster s cl ≠ some p then finish s q seq .accessViolation 0 0
    else if rb s (fErrPart_qact p) then finish s q seq .busy 0 0
    else if stopped s p then
      awake s [domainOf cl] (.kvCommit q seq) fun s =>
        let (s, st) := commitPages s cl (pk x 16 8) (pk x 24 8) (pk x 32 8) (pk x 40 8)
        finish (setPast (setBegun s q seq) q seq) q seq st 0 0
    else
      let y := s.part p
      if y.kvq.contains (q, seq) then s else s.setPart p { y with kvq := y.kvq ++ [(q, seq)] })

/-! SET_CLASS (R223). -/

/-- The word of a class entry. -/
def classWord (guar ways qshare prio : Nat) : Nat := guar * 2 ^ 16 + ways * 2 ^ 11 + qshare * 2 ^ 6 + prio * 2 ^ 3

/-- R223: the limit on the sum of guarantees, in GB/s. -/
def guarLimit : Nat := 13100

def execSetClass (q seq : Nat) (s : State) : Host.Outcome State Fault Refusal :=
  .next (onEntry s q seq fun s x =>
    let k := 8 * pk x 8 1 + pk x 9 1
    let guar := pk x 12 2
    if guarLimit < guarSum s k + guar then finish s q seq .invalid 0 0
    else
      let w := classWord guar (pk x 14 1) (pk x 15 1) (pk x 16 1)
      let s := auditCmd s q 0x20 k (pk x 8 1) (s.reg (offQosClass k)).toNat w
      done (s.setReg (offQosClass k) (BitVec.ofNat 256 w)) q seq 0 0)

/-! PARTITION (R88, R215, R304). -/

/-- A cluster that comes to a partition whose step is under way has no part in that step. -/
def joinLate (s : State) (cl p : Nat) : State :=
  if (s.part p).inStep then
    let s := (List.range 32).foldl (fun s k => s.setCore (32 * cl + k) { s.core (32 * cl + k) with ended := true }) s
    s.setRouter cl { s.router cl with done := true }
  else s

/-- A cluster changes hands: cluster reset, then the new assignment (R88). -/
def moveCluster (s : State) (cl : Nat) (owner : Option Nat) : State :=
  let s := clusterReset s cl
  match owner with
  | some p => joinLate (assignCluster s cl p true) cl p
  | none => s

/-- What a partition is to hold: clusters, ports and blocks by mask. Clusters whose owner changes, ports and blocks that it
does not name are released. -/
def regrant (s : State) (p clm ports blocks : Nat) : State :=
  let has (m i : Nat) : Bool := m / 2 ^ i % 2 == 1
  let s := (List.range 512).foldl (fun s cl =>
    let mine := decide (partOfCluster s cl = some p)
    if has clm cl && !mine then moveCluster s cl (some p)
    else if !has clm cl && mine then moveCluster s cl none
    else s) s
  let s := (List.range 8).foldl (fun s i =>
    if has ports i then setB (wf s (fLnkPcfg_part i) p) (fLnkPcfg_own i)
    else if ownsPort s p i then clrB s (fLnkPcfg_own i)
    else s) s
  (List.range 96).foldl (fun s b =>
    if has blocks b then setGrant s b p
    else if rf s (fSbfScrgrant_owner b) = p then setGrant s b 31
    else s) s

/-- Partitions other than p that hold something of the masks. -/
def holders (s : State) (p clm ports blocks : Nat) : List Nat :=
  let has (m i : Nat) : Bool := m / 2 ^ i % 2 == 1
  ((List.range 16).filter fun n => decide (n ≠ p)).filter fun n =>
    ((clustersOf s n).any (has clm)) || (portsOf s n).any (has ports) || (blocksOf s n).any (has blocks)

/-- Clusters whose owner changes: those of the mask that p does not hold, those of p that the mask does not name. -/
def ownerChanges (s : State) (p clm : Nat) : List Nat :=
  (List.range 512).filter fun cl => (clm / 2 ^ cl % 2 == 1) != decide (partOfCluster s cl = some p)

/-- R88: one of them is of a partition that is not stopped. -/
def changesRunning (s : State) (p clm : Nat) : Bool := (ownerChanges s p clm).any fun cl => !clusterStopped s cl

def execPartitionAssign (q seq : Nat) (s : State) : Host.Outcome State Fault Refusal :=
  .next (onEntry s q seq fun s x =>
    let p := pk x 9 1
    cpRead s q seq x (.partitionAssign q seq) (pkAddr x 16) 128 fun s bs =>
      let d := natOf bs
      let clm := bits d 0 512
      let ports := bits d 512 8
      let blocks := bits d 576 96
      if bits d 520 56 ≠ 0 ∨ bits d 672 352 ≠ 0 ∨ blocks % 2 = 1 ∨
          (List.range 512).any (fun cl => decide (clm / 2 ^ cl % 2 = 1) && withdrawn s cl) then finish s q seq .invalid 0 0
      else
        match (holders s p clm ports blocks).find? (confidential s) with
        | some n =>
          let s := audit s { kind := 2, fn := qFn s q, part := n, target := tgtOp 0x21 0, new := pk x 8 8 }
          finish (refusedFor s n (some (q, seq))) q seq .accessViolation 0 0
        | none =>
          if changesRunning s p clm then finish s q seq .busy 0 0
          else
            awake s (((ownerChanges s p clm).map domainOf).eraseDups) (.partitionAssign q seq) fun s =>
              let s := auditCmd s q 0x21 0 p (clusterMask s p) clm
              done (regrant s p clm ports blocks) q seq 0 0)

def execPartitionDissolve (q seq : Nat) (s : State) : Host.Outcome State Fault Refusal :=
  .next (onEntry s q seq fun s x =>
    let p := pk x 9 1
    if changesRunning s p 0 then finish s q seq .busy 0 0
    else
      awake s (((ownerChanges s p 0).map domainOf).eraseDups) (.partitionDissolve q seq) fun s =>
        let s := auditCmd s q 0x21 0 p (clusterMask s p) 0
        done (regrant s p 0 0 0) q seq 0 0)

/-! KEY (R305, R306). -/

def execKeyGenerate (q seq : Nat) (s : State) : Host.Outcome State Fault Refusal :=
  .next (onEntry s q seq fun s x =>
    let slot := pk x 9 1
    let p := pk x 10 1
    if slot = 63 then finish s q seq .accessViolation 0 0
    else if rf s (fSecSlot_state slot) ≠ 0 then finish s q seq .busy 0 0
    else if !assigned s p then finish s q seq .invalid 0 0
    else done (keyGenerate (auditCmd s q 0x22 slot p 0 0) slot p) q seq 0 0)

def execKeyDestroy (q seq : Nat) (s : State) : Host.Outcome State Fault Refusal :=
  .next (onEntry s q seq fun s x =>
    let slot := pk x 9 1
    let p := pk x 10 1
    if slot = 63 then finish s q seq .accessViolation 0 0
    else if rf s (fSecSlot_state slot) ≠ 1 then finish s q seq .busy 0 0
    else if rf s (fSecSlot_part slot) ≠ p then finish s q seq .accessViolation 0 0
    else if !stopped s p then finish s q seq .busy 0 0
    else done (keyDestroy (auditCmd s q 0x22 slot p 0 0) slot) q seq 0 0)

end Sys2Proof.Machine
end

