-- ==== Sys2Proof/Machine/Links.lean ====
section
/-! DEFINITION. Link ports and the cascade: training, the error-rate gate, frames, failures and detours, the barrier, DEVTIME,
link holds, and the sideband mailbox (R262 to R292, R310, R377). -/
namespace Sys2Proof.Machine

/-! Training (R268 to R272, R275, R276, R310, R384). -/

/-- R272: the peer is who Table 10-3 says, or any device of the cascade at a spare port. -/
def identityOk (s : State) (p : Nat) (t : Train) : Bool :=
  let topo := rf s fLnkCasc_topo
  let N := rf s fLnkCasc_ndev + 1
  decide (topo ≠ 0 ∧ t.topo = topo ∧ t.ndev + 1 = N) && (t.master == decide (t.pos = 0)) &&
    match namedPeer topo (selfPos s) N p with
    | some x => decide (x = (t.pos, t.port))
    | none => decide (t.pos < N)

/-- The core cycles of a latency in ps at a clock in units of 100 MHz, rounded up (R269). -/
def latCycles (ps rate : Nat) : Nat := (ps * rate + 9999) / 10000

/-- A TIME record: the offset in ns (R275, R276). -/
def timeRec (s : State) (off : Int) : State :=
  errNote s .time .timeout unitCp 0 (BitVec.ofInt 64 off).toNat 0 none

/-- R276: the offset exchange of a training; none where it fails the training. -/
def joinTime (s : State) (t : Train) (m : Nat) : State × Bool :=
  let now := s.devtime.toNat
  if !isMember s then
    (if !rb s fBseBoot_cready && decide (now < m) then stepTime s (m + 10 ^ 6) else s, true)
  else if s.links.joined then (s, true)
  else if decide (m < now) && t.joined then (timeRec s ((now : Int) - m), false)
  else
    let s := stepTime s m
    ({ s with links := { s.links with joined := true } }, true)

/-- A training has gone well but for the gate (R269, R377). -/
def trained (s : State) (p : Nat) (t : Train) (prov : Bool) : State :=
  let lp := t.oneWay + 26000
  let s := [(fLnkLat_c12 p, latCycles lp 12), (fLnkLat_c16 p, latCycles lp 16), (fLnkLat_c18 p, latCycles lp 18),
    (fLnkLat_c20 p, latCycles lp 20), (fLnkLat_ns p, (lp + 999) / 1000)].foldl (fun s x => wf s x.1 x.2) s
  let s := wf (wf (wf s (fLnkPstat_ppos p) t.pos) (fLnkPstat_pport p) t.port) (fLnkPstat_state p) 1
  let s := incWrap s (fLnkPstat_trains p) 1
  let s := if isMember s then s else wf s fLnkCasc_bdelay (min 65535 (t.path + 50))
  let s := if prov && !isMember s then wf s fBseFwpend_pend (Nat.lor (rf s fBseFwpend_pend) (2 ^ t.pos)) else s
  let x := linkPort s p
  let s := if s.links.mbxKey = 0 then { s with links := { s.links with mbxKey := Config.cascadeKey t.secret } } else s
  setLinkPort s p { noSched := x.noSched, failedAt := x.failedAt, trained := true, provision := prov, secret := t.secret
                    credit := t.bufs.zipIdx.map fun c => (c.2, c.1) }

/-- Whether a port may train: its domain is ON, the pins have passed the entry into BRINGUP, and the role strap agrees with
the position (R268, R270). -/
def mayTrain (s : State) (p : Nat) : Bool :=
  [0, 1, 4].contains (rf s (fLnkPstat_state p)) && decide (rf s (fPwrDomctl_state (88 + p)) = 0) &&
    decide (2 ≤ rf s fBsePhase_cur) && (rb s fLnkCasc_master == decide (selfPos s = 0)) && !(linkPort s p).trained

/-- PORT_TRAINING (R268): the steps in order; the first that fails fails the port. A member takes the master's topology with the first
port that trains (R271). -/
def execPortTraining (p : Nat) (t : Train) (s : State) : Host.Outcome State Fault Refusal :=
  .next (if !mayTrain s p then s
    else if !t.lanes || !t.frames then portDown s p 4
    else
      let s := if !rb s fLnkCasc_master && (upPorts s).isEmpty then
          hwf (hwf s fLnkCasc_topo t.topo) fLnkCasc_ndev t.ndev else s
      if !identityOk s p t then portDown s p 5
      else
        let bcast := if isMember s then t.bcast else rb s fBseFwdist_mode
        if !t.auth || (t.differs && !bcast) then portDown s p 6
        else if 214000 < t.oneWay then portDown s p 7
        else
          match t.time with
          | none => portDown s p 7
          | some m =>
            match joinTime s t m with
            | (s, true) => trained s p t t.differs
            | (s, false) => portDown s p 7)

/-- ERROR_RATE_GATE (R377): the window of test frames of a trained port has passed or failed. -/
def execErrorRateGate (p : Nat) (pass : Bool) (s : State) : Host.Outcome State Fault Refusal :=
  let x := linkPort s p
  .next (if !x.trained then s
    else
      let s := setLinkPort s p { x with trained := false }
      if !pass then portDown s p 1
      else
        let s := wf s (fLnkPstat_state p) 2
        if x.provision then s
        else
        let s := writeRoutes s
        if isMember s then
          let s := tellMaster s 0x52 (8 * selfPos s + p + 1024 * (8 * rf s (fLnkPstat_ppos p) + rf s (fLnkPstat_pport p))) noFlits
          if rf s fBseBoot_stage = 0xA then tellReady s else s
        else creadyCheck (setPend s (rf s (fLnkPstat_ppos p)) false))

/-- PORT_RETRAIN (R292): 100 ms after a failure the port retrains. -/
def execPortRetrain (p : Nat) (s : State) : Host.Outcome State Fault Refusal :=
  .next (if rf s (fLnkPstat_state p) = 3 ∧ (linkPort s p).failedAt + 10 ^ 8 ≤ s.devtime.toNat then
      wf s (fLnkPstat_state p) 4
    else s)

/-! Frames (R263 to R267, R273). -/

/-- FRAME_RECEIVE. A port that is not up receives nothing. -/
def execFrameReceive (p : Nat) (x : Frame) (s : State) : Host.Outcome State Fault Refusal :=
  .next (if portUp s p then takeFrame s p x else s)

/-- A frame that carries only the report of the link's end (R267). -/
def downFrame (n : Nat) : Frame :=
  { fnum := n, ucw := 0, corr := 0, tagOk := true, lanes := [], down := true, ctl := [], marks := [], pkts := [] }

/-- FRAME_TRANSMIT: the frame of a period of 16 ns. A port that has gone down tells its peer in a control flit
(R267). -/
def execFrameTransmit (p : Nat) (s : State) : Host.Outcome State Fault Refusal :=
  let x := linkPort s p
  .next (if portUp s p then
      (if x.provision then setLinkPort s p (nextFrame x) else sendFrame s p)
    else if x.sendDown then
      setLinkPort s p { nextFrame x with sendDown := false, sent := some (sealFrame s p (downFrame x.fnum)) }
    else s)

/-- SIGNAL_LOSS (R267): signal or clock lock lost on a lane for 1 µs. -/
def execSignalLoss (p : Nat) (s : State) : Host.Outcome State Fault Refusal :=
  .next (if portUp s p then portDown s p 0 else s)

/-- SERVICE_REQUEST_TIMEOUT (R265): 10 µs without a response. The requester's device answers it; one that only passed the request on
forgets it. -/
def execServiceRequestTimeout (src tag : Nat) (s : State) : Host.Outcome State Fault Refusal :=
  .next (match s.outReqs.find? fun o => decide (o.src = src ∧ o.tag = tag ∧ o.sent + reqLimit s o ≤ s.devtime.toNat) with
    | some o =>
      let s := { s with outReqs := s.outReqs.filter fun y => decide (y ≠ o) }
      if nodePos o.src = selfPos s then failReq s o .timeout else s
    | none => s)

/-! Failure of a step (R289 to R291). -/

/-- ABORT_MARKER (R289): the same partition is aborted here. -/
def execAbortMarker (p : Nat) (s : State) : Host.Outcome State Fault Refusal :=
  .next (if stepOpen s p then irq (abortAndTell s p) 0 67 else s)

/-- DIGEST of an image (R323). -/
def imageDigest (bs : List Byte) : Nat → Nat → BitVec 64
  | 0, _ => 0
  | n + 1, i => BitVec.ofNat 64 (crc64 (bytesOf 8 i ++ (bs.drop (256 * i)).take 256)) ^^^ imageDigest bs n (i + 1)

/-- The routers and images of a detour element of this device; none while it waits, an error where they cannot be read. -/
def detourImages (s : State) (p : Nat) (e : DetourElem) :
    State × Option (Except Status (List (Nat × List (BitVec 512) × List (BitVec 64)) × List (BitVec 64))) :=
  let q : Acc := { node := nodeCp, part := p, key := 63, pasid := noPasid }
  match readRange s q (piecesFrom e.addr (128 * e.count)) with
  | (s, _, some (.wait, _)) => (s, none)
  | (s, _, some (.err st, _)) => (s, some (.error st))
  | (s, xs, _) =>
    let list := xs.map (·.1)
    let es := (List.range e.count).map fun i => routerEntry ((list.drop (128 * i)).take 128)
    if es.any (·.isNone) || xs.any (·.2) then (s, some (.error .invalid))
    else
      match readImages s q (es.filterMap id) with
      | (s, _, some .wait, _) => (s, none)
      | (s, _, some (.err st), _) => (s, some (.error st))
      | (s, ls, _, img) =>
        (s, some (.ok (ls, (List.range ls.length).map fun i => imageDigest ((img.drop (65536 * i)).take 65536) 256 0)))

/-- R290: the ready entry that names an end of a failed link. -/
def detourEntry (s : State) (x : Nat × Nat) : Option Nat :=
  let ends := [x] ++ (otherEnd s x).toList
  (List.range 32).find? fun e => rb s (fLnkDetour_ready e) && ends.contains (rf s (fLnkDetour_pos e), rf s (fLnkDetour_port e))

/-- R291: the 64 LNK_ROUTE values of an element. -/
def setRoutes (s : State) (routes : List (BitVec 32)) : State :=
  (routes.take 64).zipIdx.foldl (fun s r => regStoreAt s fnFirmware (offLnkRoute r.2) r.1.toNat (2 ^ 32 - 1)) s

/-- R290, R291: this device's element of a list: whether it can be read and, where that is asked for, is verified by R135 with the routes
as the list sets them; and the digest of its images. None while it waits. -/
def elemAnswer (s : State) (p : Nat) (verify : Bool) (y : DetourElem) : State × Option (Bool × BitVec 64) :=
  match detourImages s p y with
  | (s, none) => (s, none)
  | (s, some (.error _)) => (s, some (false, 0))
  | (s, some (.ok (ls, ds))) =>
    let parts := (ls.filterMap fun l => partOfCluster s l.1).eraseDups
    let t := setRoutes s y.routes
    let ok := !verify || ((ls.all fun l => (partOfCluster s l.1).isSome) &&
      parts.all fun q => (verifySchedule t
        (schedAfter t q false (ls.filter fun l => decide (partOfCluster s l.1 = some q))) (ownsPort t q)).isNone)
    (s, some (ok, Config.detourDigest ds))

/-- The answers of this device's elements of a list, with their places in it. None while one waits. -/
def ownAnswers (s : State) (p : Nat) (verify : Bool) : Nat → List DetourElem → State × Option (Tab (Bool × BitVec 64))
  | _, [] => (s, some [])
  | i, y :: r =>
    if y.pos ≠ selfPos s then ownAnswers s p verify (i + 1) r
    else
      match elemAnswer s p verify y with
      | (s, none) => (s, none)
      | (s, some a) =>
        match ownAnswers s p verify (i + 1) r with
        | (s, some l) => (s, some ((i, a) :: l))
        | (s, none) => (s, none)

/-- Elements of other devices: each is asked of its device. One that has no route cannot be checked. -/
def askAnswers (s : State) (e : Nat) (verify : Bool) (elems : List DetourElem) : State :=
  elems.zipIdx.foldl (fun s y =>
    if y.1.pos = selfPos s then s
    else if (routePort s y.1.pos).isNone then mapJob s e fun j => { j with answers := tset j.answers y.2 (false, 0) }
    else
      toMember s y.1.pos 0x4A (e + 32 * y.2 + 4096 / 2 * bit verify)
        ⟨8, BitVec.ofNat 2048 (packBits 32 (y.1.routes.map BitVec.toNat)), 0, 0⟩ y.1.count y.1.addr) s

/-- The elements of a list: as the command gives them, else as the list in memory says, whose form the manual does not give (log entry 64).
None while the memory waits. -/
def listElems (s : State) (e : Nat) (elems : List DetourElem) : State × Option (List DetourElem) :=
  if !elems.isEmpty then (s, some elems)
  else
    let n := Config.detourBytes
    let k := rf s (fLnkDetour_count e)
    let q : Acc := { node := nodeCp, part := 0, key := 63, pasid := noPasid }
    match readRange s q (piecesFrom (rf s (fLnkDetour_list e)) (k * n)) with
    | (s, _, some (.wait, _)) => (s, none)
    | (s, _, some _) => (s, some [])
    | (s, xs, none) => (s, some ((List.range k).map fun i => Config.detourElem ((xs.drop (n * i)).take n |>.map (·.1))))

/-- The partition under which a detour's images are read at a registration: the lowest cascade partition. -/
def partOfElem (s : State) : Nat :=
  ((List.range 16).find? fun i => decide (rf s fLnkCasc_cpart / 2 ^ i % 2 = 1)).getD 0

/-- R290, R291: the check of a list's images begins. -/
def startJob (s : State) (e : Nat) (part : Option Nat) (elems : List DetourElem) (cmd : Instr) : State :=
  match listElems s e elems with
  | (s, none) => waitFor s cmd
  | (s, some elems) =>
    let verify := part.isNone
    match ownAnswers s (part.getD (partOfElem s)) verify 0 elems with
    | (s, none) => waitFor s cmd
    | (s, some own) =>
      let s := { s with links := { s.links with jobs := (s.links.jobs.filter fun j => decide (j.entry ≠ e)) ++
        [{ entry := e, part := part, elems := elems, answers := own }] } }
      jobAnswered (askAnswers s e verify elems) e

/-- One element of this device loaded: its images written as immediate-mode loads, and its routes. None while it waits; whether it could be
read. -/
def loadElem (s : State) (p : Nat) (y : DetourElem) : State × Option Bool :=
  match detourImages s p y with
  | (s, none) => (s, none)
  | (s, some (.error _)) => (s, some false)
  | (s, some (.ok (ls, _))) => (setRoutes (ls.foldl (fun s l => writeSchedule s l.1 l.2.1 l.2.2) s) y.routes, some true)

/-- R290: this device's elements of a list loaded. None while one waits; whether all could be read. -/
def loadOwn (s : State) (p : Nat) : List DetourElem → State × Option Bool
  | [] => (s, some true)
  | y :: r =>
    if y.pos ≠ selfPos s then loadOwn s p r
    else
      match loadElem s p y with
      | (s, some true) => loadOwn s p r
      | x => x

/-- R290: the elements of other devices are loaded by an order to each. The ways to the master follow their routes. -/
def orderLoads (s : State) (p : Nat) (elems : List DetourElem) : State :=
  elems.foldl (fun s y =>
    if y.pos = selfPos s then s
    else
      let way := match y.routes[0]? with
        | some w => (if w.getLsbD 31 then otherEnd s (y.pos, w.toNat % 8) else none).map (·.1)
        | none => none
      let s := match way with
        | some m => { s with links := { s.links with ways := tset s.links.ways y.pos m } }
        | none => s
      toMember s y.pos 0x4C (p + 32 * y.pos) ⟨8, BitVec.ofNat 2048 (packBits 32 (y.routes.map BitVec.toNat)), 0, 0⟩ y.count y.addr) s

/-- DETOUR (R290). On the master without an entry, once every device has told of its abort or 1 ms after it: the one failed link of
the partition is looked up and the images are checked; else the RUN_STEPS ends. With the entry whose images have been checked it is
their loading. An order is the master's to a member, to load its element. elems is the entry's list, empty where it is still to be read. -/
def execDetour (p : Nat) (order : Bool) (entry : Option Nat) (elems : List DetourElem) (s : State) : Host.Outcome State Fault Refusal :=
  let x := s.part p
  .next (if order then
      match elems with
      | [y] =>
        if !isMember s then s
        else
          (match loadElem s p y with
           | (s, none) => waitFor s (.detour p order entry elems)
           | (s, some ok) => tellMaster s 0x4D (p + 16 * selfPos s + 1024 * bit ok) noFlits)
      | _ => s
    else if isMember s || !x.aborted then s
    else
      match entry, s.links.jobs.find? fun j => decide (j.part = some p) with
      | some e, some j =>
        if decide (j.entry ≠ e) || !j.loading || j.ordered then s
        else
          match loadOwn s p j.elems with
          | (s, none) => waitFor s (.detour p order entry elems)
          | (s, some false) => detourFail s p
          | (s, some true) =>
            let mine := (j.elems.filter fun y => decide (y.pos = selfPos s)).map fun y => y.pos
            jobLoaded (orderLoads (mapJob s j.entry fun j => { j with ordered := true, loaded := mine }) p j.elems) p
      | none, none =>
        if !((members s).all fun n => (tfind x.acks n).isSome) && decide (s.devtime.toNat < x.abortAt + 10 ^ 6) then s
        else
          match (if rb s fLnkCasc_autodet && !confidential s p then
              (match failedLinks s p with | [l] => detourEntry s l | _ => none) else none) with
          | none => detourFail s p
          | some e => startJob s e (some p) elems (.detour p order entry elems)
      | _, _ => s)

/-- A write of a LNK_DETOUR entry; a 1 written to valid starts the verification of the list (R291). -/
def detourWrite (s : State) (fn e v mask : Nat) (elems : List DetourElem) : State :=
  let s := regStoreAt s fn (offLnkDetour e) v mask
  if bits (Nat.land v mask) 63 1 = 1 then
    startJob (clrB s (fLnkDetour_ready e)) e none elems (.detourRegister e (s.reg (offLnkDetour e)) elems)
  else s

/-- DETOUR_REGISTER (R291). On a member it is the order to check its element. -/
def execDetourRegister (e : Nat) (v : BitVec 256) (elems : List DetourElem) (s : State) : Host.Outcome State Fault Refusal :=
  .next (if 32 ≤ e then s
    else if isMember s then
      match elems with
      | [y] =>
        (match elemAnswer s (partOfElem s) (v.toNat / 64 % 2 == 1) y with
         | (s, none) => waitFor s (.detourRegister e v elems)
         | (s, some (ok, d)) =>
           tellMaster s 0x4B (e + 32 * (v.toNat % 64) + 2048 * bit ok) ⟨1, BitVec.ofNat 2048 d.toNat, 0, 0⟩)
      | _ => s
    else detourWrite s 0 e v.toNat (2 ^ 256 - 1) elems)

/-! The barrier (R274, R277). -/

/-- READY_MARKER: this device's own READY leaves once its transmit queues are empty; a lane-flit that has come since its boundary and that
the step has not taken aborts it (R282). -/
def execReadyMarker (p k pos : Nat) (s : State) : Host.Outcome State Fault Refusal :=
  .next (if !isCascade s p then s
    else if pos = selfPos s then
      if (s.part p).run.isNone || (s.part p).inStep || (s.part p).aborted then s
      else if flitsLeft s p then failRun s p .invalid
      else if !txEmpty s p then waitFor s (.readyMarker p k pos)
      else takeReady s p k pos
    else takeReady s p k pos)

/-- GO_MARKER: the start time of the next step; it goes on to the other devices once. -/
def execGoMarker (p k t : Nat) (s : State) : Host.Outcome State Fault Refusal :=
  let x := s.part p
  .next (if !isCascade s p || decide (x.goSeen = some (k, t)) || (!isMember s && x.run.isNone) then s
    else
      let run := if isMember s && x.run.isNone then some { q := 128, seq := 0, steps := 0, waitFloor := false } else x.run
      let s := s.setPart p { x with goSeen := some (k, t), goAt := some t, run := run, ownReady := false, aborted := false
                                    step := if isMember s then BitVec.ofNat 64 (k - 1) else x.step }
      floodMark s (.go p k t))

/-- R402: the step-marker output is high for 4 always-on cycles from a step's start; a start during a pulse extends it. -/
def stepPulse (s : State) : State :=
  let now := s.devtime.toNat
  { s with links := { s.links with
      pulses := if now < s.links.pulseEnd then s.links.pulses else s.links.pulses + 1
      pulseEnd := now + 80 } }

/-- CASCADE_STEP_START: the first core cycle whose DEVTIME is T or later. The step-marker output pulses for the
lowest-numbered running cascade partition. -/
def execCascadeStepStart (p : Nat) (s : State) : Host.Outcome State Fault Refusal :=
  .next (match (s.part p).goAt with
    | some t =>
      if s.devtime.toNat < t ∨ (s.part p).run.isNone then s
      else
        let first := (List.range 16).find? fun q => isCascade s q && (s.part q).run.isSome
        let s := enterStep s p
        if first = some p ∧ rf s fBsePhase_cur = 3 then stepPulse s else s
    | none => s)

/-- STEP_MARKER_INPUT (R277, R402): a rising edge gives the GO that waits for it. -/
def execStepMarkerInput (s : State) : Host.Outcome State Fault Refusal :=
  .next (if rf s fBsePhase_cur ≠ 3 ∨ rb s fLnkCasc_extgo = false then s
    else (List.range 16).foldl (fun s p =>
      if (s.part p).goWait && !debugHeld s p && (s.part p).farDbg.isEmpty && !(s.part p).farQuar then sendGo s p else s) s)

/-! DEVTIME (R275, R276). -/

/-- DEVTIME_BROADCAST: the master sends its DEVTIME. -/
def execDevtimeBroadcast (s : State) : Host.Outcome State Fault Refusal :=
  .next (if rf s fLnkCasc_topo = 0 ∨ isMember s then s else floodMark s (.devtime s.devtime.toNat))

/-- DEVTIME_MESSAGE: the master's DEVTIME now, as a member hears it every millisecond. More than 5 ns of offset leaves a record and
starts a slew of 1 ns per message until it is within 2 ns; DEVTIME never goes back. -/
def execDevtimeMessage (t : Nat) (s : State) : Host.Outcome State Fault Refusal :=
  .next (if !isMember s || decide (t ≤ s.links.heard) then s
    else
      let d : Int := (s.devtime.toNat : Int) - t
      let far := decide (5 < d.natAbs) && !s.links.slew
      let s := if far then timeRec s d else s
      let slew := (s.links.slew || far) && decide (2 < d.natAbs)
      let s := { s with links := { s.links with heard := t, slew := slew } }
      let s := if !slew then s
        else if d < 0 then { s with devtime := s.devtime + 1 }
        else { s with links := { s.links with skip := s.links.skip + 1 } }
      floodMark s (.devtime t))

/-! Link holds (R280, R281). -/

/-- LINK_WAIT_HOLD: within the next hold lead the schedule takes more of a lane's lane-flits than have arrived. -/
def execLinkWaitHold (b j : Nat) (s : State) : Host.Outcome State Fault Refusal :=
  .next (match portOwner s b with
    | none => s
    | some p =>
      let x := s.part p
      let g := gatewayLane b j
      let n := takesAhead g.2 (holdLead s p) (s.router g.1)
      if x.run.isNone || !x.inStep || !x.go || decide (n ≤ rxHeld s b j) || x.linkWait.any (fun w => decide (w.1 = 4 * b + j)) then s
      else
        let need := tget 0 (linkPort s b).got j + n - rxHeld s b j
        let s := s.setPart p { x with linkWait := x.linkWait ++ [(4 * b + j, s.devtime.toNat, need)] }
        updateLine (incWrap s (fLnkWait_waits b) 1) p)

/-- LINK_WAIT_TIMEOUT: a link-wait has lasted 10 ms. -/
def execLinkWaitTimeout (b j : Nat) (s : State) : Host.Outcome State Fault Refusal :=
  .next (match portOwner s b with
    | none => s
    | some p =>
      if (s.part p).linkWait.any fun w => decide (w.1 = 4 * b + j ∧ w.2.1 + 10 ^ 7 ≤ s.devtime.toNat) then
        failRun s p .timeout
      else s)

/-- LINK_PAUSE: the receiver has asked for a pause of a lane. -/
def execLinkPause (b j : Nat) (s : State) : Host.Outcome State Fault Refusal :=
  .next (match portOwner s b with
    | none => s
    | some p =>
      let x := s.part p
      if x.run.isNone || x.linkPause.contains (4 * b + j) then s
      else updateLine (incWrap (s.setPart p { x with linkPause := x.linkPause ++ [4 * b + j] }) (fLnkWait_pauses b) 1) p)

/-- LINK_RESUME. -/
def execLinkResume (b j : Nat) (s : State) : Host.Outcome State Fault Refusal :=
  .next (match portOwner s b with
    | none => s
    | some p =>
      let x := s.part p
      updateLine (s.setPart p { x with linkPause := x.linkPause.filter fun n => decide (n ≠ 4 * b + j) }) p)

/-! Transit (R283). -/

/-- A write of LNK_PCFG: while the owner is stopped, and for transit only between two ports of one owner. -/
def transitBy (s : State) (fn p v mask : Nat) : State :=
  let new := Nat.lor (Nat.land v mask) (Nat.land (s.reg (offLnkPcfg p)).toNat (2 ^ 32 - 1 - Nat.land mask (2 ^ 32 - 1)))
  let src := bits new 23 3
  let run := match portOwner s p with | some q => !stopped s q | none => false
  let pair := (portOwner s p).isSome && decide (portOwner s p = portOwner s src)
  if run || (decide (bits new 26 1 = 1) && !pair) then s else regStoreAt s fn (offLnkPcfg p) v mask

/-- TRANSIT_CONFIG_WRITE. -/
def execTransitConfigWrite (p : Nat) (v : BitVec 32) (s : State) : Host.Outcome State Fault Refusal :=
  .next (if 8 ≤ p then s else transitBy s 0 p v.toNat (2 ^ 32 - 1))

/-! The sideband mailbox (R287, R288, R311, R404). -/

def setMbx (s : State) (x : Mailbox) : State := { s with links := { s.links with mbx := x } }

/-- R287: the transfer of the send buffer as the registers name it. -/
def mailboxOut (s : State) : MbxOut :=
  let dst := rf s fLnkMbx_dest
  let bs := (s.links.mbx.tx ++ List.replicate 64 0).take (rf s fLnkMbx_len + 1)
  { role := decide (selfPos s = 0), src := selfPos s, dst := dst, bytes := bs, crc := mailboxCrc (selfPos s) dst bs }

/-- A 1 stands in LNK_MBX.go: the transfer of the send buffer begins. -/
def mailboxGo (s : State) : State :=
  if rb s fLnkMbx_busy then s
  else setMbx (setB (wf s fLnkMbx_go 1) fLnkMbx_busy) { s.links.mbx with out := some (mailboxOut s) }

/-- The transfer is over: busy and go clear (log entry 77). -/
def mailboxOver (s : State) : State := setMbx (clrB (clrB s fLnkMbx_busy) fLnkMbx_go) { s.links.mbx with out := none }

/-- Another attempt has not been acknowledged; the sixteenth is the last. -/
def mailboxAgain (s : State) (o : MbxOut) : State :=
  if 16 ≤ o.tries + 1 then mailboxOver (setB s fLnkMbx_fail)
  else setMbx s { s.links.mbx with out := some { o with tries := o.tries + 1, met := none } }

/-- 32 bit times of 8 always-on cycles in ns, for which the bus stays idle after a stop. -/
def mailboxIdle : Nat := 32 * 160

/-- A stop condition: the bus is idle 32 bit times later. -/
def mailboxStop (s : State) : State := setMbx s { s.links.mbx with idleAt := s.devtime.toNat + mailboxIdle }

/-- Another's transfer has passed on the bus; one of this device that waits notes whose. -/
def mailboxPassed (s : State) (src : Nat) : State :=
  let s := mailboxStop s
  let x := s.links.mbx
  setMbx s { x with out := x.out.map fun o => { o with met := some src } }

/-- MAILBOX_SEND: a write of 1 to LNK_MBX.go. -/
def execMailboxSend (s : State) : Host.Outcome State Fault Refusal :=
  .next (mailboxGo (if rb s fLnkMbx_busy then s else regStoreAt s 0 offLnkMbx (2 ^ 31) (2 ^ 31)))

/-- The end of one attempt of this device's transfer: acknowledged, or meant for all, or not. -/
def mailboxSent (s : State) (o : MbxOut) (ok : Bool) : State :=
  let s := mailboxStop s
  if ok || decide (o.dst = 0x7F) then mailboxOver s else mailboxAgain s o

/-- MAILBOX_TRANSFER: a transfer on the mailbox pins with its fields. Of this device's own, which is the one it has formed and is sent
once the bus is idle, ok is the acknowledge bit; of another's, whether its firmware message is authentic under the cascade key; one that is not
is dropped and leaves a record of an uncorrectable transfer (R311, log entry 91). A transfer for this device is taken
when its check holds and the receive buffer is free. -/
def execMailboxTransfer (src : MbxFrom) (dst : Nat) (bytes : List (BitVec 8)) (crc : BitVec 16) (ok : Bool) (s : State) :
    Host.Outcome State Fault Refusal :=
  let x := s.links.mbx
  .next (if rf s fBsePhase_cur ≠ 3 then s
    else if src.pos = selfPos s then
      match x.out with
      | some o =>
        if o.role = src.master ∧ o.dst = dst ∧ o.bytes = bytes ∧ o.crc = crc.toNat ∧ x.idleAt ≤ s.devtime.toNat then
          mailboxSent s o ok
        else s
      | none => s
    else
      let s := mailboxPassed s src.pos
      let x := s.links.mbx
      if dst ≠ selfPos s ∧ dst ≠ 0x7F then s
      else if mailboxCrc src.pos dst bytes ≠ crc.toNat ∨ rb s fLnkMbx_rxv then setMbx s { x with acked := false }
      else if ok = false then errNote (setMbx s { x with acked := false }) .link .uncorrectable unitCp 0 src.pos 0 none
      else irq (setB (wf (setMbx s { x with rx := bytes, acked := decide (dst ≠ 0x7F) }) fLnkMbx_rsrc src.pos) fLnkMbx_rxv) 0 67)

/-- R288: a member's transfer gives way to the master's, and to a member's of a lower position, which sends 0 first. -/
def givesWay (s : State) (src : Nat) : Bool := decide (selfPos s ≠ 0 ∧ src < selfPos s)

/-- MAILBOX_RETRY (R288): this device's transfer has met another. Where that one has won, it has passed, and this one is sent again
32 bit times after its stop; else this one goes on (log entry 77). -/
def execMailboxRetry (s : State) : Host.Outcome State Fault Refusal :=
  .next (match s.links.mbx.out with
    | none => s
    | some o =>
      let s := incSat s fLnkMbx_coll 1
      if o.met.any (givesWay s) then mailboxAgain s o else s)

end Sys2Proof.Machine
end

