-- ==== Sys2Proof/Machine/Phase.lean ====
section
/-! DEFINITION. The sideband phase, firmware transfers to a provisioning member, and the recovery image (R382, R384 to R386,
R403, R404). -/
namespace Sys2Proof.Machine

/-- R382: the allowed changes. -/
def phaseMay (s : State) (req : Nat) : Bool :=
  match rf s fBsePhase_cur, req with
  | 0, 2 => decide (1 ≤ rf s fBseBoot_stage)
  | 2, 3 => decide (rf s fBseBoot_stage = 0xA)
  | 3, 2 => !cascadeRuns s && !rb s fLnkMbx_busy
  | _, _ => false

/-- A guard interval of 5,000 always-on cycles, in ns (R403). -/
def guardNs : Nat := 100000

/-- R382: a later change asked of every member along the master's routes; one that is not reached shows as not joined. -/
def phaseCascade (s : State) (req : Nat) : State :=
  ((List.range (rf s fLnkCasc_ndev + 1)).drop 1).foldl (fun s n =>
    match routePort s n with
    | some p =>
      linkSend s p { op := 0x45, dst := 1024 * n + 0x250, fl := ⟨0, 0, 0, 0⟩
                     rq := ⟨0x250, 0, 0, 0, 7, 0, 0, 2 ^ 20, BitVec.ofNat 64 req⟩ }
    | none => setPend s n true) s

/-- A request for a phase: the guard interval begins, or the request is refused. -/
def phaseAsk (s : State) (req : Nat) : State :=
  if phaseMay s req then
    let later := decide (rf s fBsePhase_cur ≠ 0)
    let s := { clrB (wf s fBsePhase_cur 1) fPwrPfstat_relay with boot := { s.boot with phaseTo := req, phaseAt := s.devtime.toNat + guardNs } }
    if later && rb s fBsePhase_casc && !isMember s && decide (rf s fLnkCasc_topo ≠ 0) then phaseCascade s req else s
  else setB s fBsePhase_err

/-- A write to BSE_PHASE by the masked bits; one that covers req is a request. -/
def phaseBy (s : State) (fn v mask : Nat) : State :=
  let s := regStoreAt s fn offBsePhase v mask
  if bits mask 28 2 = 0 then s else phaseAsk s (rf s fBsePhase_req)

/-- PHASE_REQUEST. -/
def execPhaseRequest (req : Nat) (casc : Bool) (s : State) : Host.Outcome State Fault Refusal :=
  .next (phaseBy s 0 (req % 4 * 2 ^ 28 + bit casc * 2 ^ 27) (3 * 2 ^ 28 + 2 ^ 27))

/-- PHASE_CHANGE_COMPLETE (R403, R404). A link port whose domain is powered may train once the pins first reach BRINGUP. -/
def execPhaseChangeComplete (s : State) : Host.Outcome State Fault Refusal :=
  .next (if rf s fBsePhase_cur ≠ 1 ∨ s.devtime.toNat < s.boot.phaseAt then s
    else
      let s := wf s fBsePhase_cur s.boot.phaseTo
      let s := if powerFailed s then wf s fPwrPfstat_relay (bit (decide (s.boot.phaseTo = 3))) else s
      (List.range 8).foldl (fun s p =>
        if rf s (fLnkPstat_state p) = 0 ∧ rf s (fPwrDomctl_state (88 + p)) = 0 ∧ powerFailed s = false then
          wf s (fLnkPstat_state p) 1 else s) s)

/-! Firmware distribution (R384, R385). -/

/-- R295: whether an image is accepted for a kind: its header names the kind, both signatures verify, its digest is that of the copy, and
its SVN is at least the fused minimum. -/
def imageOk (s : State) (k : Nat) (x : Image) : Bool :=
  decide (x.kind = k) && x.ecdsa && x.mldsa && decide (x.len = x.copy.length) && decide (sha384 x.copy = x.digest) &&
    decide ((tget (0, 0) s.boot.svnMin k).1 ≤ x.svn)

/-- FIRMWARE_TRANSFER: one image over a provisioning port, and whether it is the last. The member's own Rind authenticates it, the SVN
check included; the master has done so with its own. -/
def execFirmwareTransfer (p : Nat) (img : Image) (last : Bool) (s : State) : Host.Outcome State Fault Refusal :=
  .next (if !(linkPort s p).provision || !portUp s p then s
    else if !imageOk s img.kind img then portDown (if isMember s then s else clrB s fBseFwdist_busy) p 6
    else if isMember s then
      let s := { s with boot := { s.boot with images := s.boot.images + 1 } }
      if last then s.emit [.selfRestart] else s
    else wf s fBseFwdist_busy (bit (!last)))

/-! Recovery (R386). -/

/-- A write to BSE_RECOV, which is served in RECOVERY alone; a 1 to go sets it and has the Starter work (log entry 77). -/
def recovBy (s : State) (fn v mask : Nat) : State :=
  if rf s fBseBoot_stage ≠ 0xE then s
  else
    if rb s fBseRecov_busy then regStoreAt s fn offBseRecov v (mask - Nat.land mask (2 ^ 31))
    else
      let s := regStoreAt s fn offBseRecov v mask
      if rb s fBseRecov_go then setB (clrB s fBseRecov_ok) fBseRecov_busy else s

/-- R386: the images that a recovery of a kind installs: Rind's, the command processor's, or a bundle with the four microcodes. -/
def recoveryOk (s : State) (kind : Nat) (imgs : List Image) : Bool :=
  match kind, imgs with
  | 0, [x] => imageOk s 0 x
  | 1, [x] => imageOk s 1 x
  | 2, [a, b, c, d] => imageOk s 2 a && imageOk s 3 b && imageOk s 4 c && imageOk s 5 d
  | _, _ => false

/-- RECOVERY_INSTALL: a write of go; the images in the buffer are authenticated by R295. -/
def execRecoveryInstall (v : BitVec 32) (imgs : List Image) (s : State) : Host.Outcome State Fault Refusal :=
  .next (if rf s fBseBoot_stage ≠ 0xE then s
    else
      let s := if rb s fBseRecov_busy then s else recovBy s 0 (Nat.lor v.toNat (2 ^ 31)) (2 ^ 32 - 1)
      let s := clrB (clrB s fBseRecov_busy) fBseRecov_go
      if recoveryOk s (rf s fBseRecov_kind) imgs then setB s fBseRecov_ok else setB s fBseRecov_err)

end Sys2Proof.Machine
end

