-- ==== Sys2Proof/Machine/SliceRegs.lean ====
section
/-! DEFINITION. Writes to the registers of the shared buffer, the grants and the regulators, and the ends of the work that they
start (R212, R214 to R216, R218, R220, R223, R224, R226, R230, R304, Tables 8-7 to 8-18 and 11-13). A write carries the function
it comes from, its value and the mask of its bits. -/
namespace Sys2Proof.Machine

/-- A field's value after the masked bits of a write. -/
def mergeField (s : State) (f : Field) (v mask : Nat) : Nat :=
  let m := bits mask f.lo f.w
  Nat.lor (Nat.land (bits v f.lo f.w) m) (Nat.land (rf s f) (2 ^ f.w - 1 - m))

/-- Bits of a field. -/
def fieldBits (f : Field) : Nat := (2 ^ f.w - 1) * 2 ^ f.lo

/-- A mask without a field. -/
def without (mask : Nat) (f : Field) : Nat := mask - Nat.land mask (fieldBits f)

def touches (mask : Nat) (f : Field) : Bool := decide (bits mask f.lo f.w ≠ 0)

/-- R312: the audit entry of a write that gives one field a new value. -/
def auditField (s : State) (fn : Nat) (f : Field) (v : Nat) : State :=
  match regFind f.off with
  | some (r, i) =>
    let old := (s.reg f.off).toNat
    auditChange s fn r i f.off old (putBits old f.lo f.w v)
  | none => s

/-! Maintenance (R216). -/

/-- A write to SBF_MAINT: a 1 to go sets it and starts the operation; while busy it is ignored (log entry 77). -/
def maintBy (s : State) (fn v mask : Nat) : State :=
  if rb s fSbfMaint_busy then regStoreAt s fn offSbfMaint v (without mask fSbfMaint_go)
  else
    let s := regStoreAt s fn offSbfMaint v mask
    if rb s fSbfMaint_go then maintStart s else s

/-- A write that starts an operation by its code. -/
def maintOp (s : State) (op : Nat) (v : BitVec 32) : State :=
  maintBy s 0 (Nat.lor (putBits v.toNat 0 4 op) (2 ^ 31)) (2 ^ 32 - 1)

/-- MAINT_INVALIDATE. -/
def execMaintInvalidate (v : BitVec 32) (s : State) : Host.Outcome State Fault Refusal := .next (maintOp s 1 v)
/-- MAINT_FLUSH. -/
def execMaintFlush (v : BitVec 32) (s : State) : Host.Outcome State Fault Refusal := .next (maintOp s 2 v)
/-- MAINT_CLEAN_INV. -/
def execMaintCleanInv (v : BitVec 32) (s : State) : Host.Outcome State Fault Refusal := .next (maintOp s 3 v)
/-- MAINT_PURGE_KEY. -/
def execMaintPurgeKey (v : BitVec 32) (s : State) : Host.Outcome State Fault Refusal := .next (maintOp s 4 v)

/-- MAINT_DONE: busy clears once no line of the walk waits. -/
def execMaintDone (s : State) : Host.Outcome State Fault Refusal :=
  .next (if !rb s fSbfMaint_busy then s
    else
      match maintFinish s with
      | (s, true) => wake s
      | (s, false) => { s with waiting := s.waiting ++ [.maintDone] })

/-! Scratch (R212 to R215). -/

/-- A write to SBF_SCR. The number of ways that stands is no change. -/
def scrWrite (s : State) (fn v mask : Nat) : State :=
  let s := regStoreAt s fn offSbfScr v (without mask fSbfScr_ways)
  if !touches mask fSbfScr_ways then s
  else
    let w := mergeField s fSbfScr_ways v mask
    if scrRefused s w then setB s fSbfScr_err
    else if w = rf s fSbfScr_ways then s
    else setScratchWays (auditField s fn fSbfScr_ways w) w

/-- SCRATCH_WAYS_WRITE. -/
def execScratchWaysWrite (w : Nat) (s : State) : Host.Outcome State Fault Refusal := .next (scrWrite s 0 (w % 16) 15)

/-- SCRATCH_CHANGE_DONE (R214): once the lines that left are written back, requests to the groups that changed are served. -/
def execScratchChangeDone (s : State) : Host.Outcome State Fault Refusal :=
  .next (if s.slices.all fun x => x.2.out.isEmpty then wake (clrB s fSbfScr_busy)
    else { s with waiting := s.waiting ++ [.scratchChangeDone] })

/-- A write to SBF_SCRGRANT of a block. While the command processor runs it keeps block 0: a write that would give that away is refused
(R215). -/
def scrGrantBy (s : State) (fn b v mask : Nat) : State :=
  if !touches mask (fSbfScrgrant_owner b) then s
  else if b = 0 ∧ rb s fBseBoot_cmd ∧ mergeField s (fSbfScrgrant_owner b) v mask ≠ 16 then
    auditRefused s fn .sbfScrgrant b (fSbfScrgrant_owner b).off (s.reg (fSbfScrgrant_owner b).off).toNat v (Nat.land mask 31)
  else
    let o := ownerStored (mergeField s (fSbfScrgrant_owner b) v mask)
    setGrant (auditField s fn (fSbfScrgrant_owner b) o) b o

/-- SCRATCH_GRANT_WRITE. -/
def execScratchGrantWrite (b v : Nat) (s : State) : Host.Outcome State Fault Refusal :=
  .next (if 96 ≤ b then s else scrGrantBy s 0 b (v % 32) 31)

/-- SCRATCH_ZEROING_DONE. -/
def execScratchZeroingDone (b : Nat) (s : State) : Host.Outcome State Fault Refusal :=
  .next (if 96 ≤ b then s else wake (clrB s (fSbfScrgrant_zeroing b)))

/-! Far-tier grants (R304, Table 11-13). -/

/-- A write to SEC_FTGRANT of a block; that of a confidential partition's block is refused, and its owner ends. -/
def farGrantBy (s : State) (fn b v mask : Nat) : State :=
  let f := fSecFtgrant_owner b
  if !touches mask f then s
  else
    let o := ownerStored (mergeField s f v mask)
    let now := rf s f
    if now < 16 ∧ confidential s now then
      refusedFor (auditRefused s fn .secFtgrant b f.off (s.reg f.off).toNat v (Nat.land mask 31)) now none
    else setFarGrant (auditField s fn f o) b o

/-- FAR_GRANT_WRITE. -/
def execFarGrantWrite (b v : Nat) (s : State) : Host.Outcome State Fault Refusal :=
  .next (if 384 ≤ b then s else farGrantBy s 0 b (v % 32) 31)

/-- FAR_GRANT_CHANGE_DONE: the new owner takes effect once no line of the block waits. -/
def execFarGrantChangeDone (b : Nat) (s : State) : Host.Outcome State Fault Refusal :=
  .next (if 384 ≤ b ∨ rb s (fSecFtgrant_busy b) = false then s
    else
      match walkSlices s (grantWalk b) allSlices with
      | (s, []) =>
        let o := tget 31 s.ftPend b
        wake (clrB (wf { s with ftPend := terase s.ftPend b } (fSecFtgrant_owner b) o) (fSecFtgrant_busy b))
      | (s, _) => { s with waiting := s.waiting ++ [.farGrantChangeDone b] })

/-! Slices and ways (R218, R220). -/

/-- A write to SBF_CTL: en is not set while the tags are not valid. -/
def ctlBy (s : State) (fn sl v mask : Nat) : State :=
  let f := fSbfCtl_en sl
  if touches (Nat.land v mask) f && !rb s (fSbfCtl_clean sl) then
    setB (regStoreAt s fn (offSbfCtl sl) v (without mask f)) (fSbfCtl_noinv sl)
  else regStoreAt s fn (offSbfCtl sl) v mask

/-- SLICE_ENABLE_WRITE. -/
def execSliceEnableWrite (sl v : Nat) (s : State) : Host.Outcome State Fault Refusal :=
  .next (if 32 ≤ sl then s else ctlBy s 0 sl (v % 2 * 2 ^ 31) (2 ^ 31))

/-- One bit of SBF_WAYDIS.mask written; a way disabled is recorded and listed as one that the hardware disables is (R219, R330,
log entry 59). -/
def wayBit (s : State) (fn sl w : Nat) (v : Bool) : State :=
  let f := fSbfWaydis_mask sl
  let m := rf s f
  let is := decide (m / 2 ^ w % 2 = 1)
  if v then
    if (s.slice sl).locked.contains w then
      auditRefused s fn .sbfWaydis sl f.off (s.reg f.off).toNat (2 ^ w) (2 ^ w)
    else if is then s
    else repair (wayOut (auditField s fn f (m + 2 ^ w)) sl w) (unitWay sl w) 6 0 (wayLoc 0 w)
  else if !is then s
  else if rf s (fSbfWaystat_inv sl) / 2 ^ w % 2 = 1 then wf (auditField s fn f (m - 2 ^ w)) f (m - 2 ^ w)
  else setB s (fSbfCtl_noinv sl)

/-- A write to SBF_WAYDIS. -/
def waydisBy (s : State) (fn sl v mask : Nat) : State :=
  (List.range 16).foldl (fun s w => if mask / 2 ^ w % 2 = 1 then wayBit s fn sl w (v / 2 ^ w % 2 == 1) else s) s

/-- WAY_DISABLE_WRITE. -/
def execWayDisableWrite (sl w : Nat) (s : State) : Host.Outcome State Fault Refusal :=
  .next (if 32 ≤ sl ∨ 16 ≤ w then s else wayBit s 0 sl w true)
/-- WAY_ENABLE_WRITE. -/
def execWayEnableWrite (sl w : Nat) (s : State) : Host.Outcome State Fault Refusal :=
  .next (if 32 ≤ sl ∨ 16 ≤ w then s else wayBit s 0 sl w false)

/-! Regulation (R223, R224, R226, R230). -/

/-- Limit of the sum of guarantees, in GB/s. -/
def guarMax : Nat := 13100

/-- A write to QOS_CLASS: classes 6 and 7 keep their priority and share; a guarantee beyond the limit is refused. -/
def qosBy (s : State) (fn k v mask : Nat) : State :=
  let mask := if 6 ≤ k % 8 then without (without mask (fQosClass_qshare k)) (fQosClass_prio k) else mask
  let f := fQosClass_guar k
  if touches mask f && decide (guarMax < guarSum s k + mergeField s f v mask) then
    let s := auditRefused s fn .qosClass k f.off (s.reg f.off).toNat v (Nat.land mask (fieldBits f))
    setB (regStoreAt s fn f.off v (without mask f)) fQosMissstat_gerr
  else regStoreAt s fn f.off v mask

/-- QOS_CLASS_WRITE: the entry of partition p and class c. -/
def execQosClassWrite (p c : Nat) (v : BitVec 32) (s : State) : Host.Outcome State Fault Refusal :=
  .next (if 16 ≤ p ∨ 8 ≤ c then s else qosBy s 0 (8 * p + c) v.toNat (2 ^ 32 - 1))

/-- QOS_WIN_WRITE: the new length takes effect at a window's end (R226). -/
def execQosWinWrite (us : Nat) (s : State) : Host.Outcome State Fault Refusal :=
  .next (regStoreAt s 0 offQosWin (us % 1024) 1023)

/-- A write to QOS_MISSSTAT: a head that would leave more than 64 records is ignored. -/
def missBy (s : State) (fn v mask : Nat) : State :=
  let h := mergeField s fQosMissstat_head v mask
  if 64 < (rf s fQosMissstat_tail + 128 - h) % 128 then regStoreAt s fn offQosMissstat v (without mask fQosMissstat_head)
  else regStoreAt s fn offQosMissstat v mask

/-- MISS_QUEUE_HEAD_WRITE. -/
def execMissQueueHeadWrite (v : Nat) (s : State) : Host.Outcome State Fault Refusal := .next (missBy s 0 (v % 128) 127)

end Sys2Proof.Machine
end

