-- ==== Sys2Proof/Machine/Trace.lean ====
section
/-! DEFINITION. Trace rings and gaps (R363 to R365). -/
namespace Sys2Proof.Machine

/-- R364: base and size of a cluster's ring and the attributes of its writes: one scratch block, of firmware or of the
cluster's partition. -/
def traceRing (s : State) (cl : Nat) : Option (Nat × Nat × Acc) :=
  let a := rf s (fTrcDest_base cl) * 4096
  let n := 2 ^ (12 + rf s (fTrcDest_lsize cl))
  let cls := rf s (fTrcCtl_class cl)
  if rangeOf a ≠ .scratch ∨ rangeOf (a + n - 1) ≠ .scratch then none
  else if scrBlock a ≠ scrBlock (a + n - 1) then none
  else
    let o := rf s (fSbfScrgrant_owner (scrBlock a))
    if o = 16 then some (a, n, { node := nodeCp, part := 0, key := 63, pasid := 2 ^ 20, cls := cls })
    else
      match partOfCluster s cl with
      | some p => if o = p then some (a, n, { node := cl, part := p, key := rf s (fSecPbind_dkey p), pasid := 2 ^ 20, cls := cls })
                  else none
      | none => none

/-- Trace of a cluster is off, its destination refused. -/
def traceRefuse (s : State) (cl : Nat) : State := hwf (setB s (fTrcStat_derr cl)) (fTrcCtl_en cl) 0

/-- Records written to the ring one after another; those that wait stay. -/
def traceWrite (s : State) (cl a n : Nat) (q : Acc) : List (BitVec 128) → State
  | [] => s.setTraceBuf cl { s.traceBuf cl with recs := [] }
  | r :: rs =>
    match writeBytes s q (a + rf s (fTrcStat_wptr cl) * 16 % n) 16 r.toNat 0 with
    | (s, .ok _ _ _) => traceWrite (incWrap s (fTrcStat_wptr cl) 1) cl a n q rs
    | (s, .wait) => s.setTraceBuf cl { s.traceBuf cl with recs := r :: rs }
    | (s, .err _) => traceRefuse (s.setTraceBuf cl { s.traceBuf cl with recs := [] }) cl

/-- A cluster's buffered records go to its ring; a LOST record follows once there is room. -/
def traceFlush (s : State) (cl : Nat) : State :=
  match traceRing s cl with
  | none => traceRefuse s cl
  | some (a, n, q) =>
    let s := traceWrite s cl a n q (s.traceBuf cl).recs
    let b := s.traceBuf cl
    if 0 < b.lost ∧ b.recs.length < 1024 then
      tracePut (s.setTraceBuf cl { b with lost := 0 }) cl (traceRec s.devtime.toNat 0x12 0 b.lost)
    else s

/-- TRACE_FLUSH: at 512 records, or for a gap. -/
def execTraceFlush (cl : Nat) (s : State) : Host.Outcome State Fault Refusal :=
  .next (if rb s (fTrcCtl_en cl) && (decide (512 ≤ (s.traceBuf cl).recs.length) || (s.traceBuf cl).gated) then
      traceFlush s cl else s)

/-- R365: a cluster stops taking events and writes what it has. -/
def traceGapIn (s : State) (cl : Nat) : State :=
  if rb s (fTrcCtl_en cl) && !(s.traceBuf cl).gated then
    let s := tracePut s cl (traceRec s.devtime.toNat 0x10 0 0)
    let s := setB (s.setTraceBuf cl { s.traceBuf cl with gated := true }) (fTrcCtl_gated cl)
    traceFlush s cl
  else s

/-- R365: events are taken again after a wake. -/
def traceGapOut (s : State) (cl : Nat) : State :=
  if (s.traceBuf cl).gated then
    let s := clrB (s.setTraceBuf cl { s.traceBuf cl with gated := false }) (fTrcCtl_gated cl)
    tracePut s cl (traceRec s.devtime.toNat 0x11 0 0)
  else s

/-- Whether every cluster of a compute domain has had its records acknowledged. -/
def traceQuiet (s : State) (cls : List Nat) : Bool :=
  cls.all fun cl => !(s.traceBuf cl).gated || (s.traceBuf cl).recs.isEmpty

end Sys2Proof.Machine
end

