-- ==== Sys2Proof/Machine/Domains.lean ====
section
/-! DEFINITION. Power domains: requests, entries, wakes (R347, R348, R356, R365). -/
namespace Sys2Proof.Machine

def domState (s : State) (d : Nat) : Nat := rf s (fPwrDomctl_state d)

/-- States that a domain takes (Table 13-1): 0 ON, 1 IDLE, 2 OFF. -/
def domAllows (d st : Nat) : Bool :=
  st == 0 || (st == 1 && decide (d < 88)) || (st == 2 && (decide (d < 64) || decide (88 ≤ d ∧ d < 96)))

/-- Compute domains of a die. -/
def dieDomains (e : Nat) : List Nat := (List.range 16).map fun i => 16 * e + i

/-- Conditions of Table 13-2. -/
def domMay (s : State) (d st : Nat) : Bool :=
  if st = 0 then true
  else if d < 64 then
    (domClusters d).all fun cl =>
      match partOfCluster s cl with
      | none => true
      | some p => st == 1 && stopped s p
  else if d < 72 then (dieDomains ((d - 64) % 4)).all fun c => decide (domState s c ≠ 0 ∧ domState s c ≠ 3)
  else if d < 80 then ((List.range 4).all fun i =>
    (s.slice (4 * (d - 72) + i)).miss.isEmpty && (s.slice (4 * (d - 72) + i)).out.isEmpty && (poolOf s (4 * (d - 72) + i)).held.isEmpty)
  else if d < 88 then ((List.range 32).all fun sl => (s.slice sl).miss.all fun m => decide (farPc (lineAddr m.line) / 64 ≠ d - 80))
  else if d < 96 then
    !rb s (fLnkPcfg_own (d - 88)) &&
      (List.range 64).all fun n => !(rb s (fLnkRoute_valid n) && decide (rf s (fLnkRoute_port n) = d - 88))
  else false

/-- A domain begins to enter IDLE or OFF; a compute domain's clusters end their trace first. -/
def domEnter (s : State) (d st : Nat) : State :=
  let s := (domClusters d).foldl traceGapIn { s with pwr := { s.pwr with gapAt := terase s.pwr.gapAt d } }
  let old := domState s d
  wf { s with pwr := { s.pwr with doms := tset s.pwr.doms d { target := st, waking := false, from' := old } } }
    (fPwrDomctl_state d) 3

/-- R348: a demand on a domain: it is woken, or remembered while the domain is entering a state. A compute domain also
needs its uncore. -/
def domWake (s : State) (d : Nat) : State :=
  match domState s d with
  | 0 => s
  | 3 =>
    match tfind s.pwr.doms d with
    | some x => if x.waking then s else { s with pwr := { s.pwr with doms := tset s.pwr.doms d { x with again := true } } }
    | none => s
  | st =>
    let s := wf { s with pwr := { s.pwr with doms := tset s.pwr.doms d { target := 0, waking := true, from' := st, since := s.devtime.toNat } } }
      (fPwrDomctl_state d) 3
    if d < 64 then s.emit [.domainWake (64 + d / 16)] else s

/-- Table 13-1: a domain's wake latency in ns from the state it leaves; a link's wake is its training. -/
def wakeTime (d st : Nat) : Nat :=
  if d < 64 then (if st = 2 then 30000 else 500)
  else if d < 72 then 2000 else if d < 80 then 500 else if d < 88 then 3000 else 0

/-- Whether a wake's latency is over; that of a compute domain runs from when its uncore serves (Table 13-4). -/
def wakeDue (s : State) (d : Nat) (x : Dom) : Bool :=
  decide (x.since + wakeTime d x.from' ≤ s.devtime.toNat) && (decide (64 ≤ d) || decide (domState s (64 + d / 16) = 0))

/-- Compute domains that waited for their uncore begin their wake. -/
def uncoreServes (s : State) (d : Nat) : State :=
  if 64 ≤ d ∧ d < 68 then
    { s with pwr := { s.pwr with doms := s.pwr.doms.map fun e =>
        (e.1, if e.1 / 16 = d - 64 ∧ e.2.waking then { e.2 with since := s.devtime.toNat } else e.2) } }
  else s

/-- DOMAIN_WAKE. -/
def execDomainWake (d : Nat) (s : State) : Host.Outcome State Fault Refusal := .next (domWake s d)

/-- Sensors of a domain take 8 invalid samples after its wake (R356). The sensors of a compute die lie in its uncore, those
of near-tier dies in the near tier. -/
def skipSensors (s : State) (d : Nat) : State :=
  let ns := if 64 ≤ d ∧ d < 68 then (List.range 64).map fun i => 64 * (d - 64) + i
    else if 68 ≤ d ∧ d < 72 then (List.range 16).map fun i => 304 + 16 * (d - 68) + i
    else []
  { s with pwr := { s.pwr with nodes := ns.foldl (fun t n => tset t n { tget {} t n with skip := 8 }) s.pwr.nodes } }

/-- R307: a domain with engines that is off holds no keys; they are reinstalled before its wake completes. -/
def keysGone (s : State) (d : Nat) : State := { s with pwr := { s.pwr with unkeyed := (d :: s.pwr.unkeyed).eraseDups } }
def keysBack (s : State) (d : Nat) : State :=
  { s with pwr := { s.pwr with unkeyed := s.pwr.unkeyed.filter fun n => decide (n ≠ d) } }

/-- DOMAIN_WAKE_COMPLETE (R348): the domain serves; a compute domain from OFF has been cluster-reset. -/
def execDomainWakeComplete (d : Nat) (s : State) : Host.Outcome State Fault Refusal :=
  .next (match tfind s.pwr.doms d with
    | some x =>
      if !x.waking then s
      else if d < 64 ∧ domState s (64 + d / 16) ≠ 0 then { s with waiting := s.waiting ++ [.domainWakeComplete d] }
      else
        let s := wf { s with pwr := { s.pwr with doms := terase s.pwr.doms d } } (fPwrDomctl_state d) 0
        let s := useDomains (keysBack s d) [d]
        let s := if x.from' = 2 then (domClusters d).foldl clusterReset s else s
        let s := uncoreServes s d
        let s := if (domClusters d).any fun cl => (s.traceBuf cl).gated then
            { s with pwr := { s.pwr with gapAt := tset s.pwr.gapAt d (s.devtime.toNat + 1000) } } else s
        let s := if x.from' = 1 then skipSensors s d else s
        let s := if 88 ≤ d ∧ d < 96 ∧ 2 ≤ rf s fBsePhase_cur then wf s (fLnkPstat_state (d - 88)) 1 else s
        wake s
    | none => s)

/-- DOMAIN_ENTRY_COMPLETE (R347, R348): the state is entered; a link in OFF loses its port's state and keys. A demand that
came meanwhile is served by a wake. -/
def execDomainEntryComplete (d : Nat) (s : State) : Host.Outcome State Fault Refusal :=
  .next (match tfind s.pwr.doms d with
    | some x =>
      if x.waking then s
      else if !traceQuiet s (domClusters d) then
        { s.emit ((domClusters d).map fun cl => .traceFlush cl) with waiting := s.waiting ++ [.domainEntryComplete d] }
      else
        let s := wf { s with pwr := { s.pwr with doms := terase s.pwr.doms d } } (fPwrDomctl_state d) x.target
        let s := if d < 64 ∧ x.target = 2 then keysGone s d else s
        let s := if 88 ≤ d ∧ d < 96 then setLinkPort (wf s (fLnkPstat_state (d - 88)) 0) (d - 88) {} else s
        if x.again then domWake s d else s
    | none => s)

/-- R347: firmware asks for a state, under Table 13-2. -/
def domRequest (s : State) (d st : Nat) : State :=
  if !domAllows d st then s
  else
    match domState s d with
    | 3 => s
    | now =>
      if now = st then s
      else if st = 0 then domWake s d
      else if domMay s d st then domEnter s d st
      else s

/-- A write of PWR_DOMCTL: a requested state that the domain does not allow stores 0. -/
def domctlWrite (s : State) (fn d v mask : Nat) : State :=
  let st := bits v 28 2
  let v := if domAllows d st then v else putBits v 28 2 0
  let s := regStoreAt s fn (offPwrDomctl d) v mask
  if bits mask 28 2 = 0 then s else domRequest s d (bits v 28 2)

/-- DOMAIN_STATE_REQUEST: a write of PWR_DOMCTL.req. -/
def execDomainStateRequest (d st : Nat) (s : State) : Host.Outcome State Fault Refusal :=
  .next (if 100 ≤ d then s else domctlWrite s 0 d (st % 4 * 2 ^ 28) (3 * 2 ^ 28))

/-- DOMAIN_AUTO_IDLE (R347): idle µs without demand, and the condition holds. -/
def execDomainAutoIdle (d : Nat) (s : State) : Host.Outcome State Fault Refusal :=
  .next (if rb s (fPwrDomctl_auto d) && domAllows d 1 && domMay s d 1 && decide (domState s d = 0) &&
      decide (tget 0 s.pwr.used d + rf s (fPwrDomctl_idle d) * 1000 ≤ s.devtime.toNat) then domEnter s d 1
    else s)

end Sys2Proof.Machine
end

