-- ==== Sys2Proof/Machine/Power.lean ====
section
/-! DEFINITION. Power: measurement, the cap, the floor's inputs, trips, power failure, path monitors and the Cave (R342 to R344,
R351 to R353, R358, R360 to R362, R397). Power is in mW. -/
namespace Sys2Proof.Machine

/-- Partitions with a RUN_STEPS in progress. -/
def running (s : State) : List Nat := (List.range 16).filter fun p => !stopped s p

/-- Every RUN_STEPS ends ABORTED at once, and its queue halts. -/
def endAllRuns (s : State) : State := (running s).foldl (fun s p => endRun s p .aborted) s

/-- Domains of a range that are ON go to IDLE. -/
def idleDomains (s : State) (ds : List Nat) : State :=
  ds.foldl (fun s d => if domState s d = 0 then domEnter s d 1 else s) s

/-- R358, R359: the device trips. -/
def tripDevice (s : State) : State :=
  if s.pwr.tripped then s
  else
    let s := endAllRuns (setB { s with pwr := { s.pwr with tripped := true } } fThmCfg_alert)
    irq (idleDomains s (List.range 64)) 0 66

/-! Measurement (R352, R353). -/

/-- The partition whose start is under measurement and most recent. -/
def lastStart (s : State) : Option Nat :=
  (s.pwr.starts.foldl (fun (b : Option (Nat × Nat)) e =>
    match b with
    | none => some (e.1, e.2.1)
    | some x => if x.2 < e.2.1 then some (e.1, e.2.1) else b) none).map (·.1)

/-- R353: a start's measured increase becomes the prediction once 1 ms has passed. -/
def settleStarts (s : State) : State :=
  s.pwr.starts.foldl (fun s e =>
    if e.2.1 + 10 ^ 6 ≤ s.devtime.toNat then
      { s with pwr := { s.pwr with starts := terase s.pwr.starts e.1
                                   pests := tset s.pwr.pests (4 * e.1 + rf s (fPwrPclk_cur e.1)) (s.pwr.load - e.2.2) } }
    else s) s

/-- POWER_MEASURE: domain powers and losses of a 10 µs interval, in mW, ballast included, with the power of each partition as
firmware reckons it. -/
def execPowerMeasure (doms : List Nat) (losses : Nat) (parts : List Nat) (s : State) : Host.Outcome State Fault Refusal :=
  let total := doms.foldl (· + ·) 0 + losses
  let ballast := min 800000 (s.pwr.floor - s.pwr.load)
  let load := total - ballast
  let before := s.pwr.hist.headD total
  let hist := (total :: s.pwr.hist).take 100
  let above := if 1575000 < total then s.pwr.above + 1 else 0
  let s := (List.range 100).foldl (fun s d => wf s (fPwrDomctl_pwr d) (min 65535 (((doms[d]?).getD 0) / 100))) s
  let s := { s with pwr := { s.pwr with hist := hist, above := above, load := load, floor := max s.pwr.floor load
                                        partW := (List.range 16).map fun p => (p, (parts[p]?).getD 0) } }
  let s := wf s fPwrCap_pkg (min 4095 (hist.foldl (· + ·) 0 / hist.length / 1000))
  let s := if before + 200000 < total then
      let s := irq (setB s fPwrCap_stepov) 0 66
      match lastStart s with
      | some p => { s with pwr := { s.pwr with pests := tset s.pwr.pests (4 * p + rf s (fPwrPclk_cur p)) (total - before) } }
      | none => s
    else s
  let s := settleStarts s
  .next (if 10 ≤ above then tripDevice (setB s fPwrCap_trip) else s)

/-- R352: the running partition whose cap limit falls next: lowest prio, then highest number, above 1.2 GHz. -/
def capVictim (s : State) : Option Nat :=
  ((running s).filter fun p => decide (rf s (fPwrPclk_cur p) < 3 ∧ (s.part p).capLim < 3)).foldl
    (fun (b : Option Nat) p =>
      match b with
      | none => some p
      | some q => if rf s (fPwrPclk_prio p) ≤ rf s (fPwrPclk_prio q) then some p else b) none

def setCapLim (s : State) (p v : Nat) : State := showLimits (s.setPart p { s.part p with capLim := v }) p

/-- POWER_CAP_CHECK: every 100 µs. -/
def execPowerCapCheck (s : State) : Host.Outcome State Fault Refusal :=
  let n := s.pwr.hist.length
  let avg := if n = 0 then 0 else s.pwr.hist.foldl (· + ·) 0 / n
  let now := s.devtime.toNat
  let lim := capLimitMw s
  .next (if lim < avg then
      let s := { s with pwr := { s.pwr with lowAt := none } }
      if s.pwr.cuts.isEmpty || decide (s.pwr.cutAt + 10 ^ 6 ≤ now) then
        match capVictim s with
        | some p =>
          setCapLim { s with pwr := { s.pwr with cuts := p :: s.pwr.cuts, cutAt := now } } p ((s.part p).capLim + 1)
        | none => s
      else s
    else if avg + 50000 ≤ lim then
      match s.pwr.lowAt with
      | none => { s with pwr := { s.pwr with lowAt := some now } }
      | some t =>
        if now < t + 10 ^ 7 then s
        else
          match s.pwr.cuts with
          | [] => s
          | p :: r =>
            setCapLim { s with pwr := { s.pwr with cuts := r, lowAt := some now } } p ((s.part p).capLim - 1)
    else { s with pwr := { s.pwr with lowAt := none } })

/-! The Cave (R342 to R344). -/

/-- PATH_MONITOR_SAMPLE: the smallest slack of each domain's eight monitors, in ps. -/
def execPathMonitorSample (slacks : List Nat) (s : State) : Host.Outcome State Fault Refusal :=
  .next ((List.range 100).foldl (fun s d =>
    match slacks[d]? with
    | some x => if x < rf s (fMrgDom_smin d) then wf s (fMrgDom_smin d) x else s
    | none => s) s)

/-- What the ledger holds of a domain's settings and of the operating seconds (Tables 12-15, 12-16). -/
def caveKeep (s : State) (d : Nat) : State :=
  let c := s.pwr.cave
  { s with pwr := { s.pwr with cave := { c with kept := tset c.kept d (s.reg (offMrgDom d)).toNat
                                                opsec := rf s fMrgStat_opsec } } }

/-- R343: one domain re-planned in service, with the slack the new plan leaves; its day goes into the ledger. -/
def replanDomain (s : State) (d slack : Nat) : State :=
  let smin := rf s (fMrgDom_smin d)
  let c := s.pwr.cave
  let s := if smin < 30 then
      let s := errNote s .margin .ok unitCp 0 d smin none
      wf s (fMrgDom_g d) (min 255 (rf s (fMrgDom_g d) + 5 * ((30 - smin + 9) / 10)))
    else s
  let quiet := decide (tget 0 c.lastEv d + 604800 ≤ rf s fMrgStat_opsec)
  let s := if quiet then wf s (fMrgDom_eraise d) 0 else s
  let s := fmaxLower s d
  let s := wf (wf s (fMrgDom_splan d) slack) (fMrgDom_smin d) 0xFFFF
  let s := slewPlan s d
  let rec' : Ledger := { day := rf s fMrgStat_opsec / 86400, smin := smin, splan := slack, g := rf s (fMrgDom_g d)
                         eraise := rf s (fMrgDom_eraise d), events := tget 0 c.events d, temp := tget 0 c.temps d
                         hot := tget 0 c.hot d / 6000000 }
  let l := tget [] c.ledger d ++ [rec']
  let s := caveKeep s d
  let c := s.pwr.cave
  { s with pwr := { s.pwr with cave := { c with ledger := tset c.ledger d (l.drop (l.length - 3650))
                                                events := terase c.events d, temps := terase c.temps d
                                                hot := terase c.hot d } } }

/-- CAVE_REPLAN: daily, or as asked. -/
def execCaveReplan (slacks : List Nat) (s : State) : Host.Outcome State Fault Refusal :=
  let day := rf s fMrgStat_opsec / 86400
  .next (if rb s fMrgStat_busy || decide (s.pwr.cave.day < day) then
      let s := (List.range 100).foldl (fun s d => replanDomain s d ((slacks[d]?).getD 0)) s
      let s := { s with pwr := { s.pwr with cave := { s.pwr.cave with day := day } } }
      clrB (clrB s fMrgStat_busy) fMrgStat_replan
    else s)

/-- A write of 1 to MRG_STAT.replan. -/
def replanGo (s : State) : State := if rb s fMrgStat_busy then s else wf (setB s fMrgStat_busy) fMrgStat_replan 1

/-- CAVE_REPLAN_REQUEST: a write of 1 to MRG_STAT.replan. -/
def execCaveReplanRequest (s : State) : Host.Outcome State Fault Refusal :=
  .next (replanGo (if rb s fMrgStat_busy then s else regStoreAt s 0 offMrgStat (2 ^ fMrgStat_replan.lo) (2 ^ fMrgStat_replan.lo)))

/-! Power failure (R360 to R362, R397). -/

/-- The Cave writes the records of the day so far (Table 13-7). -/
def caveSave (s : State) : State :=
  (List.range 100).foldl (fun s d =>
    let c := s.pwr.cave
    let r : Ledger := { day := rf s fMrgStat_opsec / 86400, smin := rf s (fMrgDom_smin d), splan := rf s (fMrgDom_splan d)
                        g := rf s (fMrgDom_g d), eraise := rf s (fMrgDom_eraise d), events := tget 0 c.events d
                        temp := tget 0 c.temps d, hot := tget 0 c.hot d / 6000000 }
    let l := tget [] c.ledger d ++ [r]
    caveKeep { s with pwr := { s.pwr with cave := { c with ledger := tset c.ledger d (l.drop (l.length - 3650)) } } } d) s

/-- R361, R404: the device acts on failing power and stays failed; the relay is a pin of the SERVICE phase. -/
def powerFail (s : State) : State :=
  if powerFailed s then s
  else
    let s := wf (wf s fPwrPfstat_state 1) fPwrPfstat_relay (bit (decide (rf s fBsePhase_cur = 3)))
    let s := irq { s with pwr := { s.pwr with floor := 0 } } 0 66
    let s := endAllRuns s
    let s := idleDomains s (List.range 64 ++ (List.range 16).map (72 + ·))
    let s := (List.range 8).foldl (fun s p =>
      setLinkPort (wf s (fLnkPstat_state p) 0) p {}) s
    caveSave (sealPartial s)

/-- PFAIL_DECIDE (R360): both inputs asserted, or a difference of 1,000 samples. -/
def execPfailDecide (a b : Bool) (s : State) : Host.Outcome State Fault Refusal :=
  let s := wf (wf s fPwrPfstat_a (bit a)) fPwrPfstat_b (bit b)
  .next (if a || b then powerFail s else s)

/-- PFAIL_DISCREPANCY_END (R360): a shorter difference has ended with both inputs deasserted. -/
def execPfailDiscrepancyEnd (s : State) : Host.Outcome State Fault Refusal :=
  .next (incSat (clrB (clrB s fPwrPfstat_a) fPwrPfstat_b) fPwrPfstat_disc 1)

/-- RELAY_SEEN (R362). The device that has failed drives its own relay and does not act on it. -/
def execRelaySeen (s : State) : Host.Outcome State Fault Refusal :=
  .next (if powerFailed s ∨ rf s fBsePhase_cur ≠ 3 then s
    else
      let s := setB s fPwrPfstat_relay
      let s := (List.range 16).foldl (fun s p => abortAndTell s p) s
      wf (sealPartial s) fPwrPfstat_state 2)

/-- REFCLK_LOSS (R397): REFCLK absent for 1 µs is power failing. The kind of its record is not the manual's (log entry
37). -/
def execRefclkLoss (s : State) : Host.Outcome State Fault Refusal :=
  .next (powerFail (errNote (setB s fBsePinstat_refloss) .fault .timeout unitCp 0 0 0 none))

end Sys2Proof.Machine
end

