-- ==== Sys2Proof/Machine/Thermal.lean ====
section
/-! DEFINITION. The thermal model, sensors, limits and actions, and telemetry (R354 to R359, R366, R402). Temperatures are in
1/128 °C. -/
namespace Sys2Proof.Machine

def thmNode (s : State) (n : Nat) : Node := tget {} s.pwr.nodes n
def setThmNode (s : State) (n : Nat) (x : Node) : State := { s with pwr := { s.pwr with nodes := tset s.pwr.nodes n x } }
def nodeEst (s : State) (n : Nat) : Int := sint 16 (rf s (fThmNode_est n))
def nodeValid (s : State) (n : Nat) : Bool := rb s (fThmNode_valid n)

/-- Limit, throttle and critical values of a node (Table 13-5). -/
def nodeLimit (s : State) (n : Nat) : Int :=
  128 * (if n < 256 then (rf s fThmCfg_ctgt : Int) else if n < 304 then (rf s fThmCfg_btgt : Int)
         else if n < 368 then 95 else (rf s (fHbcThrcfg_hot (n - 368)) : Int))
def nodeThrottle (s : State) (n : Nat) : Int :=
  if 304 ≤ n ∧ n < 368 then 128 * (rf s fThmCfg_ntgt : Int) else nodeLimit s n
def nodeCritical (s : State) (n : Nat) : Int :=
  128 * (if n < 256 then (110 : Int) else if n < 304 then 105 else if n < 368 then 100
         else (rf s (fHbcThrcfg_crit (n - 368)) : Int) + 5)

/-- The compute die a node belongs to, or lies under or over; none for a stack. -/
def nodeDie (n : Nat) : Option Nat :=
  if n < 256 then some (n / 64) else if n < 304 then some ((n - 256) / 12) else if n < 368 then some ((n - 304) / 16) else none

/-- Partitions with a cluster on a die. -/
def partsOnDie (s : State) (e : Nat) : List Nat :=
  (List.range 16).filter fun p => (clustersOf s p).any fun cl => decide (dieOf cl = e)

/-- Partitions that a node's throttling acts on (R358). -/
def nodeParts (s : State) (n : Nat) : List Nat :=
  if n < 256 then
    (List.range 16).filter fun p => [128 * (n / 64) + 2 * (n % 64), 128 * (n / 64) + 2 * (n % 64) + 1].any fun cl =>
      decide (partOfCluster s cl = some p)
  else match nodeDie n with
    | some e => partsOnDie s e
    | none => []

/-- The near-tier states of R157 follow the node. -/
def nodeNear (s : State) (n : Nat) : State :=
  if 304 ≤ n ∧ n < 368 then
    nearNodeEstimate s (n - 304) (if nodeValid s n || (thmNode s n).alone then some (nodeEst s n) else none)
  else s

/-! Sensors (R355 to R357). -/

/-- Unit number under which a node's sensor is listed: the node number, kind 0x9 (log entry 38). -/
def sensorUnit (n : Nat) : Nat := n

/-- R357: a sensor is broken. -/
def sensorBreak (s : State) (n : Nat) : State :=
  let e := max (nodeEst s n) (nodeLimit s n)
  let s := setThmNode s n { thmNode s n with last := none }
  let s := wf (setB s (fThmNode_brk n)) (fThmNode_est n) (BitVec.ofInt 16 e).toNat
  nodeNear (repair s (sensorUnit n) 9 0 n) n

/-- SENSOR_SAMPLE (R355 to R357): a sample of a node's sensor, and whether its self-check passed. -/
def execSensorSample (n : Nat) (t : Int) (ok : Bool) (s : State) : Host.Outcome State Fault Refusal :=
  let x := thmNode s n
  .next (if 368 ≤ n ∨ x.alone ∨ rb s (fThmNode_brk n) then s
    else if 0 < x.skip then setThmNode s n { x with skip := x.skip - 1, last := none }
    else if ok = false ∨ t < -40 * 128 ∨ 150 * 128 < t then sensorBreak s n
    else if !nodeValid s n then
      let s := setThmNode s n { x with offset := t - x.net, last := some t, far := 0 }
      nodeNear (setB (wf s (fThmNode_est n) (BitVec.ofInt 16 t).toNat) (fThmNode_valid n)) n
    else
      let e := nodeEst s n
      let far := if 20 * 128 < (t - e).natAbs then x.far + 1 else 0
      let s := setThmNode s n { x with offset := x.offset + (t - e) / 4, last := some t, far := far }
      if 8 ≤ far then sensorBreak s n
      else nodeNear (wf s (fThmNode_est n) (BitVec.ofInt 16 (x.net + x.offset + (t - e) / 4)).toNat) n)

/-! The model's tick (R354, R358). -/

/-- One node advances: its estimate, its rate over the last 1 ms, throttling and ramp limiting. -/
def nodeTick (s : State) (n : Nat) (v : Int) : State :=
  let x := thmNode s n
  let e0 := nodeEst s n
  let e := if 368 ≤ n then e0
    else if x.alone then v + 5 * 128
    else if rb s (fThmNode_brk n) then max e0 (nodeLimit s n)
    else if !nodeValid s n || decide (0 < x.skip) then e0
    else v + x.offset
  let old := (x.hist[99]?).getD e
  let rise := e - old
  let rate := rise * 100 / 128
  let thr := nodeThrottle s n
  let calm := if rise ≤ 128 then x.calm + 1 else 0
  let ramp := if 256 < rise then true else if 100 ≤ calm then false else x.ramp
  let hot := decide (thr ≤ e)
  let act := if nodeCritical s n ≤ e then 3 else if hot then 1 else if ramp then 2 else 0
  let changed := decide (hot ≠ x.hot ∨ ramp ≠ x.ramp)
  let s := setThmNode s n { x with net := v, hist := (e :: x.hist).take 101, calm := calm, ramp := ramp, hot := hot
                                   low := if e + 3 * 128 ≤ thr then x.low + 1 else 0 }
  let r12 : Int := if rate < -2048 then -2048 else if 2047 < rate then 2047 else rate
  let s := wf (wf (wf s (fThmNode_est n) (BitVec.ofInt 16 e).toNat) (fThmNode_rate n) (BitVec.ofInt 12 r12).toNat)
    (fThmNode_act n) act
  let s := if changed then irq s 0 66 else s
  nodeNear s n

/-- R358: the thermal limit of a partition after a tick: down a step while a node throttles it or a die rises faster than 4 °C per
ms, up a step once all its nodes have been 3 °C below throttle for 1 ms; no second fall, and no rise after either, within 1 ms.
thmAt holds the DEVTIME of a partition's last fall, and at 16 + partition that of its last rise. -/
def partThermal (s : State) (p : Nat) : State :=
  let ns := (List.range 368).filter fun n => (nodeParts s n).contains p
  let dies := ((clustersOf s p).map dieOf).eraseDups
  let dn := (List.range 368).filter fun n => match nodeDie n with | some e => dies.contains e | none => false
  let ramp := dn.any fun n => (thmNode s n).ramp
  let steep := dn.any fun n =>
    match (thmNode s n).hist[0]?, (thmNode s n).hist[100]? with
    | some e, some old => decide (512 < e - old)
    | _, _ => false
  let hot := ns.any fun n => (thmNode s n).hot
  let cool := ns.all fun n => decide (100 ≤ (thmNode s n).low)
  let s := wf s (fPwrPclk_ramp p) (bit ramp)
  let x := s.part p
  let now := s.devtime.toNat
  let free (k : Nat) : Bool := match tfind s.pwr.thmAt k with | some t => decide (t + 10 ^ 6 ≤ now) | none => true
  let set (k v : Nat) : State :=
    let s := { s with pwr := { s.pwr with thmAt := tset s.pwr.thmAt k now } }
    showLimits (s.setPart p { x with thmLim := v }) p
  if (hot || steep) && free p && decide (x.thmLim < 3) then set p (x.thmLim + 1)
  else if !hot && !steep && cool && free p && free (16 + p) && decide (0 < x.thmLim) then set (16 + p) (x.thmLim - 1)
  else s

/-- Nodes of a power domain, for the Cave (R342). -/
def domNodes (d : Nat) : List Nat :=
  if d < 64 then ((domClusters d).map fun cl => 64 * dieOf cl + cl % 128 / 2).eraseDups
  else if 68 ≤ d ∧ d < 72 then (List.range 16).map fun i => 304 + 16 * (d - 68) + i
  else if 80 ≤ d ∧ d < 88 then [368 + (d - 80)]
  else []

/-- Highest estimates and time above 85 °C of the day by domain. -/
def caveHeat (s : State) : State :=
  (List.range 100).foldl (fun s d =>
    match (domNodes d).map (nodeEst s) with
    | [] => s
    | e :: r =>
      let m := r.foldl max e
      let c := s.pwr.cave
      let top := match tfind c.temps d with | some t => max t m | none => m
      { s with pwr := { s.pwr with cave := { c with temps := tset c.temps d top
                                                    hot := if 85 * 128 < m then tset c.hot d (tget 0 c.hot d + 1) else c.hot } } }) s

/-- THERMAL_MODEL_TICK: the network's values after a 10 µs interval, whose coefficients are in flash. -/
def execThermalModelTick (net : List Int) (s : State) : Host.Outcome State Fault Refusal :=
  let s := (List.range 376).foldl (fun s n => nodeTick s n ((net[n]?).getD 0)) s
  let s := caveHeat s
  let s := (List.range 16).foldl partThermal s
  let s := if (List.range 376).any fun n => rf s (fThmNode_act n) = 3 then tripDevice s
    else if s.pwr.tripped && (List.range 376).all fun n => !(thmNode s n).hot then
      irq { s with pwr := { s.pwr with tripped := false } } 0 66
    else s
  .next (wf s fThmCfg_alert (bit (s.pwr.tripped || (List.range 376).any fun n => (thmNode s n).hot)))

/-! Telemetry (R366, R402). -/

/-- Entries of a selector (Table 13-9), each with its length. -/
def telemetryEntries (s : State) (sel : Nat) (only : Option Nat) : List (List Byte) :=
  match sel with
  | 0 => (List.range 100).map fun d => bytesOf 8 (regWord s (offPwrDomctl d))
  | 1 => (List.range 376).map fun n => bytesOf 4 (regWord s (offThmNode n))
  | 2 => (List.range 368).map fun n =>
      bytesOf 2 (match (thmNode s n).last with
        | some t => if rb s (fThmNode_brk n) then 0x8000 else (BitVec.ofInt 16 t).toNat
        | none => 0x8000)
  | 3 => (match only with | some p => [p] | none => List.range 16).map fun p =>
      bytesOf 4 (regWord s (offPwrPclk p)) ++ bytesOf 4 (tget 0 s.pwr.partW p / 1000)
  | 4 => [bytesOf 8 (regWord s offPwrCap) ++ bytesOf 4 (regWord s offPwrPfstat) ++
      bytesOf 4 (match s.inlet with | some t => (BitVec.ofInt 32 t).toNat | none => 0x8000)]
  | _ => (List.range 8).map fun h => bytesOf 4 (regWord s (offHbcStat h))

/-- The header and entries of a selector. -/
def telemetryBlock (s : State) (sel : Nat) (only : Option Nat) : List Byte :=
  let es := telemetryEntries s sel only
  bytesOf 8 s.devtime.toNat ++ [BitVec.ofNat 8 sel, 0] ++ bytesOf 2 es.length ++ [0, 0, 0, 0] ++ es.flatMap id

/-- TELEMETRY_STREAM (R402): selectors 0 and 1, each with its check, while the pins are in SERVICE. -/
def execTelemetryStream (s : State) : Host.Outcome State Fault Refusal :=
  let blk (sel : Nat) : List Byte :=
    let b := telemetryBlock s sel none
    let c := crc16 b
    b ++ [BitVec.ofNat 8 (c / 256), BitVec.ofNat 8 c]
  .next (if rf s fBsePhase_cur = 3 then { s with pwr := { s.pwr with stream := blk 0 ++ blk 1 } } else s)

end Sys2Proof.Machine
end

