-- ==== Sys2Proof/Machine/Units.lean ====
section
/-! DEFINITION. RESET_UNIT and its completion, field tests, READ_TELEMETRY, quarantine, clock requests and vertical ports (R325 to
R329, R337, R340, R366, R387 to R389). -/
namespace Sys2Proof.Machine

/-! READ_TELEMETRY (R366). -/

/-- Bytes written from an address, line by line: the first refusal, if any. -/
def writeRange (s : State) (q : Acc) : List (Nat × Nat) → List Byte → State × Option Got
  | [], _ => (s, none)
  | (a, n) :: r, bs =>
    match writeBytes s q a n (natOf (bs.take n)) 0 with
    | (s, .ok _ _ _) => writeRange s q r (bs.drop n)
    | (s, g) => (s, some g)

/-- READ_TELEMETRY. -/
def execReadTelemetry (q seq : Nat) (s : State) : Host.Outcome State Fault Refusal :=
  .next (onEntry s q seq fun s x =>
    let sel := pk x 8 1
    let fn := qFn s q
    if fn ≠ 0 ∧ sel ≠ 3 then finish s q seq .accessViolation 0 0
    else
      let b := (telemetryBlock s sel (if fn = 0 then none else some (qPart s q))).take (pk x 32 4)
      match writeRange s (cpAcc s q x) (piecesFrom (pkAddr x 24) b.length) b with
      | (s, none) => done s q seq 0 b.length
      | (s, some (.err st)) => finish s q seq st 0 0
      | (s, some _) => waitFor s (.readTelemetry q seq))

/-! RESET_UNIT (R387 to R389). -/

/-- The audit entry of a RESET_UNIT that takes effect. -/
def auditReset (s : State) (q : Nat) (x : BitVec 512) (part : Nat) : State :=
  auditCmd s q 0x29 (pk x 8 1) part 0 (pk x 12 4)

/-- A reset begins: from here on it cannot be aborted (R389). -/
def resetBegin (s : State) (q seq kind idx : Nat) (x : BitVec 512) (part : Nat) : State :=
  let s := auditReset (setPast (setBegun s q seq) q seq) q x part
  { s with rjobs := s.rjobs ++ [{ kind := kind, idx := idx, q := q, seq := seq, start := s.devtime.toNat }] }

/-- R389: a reset of a unit in a compute domain that is OFF wakes it, and the wake's reset counts. -/
def offJob (s : State) (q seq kind idx d : Nat) (x : BitVec 512) (part : Nat) : State :=
  let s := resetBegin s q seq kind idx x part
  ({ s with rjobs := s.rjobs.map fun (j : RJob) => if j.q = q ∧ j.seq = seq then { j with absorbed := true } else j }).emit [.domainWake d]

/-- RESET_UNIT of a core. -/
def execResetUnitCore (q seq : Nat) (s : State) : Host.Outcome State Fault Refusal :=
  .next (onEntry s q seq fun s x =>
    let c := pk x 12 4
    let cl := clusterOfCore c
    let part := (partOfCluster s cl).getD 0xFF
    if !clusterStopped s cl then finish s q seq .busy 0 0
    else if domState s (domainOf cl) = 2 then offJob s q seq 0 c (domainOf cl) x part
    else
      let s := resetBegin s q seq 0 c x part
      (s.setCore c { s.core c with qload := none, resetting := true }).emit [.unitResetComplete 0 c])

/-- Descriptors of a cluster that have not started are dropped, with no flag. -/
def dropQueued (s : State) (cl : Nat) : State := s.setDma cl { s.dma cl with queue := [] }

/-- RESET_UNIT of a cluster. -/
def execResetUnitCluster (q seq : Nat) (s : State) : Host.Outcome State Fault Refusal :=
  .next (onEntry s q seq fun s x =>
    let cl := pk x 12 4
    let part := (partOfCluster s cl).getD 0xFF
    if !clusterStopped s cl then finish s q seq .busy 0 0
    else if domState s (domainOf cl) = 2 then offJob s q seq 1 cl (domainOf cl) x part
    else (dropQueued (resetBegin s q seq 1 cl x part) cl).emit [.unitResetComplete 1 cl])

/-- RESET_UNIT of a partition: an owner ends first, a cascade partition is aborted on every device, its RUN_STEPS ends at
once. -/
def execResetUnitPartition (q seq : Nat) (s : State) : Host.Outcome State Fault Refusal :=
  .next (onEntry s q seq fun s x =>
    let p := pk x 12 4
    let s := setPast (setBegun s q seq) q seq
    let s := if confidential s p then ownerEnd s p (some (q, seq)) 3 else s
    let s := if isCascade s p then floodMark (if stopped s p then s else stepAbort s p) (.abort p) else s
    let s := endRun s p .aborted
    let s := resetBegin s q seq 2 p x p
    ((clustersOf s p).foldl dropQueued s).emit [.unitResetComplete 2 p])

/-- RESET_UNIT of a copy engine: its command ends ABORTED at once. -/
def execResetUnitCopyEngine (q seq : Nat) (s : State) : Host.Outcome State Fault Refusal :=
  .next (onEntry s q seq fun s x =>
    let e := pk x 12 4
    let g := s.engine e
    let s := resetBegin s q seq 3 e x 0xFF
    let s := if g.busy then finish s g.q g.seq .aborted g.tile g.bytes else s
    let s := { s with ftests := s.ftests.filter fun f => !(decide (f.kind = 2) && decide (f.idx = e)) }
    (s.setEngine e { out := g.out }).emit [.unitResetComplete 3 e])

/-- RESET_UNIT of a base-fabric segment of four slices. -/
def execResetUnitFabricSegment (q seq : Nat) (s : State) : Host.Outcome State Fault Refusal :=
  .next (onEntry s q seq fun s x =>
    (resetBegin s q seq 4 (pk x 12 4) x 0xFF).emit [.unitResetComplete 4 (pk x 12 4)])

/-- RESET_UNIT of a link port: it goes down, the peer is told, and it retrains at once. -/
def execResetUnitLinkPort (q seq : Nat) (s : State) : Host.Outcome State Fault Refusal :=
  .next (onEntry s q seq fun s x =>
    let p := pk x 12 4
    let bad := match portOwner s p with | some o => confidential s o && !stopped s o | none => false
    if bad then finish s q seq .accessViolation 0 0
    else
      let s := resetBegin s q seq 5 p x ((portOwner s p).getD 0xFF)
      let cause := rf s (fLnkPstat_cause p)
      let s := if portUp s p then wf (portDown s p 0) (fLnkPstat_cause p) cause else s
      wf s (fLnkPstat_state p) 4)

/-- The entries of a unit's resets end, and what waited for the unit goes on. -/
def resetEnd (s : State) (kind idx : Nat) : State :=
  let mine := s.rjobs.filter fun j => decide (j.kind = kind ∧ j.idx = idx)
  let s := { s with rjobs := s.rjobs.filter fun j => !(decide (j.kind = kind) && decide (j.idx = idx)) }
  wake (mine.foldl (fun s j => finish s j.q j.seq .ok 0 0) s)

/-- The slice logic of four slices as a reset leaves it (R218, R388): uncached, tags unknown, scratch kept. -/
def segmentClear (s : State) (i : Nat) : State :=
  ((List.range 4).map (4 * i + ·)).foldl (fun s sl =>
    let x := s.slice sl
    let s := s.setSlice sl { locked := x.locked, next := x.next, scrubAt := x.scrubAt, ready := x.ready }
    clrB (clrB s (fSbfCtl_en sl)) (fSbfCtl_clean sl)) s

/-- UNIT_RESET_COMPLETE: once what Table 14-8 drains has ended, the unit is cleared and leaves reset. -/
def execUnitResetComplete (kind idx : Nat) (s : State) : Host.Outcome State Fault Refusal :=
  let again (s : State) : State := waitFor s (.unitResetComplete kind idx)
  .next (match s.rjobs.find? fun j => decide (j.kind = kind ∧ j.idx = idx) with
    | none => s
    | some j =>
      match kind with
      | 0 =>
        let cl := clusterOfCore idx
        if j.absorbed then (if domState s (domainOf cl) = 0 then resetEnd s 0 idx else again s)
        else if (s.dma cl).active.any (fun d => decide (d.core = idx)) || (s.dma cl).queue.any (fun d => decide (d.core = idx)) then
          again s
        else resetEnd (coreReset (s.setCore idx { s.core idx with qload := none }) idx) 0 idx
      | 1 =>
        if j.absorbed then (if domState s (domainOf idx) = 0 then resetEnd s 1 idx else again s)
        else if !(s.dma idx).active.isEmpty then again s
        else resetEnd (clusterResetKeep s idx) 1 idx
      | 2 =>
        let cls := clustersOf s idx
        let off := (cls.map domainOf).eraseDups.filter fun d => decide (domState s d ≠ 0)
        if !off.isEmpty then (again s).emit (off.map fun d => .domainWake d)
        else if cls.any fun cl => !(s.dma cl).active.isEmpty then again s
        else resetEnd (partitionRegs (cls.foldl clusterResetKeep s) idx) 2 idx
      | 3 => resetEnd s 3 idx
      | 4 =>
        let sls := (List.range 4).map (4 * idx + ·)
        if j.absorbed then resetEnd (segmentClear s idx) 4 idx
        else if sls.any fun sl => !(s.slice sl).miss.isEmpty || !(s.slice sl).out.isEmpty then again s
        else
          let (s, left) := walkSlices s { op := 2, scope := 0 } sls
          if left.isEmpty then resetEnd (segmentClear s idx) 4 idx else again s
      | _ => if rf s (fLnkPstat_state idx) = 2 ∨ rf s (fLnkPstat_state idx) = 3 then resetEnd s 5 idx else again s)

/-- A dirty line whose newer data is lost is stored poisoned (R388). -/
def poisonBack (s : State) (ln : CLine) : State × Bool :=
  if !ln.dirty then (s, true)
  else
    match writeBack s [] { ln with psn := true } with
    | (s, .wait) => (s, false)
    | (s, _) => (s, true)

/-- SEGMENT_DRAIN_TIMEOUT (R388): a drain of more than 10 ms is absorbed: requests that wait end TIMEOUT, dirty lines are stored
poisoned. Where that has not ended in another 10 ms, the far tier is unavailable until a device reset. -/
def execSegmentDrainTimeout (idx : Nat) (s : State) : Host.Outcome State Fault Refusal :=
  .next (match s.rjobs.find? fun j => decide (j.kind = 4 ∧ j.idx = idx) with
    | none => s
    | some j =>
      if s.devtime.toNat < j.start + 10 ^ 7 then s
      else
        let sls := (List.range 4).map (4 * idx + ·)
        let s := sls.foldl (fun s sl =>
          let ms := (s.slice sl).miss
          let s := s.setSlice sl { s.slice sl with miss := [] }
          ms.foldl (fun s m => m.waiters.foldl (fun s w =>
            answerWaiter s sl w m.line (.err .timeout)) s) s) s
        let (s, ok) := sls.foldl (fun (r : State × Bool) sl =>
          (r.1.slice sl).lines.foldl (fun r ln => let (s, b) := poisonBack r.1 ln; (s, r.2 && b)) r) (s, true)
        if ok || j.absorbed then
          let s := if ok then s else (List.range 8).foldl (fun s h => clrB s (fHbcStat_avail h)) s
          resetEnd (segmentClear s idx) 4 idx
        else
          { s with rjobs := s.rjobs.map fun (y : RJob) => if y = j then { y with absorbed := true, start := s.devtime.toNat } else y })

/-! Field tests (R326 to R329). -/

/-- Lengths of the blocks of a test, in core cycles, in order (Table 12-3). -/
def testBlocks (code : Nat) : List Nat :=
  let array := List.replicate 8 2048
  let vector := List.replicate 4 1024
  match code with
  | 0 => array ++ array ++ vector ++ [512]
  | 1 | 2 => array
  | 3 => vector
  | 4 => [512]
  | 0x10 => List.replicate 64 8192
  | 0x11 => List.replicate 3 4096
  | 0x12 => [4096]
  | _ => [65536]

def testUnit (kind idx : Nat) : Nat := if kind = 0 then unitCore idx else if kind = 1 then unitCluster idx else unitEngine idx

/-- SELF_TEST. -/
def execSelfTest (q seq : Nat) (s : State) : Host.Outcome State Fault Refusal :=
  .next (onEntry s q seq fun s x =>
    let kind := pk x 8 1
    let idx := pk x 10 2
    let code := pk x 12 2
    let go (s : State) : State :=
      let s := setBegun s q seq
      let s := if kind = 2 then s.setEngine idx { s.engine idx with testing := true } else s
      { s with ftests := s.ftests ++ [{ kind := kind, idx := idx, code := code, entry := some (q, seq), start := s.devtime.toNat }] }
    if kind = 0 ∧ coreUsable s idx = false then finish s q seq .invalid 0 0
    else if kind = 1 ∧ clusterStopped s idx = false then finish s q seq .busy 0 0
    else if kind = 2 then (if (s.engine idx).busy || (s.engine idx).testing then finish s q seq .busy 0 0 else go s)
    else awake s [domainOf (if kind = 0 then clusterOfCore idx else idx)] (.selfTest q seq) go)

/-! The sweep. -/

/-- Whether a core may be taken up by the sweep now. -/
def sweepFree (s : State) (c : Nat) : Bool :=
  coreUsable s c && !s.errs.ahead.contains c &&
    !s.ftests.any fun f => decide (f.kind = 0 ∧ clusterOfCore f.idx = clusterOfCore c) || decide (f.kind = 1 ∧ f.idx = clusterOfCore c)

def sweeping (s : State) : Nat := (s.ftests.filter fun f => f.entry.isNone).length

/-- R329: up to conc cores under test, in order of number, never two in one cluster. -/
def sweepFill : Nat → State → State
  | 0, s => s
  | n + 1, s =>
    if !rb s fErrFtest_en || decide (rf s fErrFtest_conc ≤ sweeping s) then s
    else
      match ((List.range 16384).drop (rf s fErrFtest_core)).find? (sweepFree s) with
      | none => s
      | some c =>
        sweepFill n (setB { s with ftests := s.ftests ++ [{ kind := 0, idx := c, code := 0, entry := none
                                                            start := s.devtime.toNat }] } fErrFtest_busy)

/-- ERR_FTEST.core moves past cores that are done or unusable; after the last a sweep is complete. -/
def sweepAdvance : Nat → State → State
  | 0, s => s
  | n + 1, s =>
    let c := rf s fErrFtest_core
    if s.errs.ahead.contains c || !coreUsable s c then
      let s := { s with errs := { s.errs with ahead := s.errs.ahead.filter fun d => decide (d ≠ c) } }
      if c = 16383 then incWrap (hwf s fErrFtest_core 0) fErrFtest_sweeps 1
      else sweepAdvance n (hwf s fErrFtest_core (c + 1))
    else s

/-- A test is over: its entry ends, or the sweep goes on. -/
def testEnd (s : State) (f : FTest) (st : Status) (detail result : Nat) : State :=
  let s := { s with ftests := s.ftests.filter fun y => decide (y ≠ f) }
  let s := if f.kind = 2 then s.setEngine f.idx { s.engine f.idx with testing := false } else s
  match f.entry with
  | some e => wake (finish (setPast s e.1 e.2) e.1 e.2 st detail result)
  | none =>
    let s := sweepAdvance 16384 { s with errs := { s.errs with ahead := f.idx :: s.errs.ahead } }
    let s := sweepFill 64 s
    if sweeping s = 0 then clrB s fErrFtest_busy else s

/-- R327: whether a block of a given length may start on a unit now. -/
def blockMay (s : State) (f : FTest) (len : Nat) : Bool :=
  match f.kind with
  | 0 =>
    match corePart s f.idx with
    | none => true
    | some p =>
      let x := s.part p
      if x.run.isNone then true
      else
        match x.prevLen with
        | some e => x.inStep && x.go && (s.core f.idx).ended && decide (x.m.toNat + len ≤ e)
        | none => false
  | 1 => clusterStopped s f.idx
  | _ => true

/-- FIELD_TEST_BLOCK: the next block of the test on a unit starts and ends; fail says that a result or residue differed. -/
def execFieldTestBlock (kind idx : Nat) (fail : Bool) (s : State) : Host.Outcome State Fault Refusal :=
  .next (match s.ftests.find? fun f => decide (f.kind = kind ∧ f.idx = idx) with
    | none => s
    | some f =>
      match (testBlocks f.code)[f.blk]? with
      | none => s
      | some len =>
        if !blockMay s f len then s
        else if fail then
          let s := errEvent s .fieldTest .checkMismatch (testUnit kind idx) 0 f.code f.blk
          testEnd s f .checkMismatch (f.blk + 1) 0
        else if f.blk + 1 = (testBlocks f.code).length then testEnd s f .ok 0 (Config.testSignature f.code).toNat
        else { s with ftests := s.ftests.map fun y => if y = f then { y with blk := y.blk + 1 } else y })

/-- FIELD_TEST_TIMEOUT: a test not finished in 1 s. -/
def execFieldTestTimeout (kind idx : Nat) (s : State) : Host.Outcome State Fault Refusal :=
  .next (match s.ftests.find? fun f => decide (f.kind = kind ∧ f.idx = idx ∧ f.start + 10 ^ 9 ≤ s.devtime.toNat) with
    | none => s
    | some f => testEnd s f .timeout 0 0)

/-- A write of ERR_FTEST; while en is 1 the sweep runs. -/
def ftestWrite (s : State) (fn v mask : Nat) : State := sweepFill 64 (regStoreAt s fn offErrFtest v mask)

/-- TEST_SWEEP_ENABLE. -/
def execTestSweepEnable (s : State) : Host.Outcome State Fault Refusal := .next (ftestWrite s 0 (2 ^ 63) (2 ^ 63))

/-! Quarantine and clock requests (R325, R337). -/

/-- A write of ERR_PART: quarantine is asked for or lifted, a clock request withdrawn. -/
def errPartWrite (s : State) (fn p v mask : Nat) : State :=
  let was := rb s (fErrPart_quar p)
  let s := regStoreAt s fn (offErrPart p) v mask
  let now := rb s (fErrPart_quar p)
  let x := s.part p
  let s := if bits (Nat.land v mask) 29 1 = 1 then showLimits (s.setPart p { x with errLim := 0 }) p else s
  let tell (s : State) (on : Bool) : State :=
    match (if isMember s then routePort s 0 else none) with
    | some b => toMaster s b 0x44 (p + (if on then 256 else 0)) ⟨0, 0, 0, 0⟩
    | none => s
  if now && !was then
    let s := match x.run with
      | none => setB s (fErrPart_qact p)
      | some r => if x.paused || r.waitFloor then endRun (setB s (fErrPart_qact p)) p .aborted else s
    tell s true
  else if was && !now then tell (clrB s (fErrPart_qact p)) false
  else s

/-- QUARANTINE_REQUEST. -/
def execQuarantineRequest (p : Nat) (s : State) : Host.Outcome State Fault Refusal :=
  .next (if 16 ≤ p then s else errPartWrite s 0 p (2 ^ 31) (2 ^ 31))

/-- QUARANTINE_CLEAR. -/
def execQuarantineClear (p : Nat) (s : State) : Host.Outcome State Fault Refusal :=
  .next (if 16 ≤ p then s else errPartWrite s 0 p 0 (2 ^ 31))

/-- CLOCK_REQUEST_WITHDRAW. -/
def execClockRequestWithdraw (p : Nat) (s : State) : Host.Outcome State Fault Refusal :=
  .next (if 16 ≤ p then s else errPartWrite s 0 p (2 ^ 29) (2 ^ 29))

/-! Vertical ports (R339, R340). -/

/-- VERTICAL_PORT_RETRAIN: the outcome of a port's retrain: spares in use inward and outward, width, and the lanes found
failing. -/
def execVerticalPortRetrain (cl spin spout width lanes : Nat) (s : State) : Host.Outcome State Fault Refusal :=
  .next (if !s.errs.vpDue.contains cl then s
    else
      let s := { s with errs := { s.errs with vpDue := s.errs.vpDue.filter fun n => decide (n ≠ cl) } }
      let old := (s.reg (offDfmVpstat cl)).toNat
      let s := wf (wf (wf s (fDfmVpstat_spin cl) spin) (fDfmVpstat_spout cl) spout) (fDfmVpstat_width cl) width
      let s := wf (incSat s (fDfmVpstat_retrains cl) 1) (fBseCapclu_vport cl) width
      let s := repair s (unitVport cl) 7 (if width = 0 then 1 else 4) lanes
      let s := audit s { kind := 4, origin := 3, part := (partOfCluster s cl).getD 0xFF, target := tgtOff (offDfmVpstat cl)
                         old := old, new := (s.reg (offDfmVpstat cl)).toNat, mask := 0xC000FF00 }
      if width = 3 then repair s (unitCluster cl) 2 0 0 else s)

end Sys2Proof.Machine
end

