-- ==== Sys2Proof/Machine/RegWrites.lean ====
section
/-! DEFINITION. Register writes as they arrive: the buffer of writes before the end of BASE, the functions' reach, and what each
register does with a write (R4 to R7, R233, R261, R304, R371, R372, and the register tables of every chapter). -/
namespace Sys2Proof.Machine

/-! One register. -/

/-- A write of a field that starts something once the rest is stored. -/
def storeThen (s : State) (fn : Nat) (f : Field) (v mask : Nat) (go : State → State) : State :=
  let s := regStoreAt s fn f.off v (without mask f)
  if touches (Nat.land v mask) f then go s else s

/-- A write to a register whose go bit starts an operation: ignored in that bit while the operation before is busy, else set. -/
def storeGo (s : State) (fn : Nat) (f busy : Field) (v mask : Nat) (go : State → State) : State :=
  if rb s busy then regStoreAt s fn f.off v (without mask f)
  else
    let s := regStoreAt s fn f.off v mask
    if touches (Nat.land v mask) f then go s else s

/-- A write to CMD_SQSTAT: dberr by its type, halt by R250. -/
def sqstatBy (s : State) (fn q v mask : Nat) : State :=
  storeThen s fn (fCmdSqstat_halt q) v mask fun s => releaseQueue s q

/-- A write to SEC_PBIND: refused while the partition is confidential (R304), or where dkey is a slot not bound to it. -/
def pbindBy (s : State) (fn p v mask : Nat) : State :=
  let off := offSecPbind p
  let old := (s.reg off).toNat
  let w := Nat.land mask (Nat.lor (fieldBits (fSecPbind_dkey p)) (fieldBits (fSecPbind_pasid p)))
  if w = 0 then s
  else if confidential s p then refusedFor (auditRefused s fn .secPbind p off old v w) p none
  else
    let k := mergeField s (fSecPbind_dkey p) v mask
    if touches mask (fSecPbind_dkey p) && !(decide (rf s (fSecSlot_state k) = 1 ∧ rf s (fSecSlot_part k) = p)) then
      regStoreAt s fn off v (without mask (fSecPbind_dkey p))
    else regStoreAt s fn off v mask

/-- A write to LNK_CASC: topo and ndev stand while any port is up; a GO that only the step marker withheld is given once
extgo is cleared (R277); the master tells its members which partitions are cascade-wide (R274). -/
def cascBy (s : State) (fn v mask : Nat) : State :=
  let mask := if (upPorts s).isEmpty then mask else without (without mask fLnkCasc_topo) fLnkCasc_ndev
  let was := rf s fLnkCasc_cpart
  let s := (List.range 16).foldl releaseGo (regStoreAt s fn offLnkCasc v mask)
  if isMember s || decide (rf s fLnkCasc_cpart = was) then s
  else (members s).foldl (fun s n => toMember s n 0x47 (rf s fLnkCasc_cpart) noFlits 0 0) s

/-- A write to AUD_RD, 64 bits under a mask. -/
def audRdBy (s : State) (v mask : Nat) : State :=
  let m := mask % 2 ^ 64
  if m = 0 then s else setAudRd s (Nat.lor (Nat.land v m) (Nat.land s.aud.rd (2 ^ 64 - 1 - m)))

/-- A write to AUD_STAT. -/
def audStatBy (s : State) (fn v mask : Nat) : State :=
  let s := regStoreAt s fn offAudStat v mask
  if touches mask fAudStat_cksel then selectCkpt s (rf s fAudStat_cksel) else s

/-- CHECKPOINT_SELECT: a write of AUD_STAT.cksel. -/
def execCheckpointSelect (k : Nat) (s : State) : Host.Outcome State Fault Refusal := .next (audStatBy s 0 (k % 2048) 2047)

/-- A write to CORE_ENTRY takes effect only while the core's partition is stopped (Table 4-11). -/
def entryBy (s : State) (fn : Nat) (r : RegSpec) (c off v mask : Nat) : State :=
  match partOfCluster s (c / 32) with
  | some p => if stopped s p then regStore s fn r c off v mask else s
  | none => regStore s fn r c off v mask

/-- What a write of the masked bits does to a register instance. -/
def regEffect (s : State) (fn : Nat) (r : RegSpec) (i off v mask : Nat) : State :=
  match r.name with
  | .coreEntry => entryBy s fn r i off v mask
  | .coreSrstate => srstateBy s fn i v mask
  | .coreDbgctl => dbgctlBy s fn i v mask
  | .coreDbgdata => dbgdataBy s fn i v mask
  | .sbfCtl => ctlBy s fn i v mask
  | .sbfWaydis => waydisBy s fn i v mask
  | .sbfScr => scrWrite s fn v mask
  | .sbfMaint => maintBy s fn v mask
  | .sbfScrgrant => scrGrantBy s fn i v mask
  | .qosClass => qosBy s fn i v mask
  | .qosMissstat => missBy s fn v mask
  | .cmdSqbase | .cmdCqbase => if rb s (fCmdSqcfg_en i) then s else regStore s fn r i off v mask
  | .cmdSqcfg => sqcfgBy s fn i v mask
  | .cmdSqstat => sqstatBy s fn i v mask
  | .cmdBar4 => bar4Window s fn v mask
  | .lnkCasc => cascBy s fn v mask
  | .lnkDetour => detourWrite s fn i v mask []
  | .lnkPcfg => transitBy s fn i v mask
  | .lnkQfwd => if rb s (fCmdSqcfg_en i) then s else regStore s fn r i off v mask
  | .lnkMbx => storeGo s fn fLnkMbx_go fLnkMbx_busy v mask mailboxGo
  | .secPbind => pbindBy s fn i v mask
  | .secFtgrant => farGrantBy s fn i v mask
  | .audRd => audRdBy s v mask
  | .audStat => audStatBy s fn v mask
  | .errPart => errPartWrite s fn i v mask
  | .errPolicy => (List.range 100).foldl slewPlan (regStore s fn r i off v mask)
  | .errFtest => ftestWrite s fn v mask
  | .mrgStat => storeGo s fn fMrgStat_replan fMrgStat_busy v mask replanGo
  | .pwrDomctl => domctlWrite s fn i v mask
  | .pwrPclk => showLimits (regStore s fn r i off v mask) i
  | .bsePhase => phaseBy s fn v mask
  | .bseRecov => recovBy s fn v mask
  | _ => regStore s fn r i off v mask

/-! The address. -/

/-- R287: bytes of the mailbox's send buffer. -/
def mailboxPut (s : State) (o n v : Nat) : State :=
  let tx := s.links.mbx.tx ++ List.replicate (64 - s.links.mbx.tx.length) 0
  setMbx s { s.links.mbx with tx := tx.take o ++ bytesOf n v ++ tx.drop (o + n) }

/-- 32 bits written at an offset, or 64 where one register holds them. A register whose domain is off is not written (log
entry 41), nor is an unassigned offset (R7). -/
def regWrite1 (s : State) (fn off n v : Nat) : State :=
  if 0x92100 ≤ off ∧ off + n ≤ 0x92140 then mailboxPut s (off - 0x92100) n v
  else
    match regAt off with
    | none => s
    | some (r, i, d) =>
      let base := off - d
      if regOff s base then s
      else regEffect s fn r i base (v * 2 ^ (8 * d)) ((2 ^ (8 * n) - 1) * 2 ^ (8 * d) % 2 ^ r.width)

/-- R233: what a VF may write: the ring bases, CMD_SQCFG in part (Table 11-5), the W1C bits of CMD_SQSTAT. -/
def vfMay (off : Nat) : Bool := decide (off % 0x40 < 0x20)

/-- A write of w bits: the register that holds all of them takes them at once, two registers one after the other. -/
def regWrite (s : State) (fn off w v : Nat) : State :=
  let o := off / 4 * 4
  if w = 64 then
    match regAt o with
    | some (r, _, d) =>
      if 8 * d + 64 ≤ r.width then regWrite1 s fn o 8 v
      else regWrite1 (regWrite1 s fn o 4 (v % 2 ^ 32)) fn (o + 4) 4 (v / 2 ^ 32 % 2 ^ 32)
    | none => regWrite1 (regWrite1 s fn o 4 (v % 2 ^ 32)) fn (o + 4) 4 (v / 2 ^ 32 % 2 ^ 32)
  else regWrite1 s fn o 4 (v % 2 ^ 32)

/-- A write by a function: 0 PF0, 1 to 16 the VFs, 17 firmware. -/
def writeBy (s : State) (fn off w v : Nat) : State :=
  if fn = 0 ∨ fn = fnFirmware then regWrite s fn off w v
  else if !vfMay off then s
  else
    match vfOffset s fn off with
    | some o => regWrite s fn o w v
    | none => s

/-- R372: from link-up until the end of BASE a host's write is held, with the DEVTIME of its arrival, or lost where 64 are. The
recovery register is written at once (R386). -/
def holdsWrite (s : State) (fn off : Nat) : Bool :=
  decide (fn ≠ fnFirmware) && !rb s fBseBoot_cmd && !(recovering s && decide (fn = 0 ∧ off / 4 * 4 = offBseRecov))

def holdWrite (s : State) (fn off w v : Nat) : State :=
  if s.sec.held.length < 64 then
    { s with sec := { s.sec with held := s.sec.held ++ [⟨s.devtime.toNat, fn, off, w, v⟩] } }
  else { s with sec := { s.sec with heldLost := s.sec.heldLost + 1 } }

/-- REGISTER_WRITE: a write of w bits, 32 or 64, at a BAR0 offset of a function, as it arrives. -/
def execRegisterWrite (fn off w : Nat) (v : BitVec 64) (s : State) : Host.Outcome State Fault Refusal :=
  .next (if fnFirmware < fn ∨ (fn ≠ fnFirmware ∧ s.host.up = false) then s
    else if holdsWrite s fn off then holdWrite s fn off w v.toNat
    else writeBy s fn off w v.toNat)

/-- CLU_CFG_COMMIT (R5): a write of CLU_CFG with commit set: part and en take the values of this write unless they are already
locked, and are locked after it. -/
def execCluCfgCommit (cl : Nat) (v : BitVec 32) (s : State) : Host.Outcome State Fault Refusal :=
  .next (if 512 ≤ cl then s else regStoreAt s 0 (offCluCfg cl) (Nat.lor v.toNat (2 ^ 31)) (2 ^ 32 - 1))

/-- ERROR_QUEUE_HEAD_WRITE (R332). -/
def execErrorQueueHeadWrite (v : Nat) (s : State) : Host.Outcome State Fault Refusal :=
  .next (regStoreAt s 0 offErrStat (v % 2048) 2047)

/-- R372: the held writes take effect in the order of their arrival, their audit entries carrying the DEVTIME of it; writes
lost leave one refused entry with their number. -/
def replayHeld (s : State) : State :=
  let h := s.sec.held
  let lost := s.sec.heldLost
  let s := { s with sec := { s.sec with held := [], heldLost := 0 } }
  let s := h.foldl (fun s x => writeBy { s with aud := { s.aud with stamp := some x.time } } x.fn x.off x.w x.v) s
  let s := { s with aud := { s.aud with stamp := none } }
  if lost = 0 then s else audit s { kind := 2, origin := 0, new := lost }

end Sys2Proof.Machine
end

