-- ==== Sys2Proof/Machine/Boot.lean ====
section
/-! DEFINITION. Reset of the device and the start sequence (R367 to R381, R385, R386). -/
namespace Sys2Proof.Machine

/-! Resets (Table 14-1). -/

/-- Commands that come from outside the device: the host, the board, sensors and peers. A device reset discards every other
one that waits, since it is a part of work in flight (R368). -/
def fromOutside (i : Instr) : Bool :=
  match i with
  | .registerWrite fn _ _ _ => decide (fn ≠ fnFirmware)
  | .doorbellSqTail .. | .doorbellCqHead .. | .bar4Read .. | .bar4Write .. | .configAccess .. | .pcieLinkUp
  | .devtimeLowRead | .keyExchange .. | .endSession .. | .pqQuote .. | .setPolicy .. | .ideKm .. | .lockInterfaceRequest ..
  | .startInterfaceRequest .. | .stopInterfaceRequest .. | .heartbeat .. | .getMeasurements .. | .flr .. | .cluCfgCommit ..
  | .queueEnable .. | .queueDisable .. | .queueRelease .. | .bar4WindowWrite .. | .maintInvalidate .. | .maintFlush ..
  | .maintCleanInv .. | .maintPurgeKey .. | .scratchWaysWrite .. | .scratchGrantWrite .. | .farGrantWrite ..
  | .sliceEnableWrite .. | .wayDisableWrite .. | .wayEnableWrite .. | .qosClassWrite .. | .qosWinWrite ..
  | .missQueueHeadWrite .. | .errorQueueHeadWrite .. | .quarantineRequest .. | .quarantineClear .. | .clockRequestWithdraw ..
  | .testSweepEnable | .debugHalt .. | .debugResume .. | .debugStep .. | .debugDataWrite .. | .srstateWrite ..
  | .caveReplanRequest | .mailboxSend | .transitConfigWrite .. | .recoveryInstall .. | .auditReadPointerWrite ..
  | .checkpointSelect .. | .phaseRequest .. | .detourRegister .. | .portTraining .. | .errorRateGate .. | .frameReceive ..
  | .signalLoss .. | .mailboxTransfer .. | .stepMarkerInput | .thermalModelTick .. | .sensorSample .. | .powerMeasure ..
  | .pathMonitorSample .. | .housekeepingRound .. | .powerOn | .perstNAssert .. | .perstNRelease .. | .stageAdvance ..
  | .stageTimeout | .pfailDecide .. | .pfailDiscrepancyEnd | .relaySeen | .refclkLoss => true
  | _ => false

/-- Bits that a register instance keeps through a reset: 0 a member's restart, 1 PERST_N, 2 power-on. Fields whose reset value is
saved in flash or fuses keep what was saved (R14); a restart keeps the straps (R385). -/
def keepMask (lvl : Nat) (r : RegSpec) (i : Nat) : Nat :=
  if lvl < 2 && (decide (r.dom = .powerOn) || decide (r.dom = .alwaysOn)) then 2 ^ 256 - 1
  else
    match r.name with
    | .bseId => 2 ^ 256 - 1
    | .dfmStat => fieldBits fDfmStat_full + fieldBits fDfmStat_entries
    | .dfmVpstat => fieldBits (fDfmVpstat_width i) + fieldBits (fDfmVpstat_spin i) + fieldBits (fDfmVpstat_spout i)
    | .secStat => fieldBits fSecStat_svnmin
    | .bseCapclu => fieldBits (fBseCapclu_vport i) + fieldBits (fBseCapclu_fmax i)
    | .bseCapbr => fieldBits fBseCapbr_unus
    | .bseCap => fieldBits fBseCap_cgen
    | .bseStrap => if lvl = 0 then 2 ^ 256 - 1 else 0
    | .lnkCasc => if lvl = 0 then fieldBits fLnkCasc_pos + fieldBits fLnkCasc_master else 0
    | _ => 0

/-- The register file after a reset. -/
def keptRegs (lvl : Nat) (regs : Tab (BitVec 256)) : Tab (BitVec 256) :=
  regs.filterMap fun (e : Nat × BitVec 256) =>
    match regFind e.1 with
    | some (r, i) =>
      let m := keepMask lvl r i
      let rst := (resetWord e.1).toNat
      let w := Nat.lor (Nat.land e.2.toNat m) (rst - Nat.land rst m)
      if w = rst then none else some (e.1, BitVec.ofNat 256 w)
    | none => none

/-- R14, R351: the Cave's settings restored from the ledger, and each domain's plan voltage with them. -/
def restoreCave (s : State) : State :=
  let c := s.pwr.cave
  let s := if c.opsec = 0 then s else wf s fMrgStat_opsec c.opsec
  c.kept.foldl (fun s e =>
    let d := e.1
    let old (f : Field) : Nat := bits e.2 f.lo f.w
    let s := wf (wf (wf (wf s (fMrgDom_g d) (old (fMrgDom_g d))) (fMrgDom_eraise d) (old (fMrgDom_eraise d)))
      (fMrgDom_fmax d) (old (fMrgDom_fmax d))) (fMrgDom_splan d) (old (fMrgDom_splan d))
    wf s (fPwrDomctl_mv d) (planMv s d (rf s (fMrgDom_fmax d)))) s

/-- Everything that a reset of the device clears, and what stays: the host's memory, flash (defect list, audit counters and
checkpoints, ledger, saved settings, fused minimums), and below power-on DEVTIME. A device reset ends the failed state (R361); that
another device's relay was seen stays, since PWR_PFSTAT is always-on (R15). -/
def resetDevice (lvl : Nat) (s : State) : State :=
  let now := if lvl < 2 then s.devtime.toNat else 0
  let t : State :=
    { pending := s.pending.filter fromOutside
      regs := keptRegs lvl s.regs
      hostMem := s.hostMem
      hostPsn := s.hostPsn
      errs := { defects := s.errs.defects }
      aud := { wseq := s.aud.wseq, rd := s.aud.rd, h := s.aud.h, buf := s.aud.buf, ckpts := s.aud.ckpts, done := s.aud.done }
      pwr := { cave :=
        { ledger := s.pwr.cave.ledger, kept := s.pwr.cave.kept, opsec := s.pwr.cave.opsec, lastEv := s.pwr.cave.lastEv
          day := s.pwr.cave.day } }
      links := { joined := s.links.joined && decide (lvl < 2), heard := if lvl < 2 then s.links.heard else 0 }
      boot := { saved := s.boot.saved, perst := decide (1 ≤ lvl), svnMin := s.boot.svnMin }
      qos := { start := now, fin := (now / 10000 + 1) * 10000 }
      keyCount := s.keyCount
      devtime := BitVec.ofNat 64 now
      half := s.half && decide (lvl < 2)
      free := s.free }
  let t := if rf t fPwrPfstat_state = 1 then clrB (wf t fPwrPfstat_state 0) fPwrPfstat_relay else t
  restoreCave (clrB t fBsePinstat_perst)

/-- R368: an orderly reset first seals a partial checkpoint and writes the ledger; the next start shows whether it was. -/
def resetWith (lvl : Nat) (orderly : Bool) (s : State) : State :=
  let s := if orderly then caveSave (sealPartial s) else s
  let s := resetDevice lvl s
  wf { s with boot := { s.boot with orderly := orderly } } fBseBoot_dirty (bit (!orderly))

/-- POWER_ON (R367): the device was orderly down if PERST_N held it reset in good order. -/
def execPowerOn (s : State) : Host.Outcome State Fault Refusal :=
  let orderly := s.boot.perst && s.boot.orderly
  let s := resetDevice 2 s
  .next (wf { s with boot := { s.boot with orderly := orderly } } fBseBoot_dirty (bit (!orderly)))

/-- PERST_N_ASSERT (R368); orderly says that supplies and REFCLK hold for 1 ms. -/
def execPerstNAssert (orderly : Bool) (s : State) : Host.Outcome State Fault Refusal :=
  .next (if s.boot.perst then s else resetWith 1 orderly s)

/-! The stages (Table 14-2). -/

/-- A stage begins: BSE_BOOT shows it, and vector 70 tells of it once the link is up (R369). -/
def setStage (s : State) (st : Nat) : State :=
  let s := wf (wf s fBseBoot_stage st) fBseBoot_ms ((s.devtime.toNat - s.boot.start) / 10 ^ 6)
  let s := wf s fBseBoot_newdef (min 255 (s.errs.defects.length - s.boot.defects))
  if s.host.up then irq s 0 70 else s

/-- R373: whether the reset leads to a fast start; auth says that the saved record authenticates and names this device. -/
def fastStart (s : State) (auth : Bool) : Bool :=
  rb s fBseStrap_fast && auth && s.boot.orderly &&
    (match s.boot.saved with
     | some r => decide (rf s fMrgStat_opsec ≤ r.opsec + 604800 ∧ s.errs.defects.length = r.defects)
     | none => false)

/-- R357: sensors listed broken are not sampled at this start. -/
def skipBroken (s : State) : State :=
  s.errs.defects.foldl (fun s d => if d.kind = 9 then setThmNode s d.unit { thmNode s d.unit with alone := true } else s) s

/-- The start begins with STARTER. -/
def beginStart (s : State) (auth : Bool) : State :=
  let s := { s with boot := { s.boot with start := s.devtime.toNat, defects := s.errs.defects.length, perst := false } }
  setStage (wf (skipBroken s) fBseBoot_fast (bit (fastStart s auth))) 1

/-- PERST_N_RELEASE (R270, R369, R373, R401): the straps are sampled and the start begins. saved says that the saved-settings
record authenticates and names this device. -/
def execPerstNRelease (pos : Nat) (master fast saved : Bool) (s : State) : Host.Outcome State Fault Refusal :=
  let pos := pos % 64
  let agree := decide (pos = 0) == master
  .next (if !s.boot.perst then s
    else
      let s := wf (wf (wf (wf s fBseStrap_pos pos) fBseStrap_role (bit master)) fBseStrap_fast (bit fast)) fBseStrap_agree (bit agree)
      let s := wf (wf s fLnkCasc_pos pos) fLnkCasc_master (bit master)
      let sb := (List.range 6).foldl (fun n i => n + pos / 2 ^ (5 - i) % 2 * 2 ^ i) 0 + bit master * 64 + bit fast * 128
      let s := wf (setB s fBsePinstat_perst) fBsePinstat_sb sb
      let s := if agree then s else errNote s .fault .invalid unitCp 0 pos (bit master) none
      beginStart s saved)

/-- SELF_RESTART (R385): a device reset in good order with the straps kept, once every image is written. -/
def execSelfRestart (s : State) : Host.Outcome State Fault Refusal :=
  .next (if s.boot.images = 0 then s else beginStart (setB (resetWith 0 true s) fBsePinstat_perst) true)

/-! Units that fail (R161, R167, R370, R376 to R380). -/

/-- A cluster is withdrawn: every bit of CLU_COREMAP.dis. -/
def withdraw (s : State) (cl : Nat) : State := if cl < 512 then wf s (fCluCoremap_dis cl) (2 ^ 32 - 1) else s

/-- One more bit of a field. -/
def orBit (s : State) (f : Field) (n : Nat) : State := wf s f (Nat.lor (rf s f) (2 ^ n))

/-- R312: the hardware event of a channel that fails, by the register that shows it. -/
def auditFail (s : State) (f : Field) : State :=
  if rb s f then s else audit s { kind := 4, origin := 3, target := tgtOff f.off, old := 0, new := 2 ^ f.lo, mask := 2 ^ f.lo }

/-- A failed near-tier channel: its cluster is withdrawn (R161). -/
def failNear (s : State) (ch : Nat) : State :=
  if ch < 1024 then withdraw (setB (auditFail s (fNtcChstat_fail ch)) (fNtcChstat_fail ch)) (nearOwner ch) else s

/-- What a defect-list entry does to its unit at a start (R380, Table 14-7). -/
def applyDefect (s : State) (u kind : Nat) : State :=
  match kind with
  | 1 => if u < 0x4000 then orBit s (fCluCoremap_dis (u / 32)) (u % 32) else s
  | 2 | 3 => if 0x4000 ≤ u then withdraw s (u - 0x4000) else s
  | 6 =>
    let sl := (u - 0x4800) / 16
    if ¬ (0x4800 ≤ u ∧ u < 0x4A00) then s
    else if (s.slice sl).locked.contains (u % 16) then orBit s (fSbfWaystat_lfail sl) (u % 16)
    else wayOut s sl (u % 16)
  | 8 => if 0x4C20 ≤ u ∧ u < 0x4C40 then orBit s fBseCapbr_unus (u - 0x4C20) else s
  | 0xA => if 0x4200 ≤ u ∧ u < 0x4600 then failNear s (u - 0x4200) else s
  | 0xB =>
    if 0x4A00 ≤ u ∧ u < 0x4C00 then
      let pc := u - 0x4A00
      let s := setB (auditFail s (fHbcLane_fail (pc / 2))) (fHbcLane_fail (pc / 2))
      clrB (orBit s (fHbcStat_chfail (pc / 64)) (pc % 64 / 2)) (fHbcStat_avail (pc / 64))
    else if 0x4C60 ≤ u ∧ u < 0x4C68 then clrB s (fHbcStat_avail (u - 0x4C60))
    else s
  | 0xC => if 0x4C10 ≤ u ∧ u < 0x4C20 then s.setEngine (u - 0x4C10) { s.engine (u - 0x4C10) with out := true } else s
  | _ => s

/-- The listed defects of some kinds are applied. -/
def applyKinds (s : State) (kinds : List Nat) : State :=
  s.errs.defects.foldl (fun s d => if kinds.contains d.kind then applyDefect s d.unit d.kind else s) s

/-- The test that a failure of TEST belongs to (Table 12-3). -/
def failedTest (kind : Nat) : Nat := match kind with | 1 => 0 | 2 => 0x10 | _ => 0x12

/-- Kinds whose unit leaves service (R370). -/
def leaves (kind : Nat) : Bool := [1, 2, 3, 6, 8, 0xA, 0xB, 0xC].contains kind

/-- A unit found failing in a stage: its record, its entry and what becomes of it. A vertical port's location gives what its training
ended with, as DFM_VPSTAT lays it out; a far-tier row found at training is one that no repair resource is left for. -/
def foundUnit (s : State) (stage : Nat) (f : Nat × Nat × Nat) : State :=
  let (u, kind, loc) := f
  let s := if stage = 8 ∧ 1 ≤ kind ∧ kind ≤ 3 then errEvent s .fieldTest .checkMismatch u 0 (failedTest kind) 0 else s
  let flags := if kind = 7 then (if bits loc 30 2 = 0 then 1 else 4) else if kind = 8 ∨ (kind = 5 ∧ stage = 6) then 4 else 0
  let s := applyDefect (repair s u kind flags loc) u kind
  let s := if leaves kind then setB s fBseBoot_degr else s
  if kind = 7 ∧ 0x4600 ≤ u ∧ u < 0x4800 then
    let cl := u - 0x4600
    let s := wf (wf (wf s (fDfmVpstat_width cl) (bits loc 30 2)) (fDfmVpstat_spin cl) (bits loc 12 4)) (fDfmVpstat_spout cl)
      (bits loc 8 4)
    if bits loc 30 2 = 3 then setB (applyDefect (repair s (unitCluster cl) 2 0 0) (unitCluster cl) 2) fBseBoot_degr else s
  else if kind = 5 ∧ stage = 6 ∧ 0x4A00 ≤ u ∧ u < 0x4C00 then setB s (fHbcStat_exh ((u - 0x4A00) / 64))
  else s

def ones32 (n : Nat) : Nat := ((List.range 32).filter fun i => decide (n / 2 ^ i % 2 = 1)).length

/-- Table 14-6: more than 16 unusable cores withdraw their cluster. -/
def crowded (s : State) : State :=
  (List.range 512).foldl (fun s cl =>
    let n := ones32 (rf s (fCluCoremap_dis cl))
    if 16 < n ∧ n < 32 then setB (withdraw (repair s (unitCluster cl) 2 0 0) cl) fBseBoot_degr else s) s

/-! What each stage does at its end. -/

/-- R295: the image of a kind that runs: the first flash copy, of two, that is accepted. -/
def takeImage (s : State) (k : Nat) (copies : List Image) : Option (State × BitVec 384) :=
  ((copies.take 2).find? (imageOk s k)).map fun x =>
    ({ s with boot := { s.boot with svns := tset s.boot.svns k (x.svn, x.commit) } }, x.digest)

/-- Images of the kinds from k on, each with its copies, and their digests; none where one kind has no copy that is accepted. -/
def takeImages (s : State) : Nat → List (List Image) → Option (State × List (BitVec 384))
  | _, [] => some (s, [])
  | k, i :: r =>
    match takeImage s k i with
    | some (s, d) => (takeImages s (k + 1) r).map fun y => (y.1, d :: y.2)
    | none => none

/-- A measurement block set (Table 11-2). -/
def setMeas (s : State) (i : Nat) (d : BitVec 384) : State := { s with sec := { s.sec with meas := tset s.sec.meas i d } }

/-- R296: the fused minimum of a kind rises to the SVN of an image with the commit flag, while fuse steps are left. -/
def commitSvn (s : State) (k : Nat) : State :=
  match tfind s.boot.svns k with
  | some (v, true) =>
    let m := tget (0, 0) s.boot.svnMin k
    if m.1 < v ∧ m.2 < 32 then
      let s := audit s { kind := 4, origin := 3, target := k, old := m.1, new := v, mask := 0xFFFF }
      let s := { s with boot := { s.boot with svnMin := tset s.boot.svnMin k (v, m.2 + 1) } }
      if k = 1 then wf s fSecStat_svnmin v else s
    else s
  | _ => s

/-- BASE (R212, R215, R305, R314, R372): way defects, scratch block 0, slot 63, the audit ring, the held writes. -/
def endBase (s : State) : State :=
  let s := setScratchWays (applyKinds s [6, 0xC]) 1
  let s := newKey (setGrant s 0 16) 63
  setB (replayHeld (auditResume s)) fBseBoot_cmd

/-- R161: rows listed for a near-tier channel are remapped, and a bank with more than 8 fails its channel. -/
def nearRows (s : State) : State :=
  let ds := s.errs.defects
  let crowd (d : DefEntry) : Bool :=
    decide (8 < (ds.filter fun x => decide (x.kind = 4 ∧ x.unit = d.unit ∧ x.loc / 65536 = d.loc / 65536)).length)
  let bad := ((ds.filter fun d => decide (d.kind = 4) && crowd d).map (·.unit)).eraseDups
  let ds' := ds.map fun (d : DefEntry) => if decide (d.kind = 4) && !crowd d then { d with flags := Nat.lor d.flags 1 } else d
  let s := { s with errs := { s.errs with defects := ds' } }
  bad.foldl (fun s u =>
    match defectFlags s u 0xA 0 with
    | some _ => applyDefect s u 0xA
    | none => setB (applyDefect (repair s u 0xA 0 0) u 0xA) fBseBoot_degr) s

/-- R169: every listed far-tier row not yet hard-repaired is repaired, or left as exhausted, which its stack shows. -/
def farRows (s : State) : State :=
  let out (d : DefEntry) : Bool := decide (d.kind = 5 ∧ d.flags / 4 % 2 = 1)
  let ds := s.errs.defects.map fun (d : DefEntry) =>
    if d.kind = 5 ∧ out d = false then { d with flags := Nat.lor d.flags 2 } else d
  let s := { s with errs := { s.errs with defects := ds } }
  (ds.filter out).foldl (fun s d =>
    if 0x4A00 ≤ d.unit ∧ d.unit < 0x4C00 then setB s (fHbcStat_exh ((d.unit - 0x4A00) / 64)) else s) s

/-- R166, R167: a far-tier channel's lanes are tested: spares are switched in for failing ones, and a channel with more of those than
spares has failed. -/
def testLanes (s : State) (x : Nat × Nat × Nat) : State :=
  let (i, spare, failing) := x
  let used := rf s (fHbcLane_used i)
  let s := if failing = 0 then s else
    audit s { kind := 4, origin := 3, target := tgtOff (fHbcLane_used i).off, old := used, new := min failing spare }
  let s := wf (wf s (fHbcLane_spare i) spare) (fHbcLane_used i) (min failing spare)
  if spare < failing then foundUnit s 6 (unitFar (2 * i), 0xB, 0) else s

/-- FAR (R166, R167, R169): the stacks without a failed channel are available. -/
def endFar (s : State) (lanes : List (Nat × Nat × Nat)) : State :=
  let s := farRows s
  let s := (List.range 8).foldl (fun s h => setB s (fHbcStat_avail h)) s
  (lanes.filter fun x => decide (x.1 < 256)).foldl testLanes (applyKinds s [0xB])

/-- R375: dies whose channels are not all writable. -/
def coldDies (s : State) : List Nat :=
  (List.range 8).filter fun e => (List.range 128).any fun c => inhibited s (128 * e + c)

/-- R343: the Cave's plan of a domain at a start. -/
def planDomain (s : State) (d : Nat) (x : Nat × Nat) : State :=
  let s := wf (wf s (fMrgDom_g d) (min 255 x.1)) (fMrgDom_splan d) x.2
  let s := if x.2 < 30 then errNote s .margin .ok unitCp 0 d x.2 none else s
  let s := if tget 0 s.pwr.cave.lastEv d + 604800 ≤ rf s fMrgStat_opsec then wf s (fMrgDom_eraise d) 0 else s
  let s := fmaxLower s d
  caveKeep (slewPlan (wf s (fMrgDom_smin d) 0xFFFF) d) d

/-- Whether a cluster's router is out of use (Table 14-6). -/
def routerOut (s : State) (cl : Nat) : Bool := s.errs.defects.any fun d => decide (d.kind = 3 ∧ d.unit = unitCluster cl)

/-- R381: the capability fields of a cluster. -/
def publishCluster (s : State) (cl : Nat) : State :=
  let n := ones32 (rf s (fCluCoremap_dis cl))
  let st := if n = 0 then 0 else if n < 32 then 1 else if routerOut s cl then 3 else 2
  let s := wf (wf s (fBseCapclu_state cl) st) (fBseCapclu_ncore cl) n
  wf (wf s (fBseCapclu_vport cl) (rf s (fDfmVpstat_width cl))) (fBseCapclu_fmax cl) (rf s (fMrgDom_fmax (domainOf cl)))

def enabledWays (s : State) (sl : Nat) : Nat :=
  ((List.range 16).filter fun w => decide (rf s (fSbfWaydis_mask sl) / 2 ^ w % 2 = 0)).length

/-- R381: the capability fields of the device; degr as the start leaves it. -/
def publish (s : State) : State :=
  let s := (List.range 512).foldl publishCluster s
  let dis := (List.range 512).map fun cl => ones32 (rf s (fCluCoremap_dis cl))
  let s := wf s fBseCap_cores ((dis.map fun n => 32 - n).foldl (· + ·) 0)
  let s := wf s fBseCap_clus (dis.filter fun n => decide (n < 32)).length
  let s := wf s fBseCap_far (bit (farAvail s))
  let s := wf s fBseCap_ways (allSlices.foldl (fun n sl => min n (enabledWays s sl)) 16)
  let s := wf s fBseCap_cgen (rf s fBseId_cgen)
  if farAvail s && dis.all (fun n => decide (n < 32)) then s else setB s fBseBoot_degr

/-- R380: a compute domain none of whose clusters or routers is usable stays OFF. -/
def deadDomains (s : State) : State :=
  (List.range 64).foldl (fun s d =>
    if (domClusters d).all fun cl => decide (rf s (fBseCapclu_state cl) = 3) then keysGone (wf s (fPwrDomctl_state d) 2) d else s) s

/-- PLAN (R343, R374, R380, R381). -/
def endPlan (s : State) (guards : List (Nat × Nat)) : State :=
  let s := crowded (applyKinds s [1, 2, 3])
  let s := (List.range 100).foldl (fun s d =>
    planDomain s d ((guards[d]?).getD (rf s (fMrgDom_g d), rf s (fMrgDom_splan d)))) s
  let s := deadDomains (publish s)
  if rb s fBseBoot_fast then s
  else { s with boot := { s.boot with saved := some ⟨rf s fMrgStat_opsec, s.errs.defects.length⟩ } }

/-- A start that fails (R370, R386): RECOVERY where no image authenticates, else FAILED. -/
def failStart (s : State) (err : Nat) : State :=
  let s := wf (wf s fBseBoot_fstage (rf s fBseBoot_stage)) fBseBoot_err err
  if err = 1 then setStage (setScratchWays (wf s fSecStat_state 2) 1) 0xE else setStage s 0xF

/-- The work of a stage at its end: the state, or the cause for which the start ends. -/
def stageWork (s : State) (st : Nat) (rep : StageRep) : State × Nat :=
  match st with
  | 1 =>
    match takeImages (setMeas s 1 rep.rom) 0 ((rep.images ++ [[]]).take 1) with
    | some (t, ds) => (wf (setMeas t 2 (ds.headD 0)) fSecStat_svnrind ((tget (0, false) t.boot.svns 0).1), 0)
    | none => (setMeas s 1 rep.rom, 1)
  | 2 =>
    let s := deriveKeys s
    match takeImages s 1 ((rep.images ++ List.replicate 5 []).take 5) with
    | some (t, ds) =>
      let t := setMeas (setMeas t 3 (ds.headD 0)) 4 (sha384 ((ds.drop 1).flatMap digestBytes))
      (wf (wf t fSecStat_state 1) fSecStat_svncp ((tget (0, false) t.boot.svns 1).1), 0)
    | none => (s, 1)
  | 3 => (endBase s, 0)
  | 4 => (applyKinds s [8], 0)
  | 5 => (applyKinds (nearRows s) [0xA], 0)
  | 6 => (endFar s rep.lanes, 0)
  | 9 =>
    let s := endPlan s rep.guards
    (s, if rf s fBseCap_clus = 0 then 6 else 0)
  | _ => (s, 0)

/-- The next stage is entered: a member takes BRINGUP at DIE (R382); at READY the images commit and the cascade is told. -/
def enterStage (s : State) (st : Nat) : State :=
  let s := setStage s st
  if st = 4 then (if rb s fBseStrap_role then s else phaseAsk s 2)
  else if st = 0xA then
    let s := (List.range 6).foldl commitSvn s
    wake (creadyCheck (tellReady s))
  else s

/-- A stage ends. -/
def stageEnd (s : State) (rep : StageRep) : State :=
  let st := rf s fBseBoot_stage
  let s := rep.units.foldl (fun s f => foundUnit s st f) s
  match stageWork s st rep with
  | (s, 0) => enterStage s (st + 1)
  | (s, e) => failStart s e

/-- STAGE_ADVANCE (R369 to R381): the stage in progress ends with what it found. NEAR does not end while a die's channels are not
writable (R375). -/
def execStageAdvance (rep : StageRep) (s : State) : Host.Outcome State Fault Refusal :=
  let st := rf s fBseBoot_stage
  .next (if st = 0 ∨ 10 ≤ st then s
    else if rep.err ≠ 0 ∧ rep.err ≤ 7 then failStart s rep.err
    else if st = 5 ∧ coldDies s ≠ [] then s
    else stageEnd s rep)

/-- Limits of Table 14-2, in ms from the release of PERST_N. -/
def stageLimit (st : Nat) : Nat :=
  match st with
  | 1 => 100 | 2 => 200 | 3 => 250 | 4 => 400 | 5 => 600 | 6 => 1500 | 7 => 1600 | 8 => 2000 | _ => 2200

/-- STAGE_TIMEOUT (R370, R375): a stage passes its limit. At NEAR the dies that are not writable lose their channels, and the start
goes on with the others. -/
def execStageTimeout (s : State) : Host.Outcome State Fault Refusal :=
  let st := rf s fBseBoot_stage
  let cold := coldDies s
  .next (if st = 0 ∨ 10 ≤ st ∨ s.devtime.toNat < s.boot.start + stageLimit st * 10 ^ 6 then s
    else if st ≠ 5 ∨ cold = [] then failStart s 2
    else if cold.length = 8 then failStart s 7
    else
      let s := cold.foldl (fun s e => (List.range 128).foldl (fun s c => failNear s (128 * e + c)) s) s
      stageEnd (setB s fBseBoot_degr) {})

end Sys2Proof.Machine
end

