-- ==== Sys2Proof/Machine/Control.lean ====
section
/-! DEFINITION. The control field (R95 to R97, R112, R118): scalar arithmetic, address registers, predicates, loops,
branches, flag waits and step end. -/
namespace Sys2Proof.Machine

/-- R95: NOP has no effect. -/
def execCtrlNop (sl : Slot) (g : Nat) (s : State) : Host.Outcome State Fault Refusal :=
  .next (ctlField s sl g [] fun _ s => s)

/-- A loop level over the n bundles after bundle pc (R97). -/
def openLoop (s : State) (c pc n count : Nat) : State :=
  onCore s c fun k => { k with loops := ⟨pc + 1, pc + n, count⟩ :: k.loops }

/-- R97: LOOPI opens a level of n bundles, count times. -/
def execLoopi (sl : Slot) (g n count : Nat) (s : State) : Host.Outcome State Fault Refusal :=
  .next (ctlField s sl g [] fun l s => openLoop s sl.core l.snap.pc n count)

/-- R97: LOOPR takes its count from sa[31:0]; a count of 0 acts as if the last bundle of the body had issued. -/
def execLoopr (sl : Slot) (g n sa : Nat) (s : State) : Host.Outcome State Fault Refusal :=
  .next (ctlField s sl g [sa] fun l s =>
    let count := (l.snap.s sa).toNat % 2 ^ 32
    if count = 0 then setCtl s sl.core (.skip (l.snap.pc + n)) else openLoop s sl.core l.snap.pc n count)

/-- R96: a taken BR is followed by its target. -/
def execBr (sl : Slot) (g target : Nat) (s : State) : Host.Outcome State Fault Refusal :=
  .next (ctlField s sl g [] fun _ s => setCtl s sl.core (.goto target 2))

/-- R96: JR goes to bundle sa[10:0]; a target at or beyond the length is the fault of Table 4-10, raised as the bundle
completes. -/
def execJr (sl : Slot) (g sa : Nat) (s : State) : Host.Outcome State Fault Refusal :=
  .next (ctlField s sl g [sa] fun l s => setCtl s sl.core (.goto ((l.snap.s sa).toNat % 2048) 3))

/-- R112: WAITF consumes a set flag (keep leaves it set), or raises hold and waits. Its trace events, and the change of the hold
line, follow once the bundle has issued. -/
def waitFlag (s : State) (c : Nat) (snap : Core) (keep : Bool) (f : Nat) : State :=
  let now := match corePart s c with
    | some p => (s.part p).rc
    | none => 0
  if snap.flags.getLsbD f then
    let s := noteEvts s c [(5, f)]
    if keep then s else onCore s c fun k => returnCredits { k with flags := k.flags &&& ~~~(1#32 <<< f) } f (now + coreLead s c)
  else
    noteEvts (onCore s c fun k => { k with waits := k.waits ++ [⟨f, keep, now⟩] }) c [(5, f), (2, 0)]

def execWaitf (sl : Slot) (g : Nat) (keep : Bool) (f : Nat) (s : State) : Host.Outcome State Fault Refusal :=
  .next (ctlField s sl g [] fun l s => waitFlag s sl.core l.snap keep f)

/-- R90: after ENDSTEP the core issues nothing until the next step. -/
def execEndstep (sl : Slot) (g : Nat) (s : State) : Host.Outcome State Fault Refusal :=
  .next (ctlField s sl g [] fun _ s => onCore s sl.core fun k => { k with ended := true })

/-- R118: BRK raises a debug hold for the partition. -/
def execBrk (sl : Slot) (g : Nat) (s : State) : Host.Outcome State Fault Refusal :=
  .next (ctlField s sl g [] fun l s =>
    noteEvts (onCore s sl.core fun k => { k with dbg := true }) sl.core [(8, l.snap.pc)])

/-- Table 4-2 SETP: pd := sa cmp sb. -/
def execSetp (sl : Slot) (g pd cmp sa sb : Nat) (s : State) : Host.Outcome State Fault Refusal :=
  .next (ctlField s sl g [sa, sb] fun l s => onCore s sl.core fun k =>
    { k with preds := setPred k.preds pd (cmpTrue cmp (l.snap.s sa) (l.snap.s sb)) })

/-- Table 4-2 PLOG: pd := pa fn pb. -/
def execPlog (sl : Slot) (g pd fn pa pb : Nat) (s : State) : Host.Outcome State Fault Refusal :=
  .next (ctlField s sl g [] fun l s => onCore s sl.core fun k =>
    { k with preds := setPred k.preds pd (plogFn fn (predBit l.snap.preds pa) (predBit l.snap.preds pb)) })

/-- A scalar result (R95). -/
def putS (s : State) (c sd : Nat) (x : Word) : State := onCore s c fun k => k.setS sd x
/-- An address-register result (R95). -/
def putA (s : State) (c ad : Nat) (x : CAddr) : State := onCore s c fun k => k.setA ad x

/-- Table 4-2 MOVI. -/
def execMovi (sl : Slot) (g sd : Nat) (imm : BitVec 10) (s : State) : Host.Outcome State Fault Refusal :=
  .next (ctlField s sl g [sd] fun _ s => putS s sl.core sd (imm.signExtend 64))

/-- Table 4-2 ADDI: sd := sd + imm. -/
def execAddi (sl : Slot) (g sd : Nat) (imm : BitVec 10) (s : State) : Host.Outcome State Fault Refusal :=
  .next (ctlField s sl g [sd] fun l s => putS s sl.core sd (l.snap.s sd + imm.signExtend 64))

/-- Table 4-2 ADD. -/
def aluAdd (x y : Word) : Word := x + y
def execAdd (sl : Slot) (g sd sa sb : Nat) (s : State) : Host.Outcome State Fault Refusal :=
  .next (ctlField s sl g [sd, sa, sb] fun l s => putS s sl.core sd (aluAdd (l.snap.s sa) (l.snap.s sb)))

/-- Table 4-2 SUB. -/
def aluSub (x y : Word) : Word := x - y
def execSub (sl : Slot) (g sd sa sb : Nat) (s : State) : Host.Outcome State Fault Refusal :=
  .next (ctlField s sl g [sd, sa, sb] fun l s => putS s sl.core sd (aluSub (l.snap.s sa) (l.snap.s sb)))

/-- Table 4-2 MUL, the low 64 bits of the product; the result can be used three cycles on (Table 4-7). -/
def aluMul (x y : Word) : Word := x * y
def execMul (sl : Slot) (g sd sa sb : Nat) (s : State) : Host.Outcome State Fault Refusal :=
  .next (field s sl [sd, sa, sb] [] fun l s => some (
    if guardTrue l.snap.preds g then pushLate s sl.core 3 { due := 0, sregs := [(sd, some (aluMul (l.snap.s sa) (l.snap.s sb)))] }
    else reserve s sl.core 3 [sd] []))

/-- Table 4-2 AND. -/
def aluAnd (x y : Word) : Word := x &&& y
def execAnd (sl : Slot) (g sd sa sb : Nat) (s : State) : Host.Outcome State Fault Refusal :=
  .next (ctlField s sl g [sd, sa, sb] fun l s => putS s sl.core sd (aluAnd (l.snap.s sa) (l.snap.s sb)))

/-- Table 4-2 OR. -/
def aluOr (x y : Word) : Word := x ||| y
def execOr (sl : Slot) (g sd sa sb : Nat) (s : State) : Host.Outcome State Fault Refusal :=
  .next (ctlField s sl g [sd, sa, sb] fun l s => putS s sl.core sd (aluOr (l.snap.s sa) (l.snap.s sb)))

/-- Table 4-2 XOR. -/
def aluXor (x y : Word) : Word := x ^^^ y
def execXor (sl : Slot) (g sd sa sb : Nat) (s : State) : Host.Outcome State Fault Refusal :=
  .next (ctlField s sl g [sd, sa, sb] fun l s => putS s sl.core sd (aluXor (l.snap.s sa) (l.snap.s sb)))

/-- Table 4-2 SHL, the amount is sb[5:0]. -/
def aluShl (x y : Word) : Word := x <<< (y.toNat % 64)
def execShl (sl : Slot) (g sd sa sb : Nat) (s : State) : Host.Outcome State Fault Refusal :=
  .next (ctlField s sl g [sd, sa, sb] fun l s => putS s sl.core sd (aluShl (l.snap.s sa) (l.snap.s sb)))

/-- Table 4-2 SHR, logical, the amount is sb[5:0]. -/
def aluShr (x y : Word) : Word := x >>> (y.toNat % 64)
def execShr (sl : Slot) (g sd sa sb : Nat) (s : State) : Host.Outcome State Fault Refusal :=
  .next (ctlField s sl g [sd, sa, sb] fun l s => putS s sl.core sd (aluShr (l.snap.s sa) (l.snap.s sb)))

/-- Table 4-2 SRA, arithmetic, the amount is sb[5:0]. -/
def aluSra (x y : Word) : Word := x.sshiftRight (y.toNat % 64)
def execSra (sl : Slot) (g sd sa sb : Nat) (s : State) : Host.Outcome State Fault Refusal :=
  .next (ctlField s sl g [sd, sa, sb] fun l s => putS s sl.core sd (aluSra (l.snap.s sa) (l.snap.s sb)))

/-- Table 4-2 MIN, signed. -/
def aluMin (x y : Word) : Word := if x.slt y then x else y
def execMin (sl : Slot) (g sd sa sb : Nat) (s : State) : Host.Outcome State Fault Refusal :=
  .next (ctlField s sl g [sd, sa, sb] fun l s => putS s sl.core sd (aluMin (l.snap.s sa) (l.snap.s sb)))

/-- Table 4-2 MAX, signed. -/
def aluMax (x y : Word) : Word := if x.slt y then y else x
def execMax (sl : Slot) (g sd sa sb : Nat) (s : State) : Host.Outcome State Fault Refusal :=
  .next (ctlField s sl g [sd, sa, sb] fun l s => putS s sl.core sd (aluMax (l.snap.s sa) (l.snap.s sb)))

/-- Table 4-2 AADDI: ad := ad + 64 times imm, modulo 2^32. -/
def execAaddi (sl : Slot) (g ad : Nat) (imm : BitVec 12) (s : State) : Host.Outcome State Fault Refusal :=
  .next (ctlField s sl g [] fun l s => putA s sl.core ad (addOff (l.snap.a ad) imm 64))

/-- Table 4-2 AMOV: ad := sa[31:0]. -/
def execAmov (sl : Slot) (g ad sa : Nat) (s : State) : Host.Outcome State Fault Refusal :=
  .next (ctlField s sl g [sa] fun l s => putA s sl.core ad ((l.snap.s sa).setWidth 32))

/-- Table 4-2 SMOVA: sd := aa, zero-extended. -/
def execSmova (sl : Slot) (g sd aa : Nat) (s : State) : Host.Outcome State Fault Refusal :=
  .next (ctlField s sl g [sd] fun l s => putS s sl.core sd ((l.snap.a aa).setWidth 64))

/-- Remaining count of loop level n, 0 the outermost; 0 if inactive (Table 4-2, R119). -/
def loopCount (k : Core) (n : Nat) : Nat := ((k.loops.reverse[n]?).map (·.count)).getD 0

/-- Value that RDS reads (Table 4-2); selectors 8 to 15 are reserved and refused at LOAD_PROGRAM. -/
def rdsValue (s : State) (c : Nat) (snap : Core) (sel : Nat) : Option Word :=
  let x := s.part ((corePart s c).getD 0)
  match sel with
  | 0 => some x.step
  | 1 => some (x.m.setWidth 64)
  | 2 | 3 | 4 | 5 => some (BitVec.ofNat 64 (loopCount snap (sel - 2)))
  | 6 => some (BitVec.ofNat 64 c)
  | 7 => some s.devtime
  | _ => none

/-- Table 4-2 RDS. -/
def execRds (sl : Slot) (g sd sel : Nat) (s : State) : Host.Outcome State Fault Refusal :=
  .next (ctlField s sl g [sd] fun l s =>
    match rdsValue s sl.core l.snap sel with
    | some x => putS s sl.core sd x
    | none => s)

end Sys2Proof.Machine
end

