-- ==== Sys2Proof/Machine/MemField.lean ====
section
/-! DEFINITION. The memory field (R106, R107, R110, R111): vector and scalar loads and stores, mesh sends, signals and
memory requests. -/
namespace Sys2Proof.Machine

/-- Address of a VLD or VST: a + 64 off, or a alone with inc; bits 5:0 ignored (R106). -/
def vAddr (k : Core) (a : Nat) (inc : Bool) (off : BitVec 10) : Nat :=
  alignDown (if inc then k.a a else addOff (k.a a) off 64).toNat 6

/-- Address of an SLD or SST: a + 8 off, bits 2:0 ignored (R106). -/
def sAddr (k : Core) (a : Nat) (off : BitVec 10) : Nat := alignDown (addOff (k.a a) off 8).toNat 3

/-- The increment of a VLD or VST with inc, at the end of the issue cycle (R106). -/
def vInc (s : State) (c a : Nat) (inc : Bool) (snap : Core) (off : BitVec 10) : State :=
  if inc then onCore s c fun k => k.setA a (addOff (snap.a a) off 64) else s

/-- What a request that is served does (R85, R106, Table 4-7): a load's result stands four cycles on from cluster memory and two
from local scratch, and a store is visible to reads of later cycles. An SLD of a poisoned piece faults the core and writes
nothing. -/
def memServe (s : State) (c : Nat) (r : MemReq) : State :=
  let n := match localOf r.addr with | some .cm => 4 | _ => 2
  match r.op with
  | .vld =>
    let s := localFinds s c r.addr 64
    match localRead s c r.addr 64 with
    | some (x, psn) => pushLate s c n { due := 0, vregs := [(r.reg, some (BitVec.ofNat 512 x, psn))] }
    | none => s
  | .sld =>
    let s := localFinds s c r.addr 8
    match localRead s c r.addr 8 with
    | some (x, psn) =>
      if psn then coreFault s c .uncorrectable else pushLate s c n { due := 0, sregs := [(r.reg, some (BitVec.ofNat 64 x))] }
    | none => s
  | .vst => (localWrite s c r.addr 64 r.data (some r.poison)).getD s
  | .sst => (localWrite s c r.addr 8 r.data none).getD s

/-- R107: a request is presented. One that is not served stays, and keeps the core from issuing until the cycle after the one in
which it is served. -/
def memPresent (s : State) (c : Nat) (r : MemReq) : State :=
  let rd := match r.op with | .vld | .sld => true | _ => false
  let (s, ok) := match localOf r.addr with
    | some .cm => cmAsk s c r.addr rd
    | _ => lsAsk s c (r.addr - 0x400000) rd
  if ok then
    let t := coreCyc s c
    memServe (onCore s c fun k => { k with mreq := none, stall := false, nextAt := max k.nextAt (t + 1) }) c r
  else onCore s c fun k => { k with mreq := some r, stall := true }

/-- R107: the request of a core that was not served, presented again: a memory command outside any bundle stands for it. -/
def memAgain (s : State) (sl : Slot) : Option MemReq :=
  if sl.first || sl.last || (s.latch sl.core).isSome || (s.core sl.core).faulted || (s.core sl.core).resetting ||
      !((corePart s sl.core).map fun p => (s.part p).go).getD true then none
  else (s.core sl.core).mreq

/-- A VLD, VST, SLD or SST: the request it makes, presented in its issue cycle or again (R107); outside Table 3-2 the core
faults. pre is the increment of the issue cycle. -/
def memOp (sl : Slot) (p : Nat) (ss vs : List Nat) (no pre : Core → State → State) (mk : Core → MemReq) (s : State) : State :=
  match memAgain s sl with
  | some r => memPresent s sl.core r
  | none => memField s sl p ss vs (no (s.core sl.core)) fun l s =>
    let s := pre l.snap s
    let r := mk l.snap
    match localOf r.addr with
    | some _ => some (memPresent s sl.core r)
    | none => some (coreFault s sl.core .accessViolation)

/-- Cycles after which a load from an address can be used, served when it is presented (Table 4-7). -/
def loadLag (a : Nat) : Nat := match localOf a with | some .cm => 4 | _ => 2

/-- R106, R85: VLD loads a word and its poison. -/
def execVld (sl : Slot) (p v a : Nat) (inc : Bool) (off : BitVec 10) (s : State) : Host.Outcome State Fault Refusal :=
  .next (memOp sl p [] [v] (fun k s => reserve s sl.core (loadLag (vAddr k a inc off)) [] [v])
    (fun k s => vInc s sl.core a inc k off) (fun k => { op := .vld, reg := v, addr := vAddr k a inc off }) s)

/-- R106, R85: VST stores a register, its pieces marked when the register is poisoned. -/
def execVst (sl : Slot) (p v a : Nat) (inc : Bool) (off : BitVec 10) (s : State) : Host.Outcome State Fault Refusal :=
  .next (memOp sl p [] [v] (fun _ s => s) (fun k s => vInc s sl.core a inc k off)
    (fun k => { op := .vst, reg := v, addr := vAddr k a inc off, data := (k.v v).toNat, poison := k.vp v }) s)

/-- R106, R85: SLD loads 8 bytes. -/
def execSld (sl : Slot) (p r a : Nat) (off : BitVec 10) (s : State) : Host.Outcome State Fault Refusal :=
  .next (memOp sl p [r] [] (fun k s => reserve s sl.core (loadLag (sAddr k a off)) [r] []) (fun _ s => s)
    (fun k => { op := .sld, reg := r, addr := sAddr k a off }) s)

/-- R106: SST stores 8 bytes. -/
def execSst (sl : Slot) (p r a : Nat) (off : BitVec 10) (s : State) : Host.Outcome State Fault Refusal :=
  .next (memOp sl p [r] [] (fun _ s => s) (fun _ s => s)
    (fun k => { op := .sst, reg := r, addr := sAddr k a off, data := (k.s r).toNat }) s)

/-- R107: SEND places a register into an injection channel of two entries; a full channel keeps the bundle from
issuing. -/
def execSend (sl : Slot) (p v ch : Nat) (s : State) : Host.Outcome State Fault Refusal :=
  .next (field s sl [] [v] fun l s =>
    let es := tget [] l.snap.chans ch
    if 2 ≤ es.length then none
    else if predTrue l.snap.preds p then
      some (onCore s sl.core fun k => { k with chans := tset k.chans ch (es ++ [⟨l.snap.v v, l.snap.vp v, false⟩]) })
    else some s)

/-- R106, R110: SIGF sets a signal flag of core k of the same cluster two cycles on (Table 4-7). -/
def execSigf (sl : Slot) (p k f : Nat) (s : State) : Host.Outcome State Fault Refusal :=
  .next (memField s sl p [] [] id fun _ s =>
    let d := coreCyc s sl.core + 3
    some (onCore s (32 * clusterOfCore sl.core + k) fun t => { t with late := t.late ++ [{ due := d, sig := [f] }] }))

/-- R173: a descriptor joins the queue of its cluster's DMA; those accepted in one core cycle stand in the order of their cores. -/
def acceptDesc (d : Desc) : List Desc → List Desc
  | [] => [d]
  | e :: r => if e.born = d.born ∧ d.core < e.core then d :: e :: r else e :: acceptDesc d r

/-- R110, R111, R173: REQ consumes a credit, clears flag f and counts the request, and the cluster DMA accepts the
descriptor. A core without a credit cannot issue it. -/
def execReq (sl : Slot) (p v f : Nat) (s : State) : Host.Outcome State Fault Refusal :=
  .next (field s sl [] [v] fun l s =>
    if l.snap.credits = 0 then none
    else if predTrue l.snap.preds p then
      let s := onCore s sl.core fun k =>
        { k with credits := k.credits - 1, flags := k.flags &&& ~~~(1#32 <<< f)
                 outst := tset k.outst f (tget 0 k.outst f + 1), named := tset k.named f (tget 0 k.named f + 1) }
      let cl := clusterOfCore sl.core
      let d := s.dma cl
      let now := match corePart s sl.core with
        | some q => (s.part q).rc
        | none => 0
      let x : Desc := { id := d.nextId, core := sl.core, flag := f, x := l.snap.v v, poison := l.snap.vp v, born := now }
      some (s.setDma cl { d with queue := acceptDesc x d.queue, nextId := d.nextId + 1 })
    else some s)

/-- R111: a consuming WAITF's credits return, in the first non-held core cycle from the one they are due in. -/
def execCreditReturn (core : Nat) (s : State) : Host.Outcome State Fault Refusal :=
  .next (
    let now := match corePart s core with
      | some p => if (s.part p).go then some (s.part p).rc else none
      | none => none
    match now with
    | none => s
    | some t => onCore s core fun k =>
      let due := k.returning.filter fun x => decide (x.1 ≤ t)
      { k with credits := min 16 (due.foldl (fun n x => n + x.2) k.credits)
               returning := k.returning.filter fun x => decide (t < x.1) })

end Sys2Proof.Machine
end

