-- ==== Sys2Proof/Machine/Ring.lean ====
section
/-! DEFINITION. The maintenance ring (R145 to R147). A message is a command with the words it carries as its receiver reads
them, its check among them; a register write by the ring is firmware's. -/
namespace Sys2Proof.Machine

/-- The check of a message: CRC-16/CCITT over its earlier words, each high bit first (R147). -/
def ringCrc (type tag : Nat) (words : List Nat) : BitVec 16 :=
  BitVec.ofNat 16 ((((type * 4096 + tag * 256) :: words).flatMap (bitsBe 16)).foldl crc16Bit 65535)

/-- The high and the low word of a 32-bit value. -/
def ringWords (x : Nat) : List Nat := [x / 65536 % 65536, x % 65536]

def readMsg (tag off : Nat) : Instr := .ringRead tag off (ringCrc 1 tag (ringWords off))
def writeMsg (tag off data : Nat) : Instr :=
  .ringWrite tag off (BitVec.ofNat 32 data) (ringCrc 2 tag (ringWords off ++ ringWords data))

def ringOf (s : State) (tag : Nat) : Option RingReq := s.ring.reqs.find? fun r => decide (r.tag = tag)

/-- A request is outstanding from its first sending; a message that repeats it changes nothing here. -/
def ringNote (s : State) (r : RingReq) : State :=
  if (ringOf s r.tag).isSome then s
  else { s with ring := { s.ring with reqs := s.ring.reqs ++ [{ r with sent := s.devtime.toNat }] } }

def ringDone (s : State) (tag : Nat) : State :=
  { s with ring := { s.ring with reqs := s.ring.reqs.filter fun r => decide (r.tag ≠ tag) } }

/-- A message that fails its check. -/
def ringBadCrc (s : State) : State := incSat s fMshRingstat_crcerr 1

/-- R145: the station that owns a register: 0 to 511 for the clusters, with the registers of their cores. -/
def ringStation (off : Nat) : Nat :=
  if 0x1000000 ≤ off ∧ off < 0x2000000 then
    let o := (off - 0x1000000) % 0x400000
    128 * ((off - 0x1000000) / 0x400000) + (if 0x200000 ≤ o then (o - 0x200000) / 0x1000 else (o - 0x100000) / 0x1000)
  else Config.ringStation off

/-- The answer of the station that owns an offset: none where no station owns it, an error where its power domain is off. -/
def ringServe (s : State) (tag off : Nat) (k : State → State) : State :=
  match regAt off with
  | none => s
  | some (_, _, d) =>
    if regOff s (off / 4 * 4 - d) then
      s.emit [.ringError tag (ringStation off) (ringCrc 7 tag [ringStation off])]
    else k s

/-- RING_READ: the owning station answers with the register's 32 bits. -/
def execRingRead (tag off : Nat) (crc : BitVec 16) (s : State) : Host.Outcome State Fault Refusal :=
  let s := ringNote s { tag := tag, write := false, off := off }
  .next (if crc ≠ ringCrc 1 tag (ringWords off) then ringBadCrc s
    else ringServe s tag off fun s =>
      let (s, d) := regRead1 s off
      s.emit [.ringReadResponse tag (BitVec.ofNat 32 d) (ringCrc 3 tag (ringWords d))])

/-- RING_WRITE: the owning station takes the data and acknowledges. -/
def execRingWrite (tag off : Nat) (data : BitVec 32) (crc : BitVec 16) (s : State) : Host.Outcome State Fault Refusal :=
  let s := ringNote s { tag := tag, write := true, off := off, data := data.toNat }
  .next (if crc ≠ ringCrc 2 tag (ringWords off ++ ringWords data.toNat) then ringBadCrc s
    else ringServe s tag off fun s =>
      s.emit [.registerWrite fnFirmware off 32 (data.setWidth 64), .ringWriteAcknowledge tag (ringCrc 4 tag [])])

/-- A response at the master: a good one ends its request, one that fails its check has it repeated. -/
def ringAnswer (s : State) (tag : Nat) (good : Bool) (k : State → State) : State :=
  if good then (if (ringOf s tag).isSome then k (ringDone s tag) else s)
  else
    let s := ringBadCrc s
    ({ s with ring := { s.ring with reqs := s.ring.reqs.map fun (r : RingReq) => if r.tag = tag then { r with bad := true } else r } }).emit
      [.ringRequestRetry tag]

/-- RING_READ_RESPONSE. -/
def execRingReadResponse (tag : Nat) (data : BitVec 32) (crc : BitVec 16) (s : State) : Host.Outcome State Fault Refusal :=
  .next (ringAnswer s tag (decide (crc = ringCrc 3 tag (ringWords data.toNat))) fun s =>
    { s with ring := { s.ring with reads := tset s.ring.reads tag data.toNat } })

/-- RING_WRITE_ACKNOWLEDGE. -/
def execRingWriteAcknowledge (tag : Nat) (crc : BitVec 16) (s : State) : Host.Outcome State Fault Refusal :=
  .next (ringAnswer s tag (decide (crc = ringCrc 4 tag [])) id)

/-- RING_ERROR: the station could not serve the request. -/
def execRingError (tag station : Nat) (crc : BitVec 16) (s : State) : Host.Outcome State Fault Refusal :=
  .next (ringAnswer s tag (decide (crc = ringCrc 7 tag [station])) fun s =>
    { s with ring := { s.ring with errors := tset s.ring.errors tag station } })

/-- RING_ALERT: the master removes a station's alert. Its tag is 0. -/
def execRingAlert (station cause : Nat) (crc : BitVec 16) (s : State) : Host.Outcome State Fault Refusal :=
  .next (if crc ≠ ringCrc 5 0 [station, cause] then ringBadCrc s
    else { s with ring := { s.ring with alerts := s.ring.alerts ++ [(station, cause)] } })

/-- Registers at an offset of the stations' own blocks, where those are not off: the 0x1000 bytes of a cluster (R87), and the block of a
base-die station, which the manual does not lay out (log entry 39). -/
def broadcastTargets (s : State) (off : Nat) : List Nat :=
  ((if off < 0x1000 then (List.range 512).map fun cl => offCluId cl + off else []) ++
    ((List.range 64).filter fun n => decide (off < (Config.stationBlock n).2)).map fun n => (Config.stationBlock n).1 + off).filter fun a =>
    match regAt a with
    | some (_, _, d) => !regOff s (a / 4 * 4 - d)
    | none => false

/-- RING_BROADCAST_WRITE: the offset is one within a station's own block; every station that owns it takes the write. -/
def execRingBroadcastWrite (tag off : Nat) (data : BitVec 32) (crc : BitVec 16) (s : State) :
    Host.Outcome State Fault Refusal :=
  .next (if crc ≠ ringCrc 6 tag (ringWords off ++ ringWords data.toNat) then ringBadCrc s
    else s.emit ((broadcastTargets s off).map fun a => .registerWrite fnFirmware a 32 (data.setWidth 64)))

/-- Two circuits of the ring, in ns (R145). -/
def ringTwoCircuits : Nat := 23040

/-- RING_REQUEST_RETRY (R147): a request whose response failed its check, or did not return within two circuits, is repeated;
after three attempts the fault is recorded. -/
def execRingRequestRetry (tag : Nat) (s : State) : Host.Outcome State Fault Refusal :=
  .next (match ringOf s tag with
    | none => s
    | some r =>
      if !r.bad && decide (s.devtime.toNat < r.sent + ringTwoCircuits) then s
      else if 3 ≤ r.tries then
        errEvent (setB (ringDone s tag) fMshRingstat_fault) .ring .timeout unitRing 0 (ringStation r.off) 0
      else
        let again : RingReq := { r with tries := r.tries + 1, sent := s.devtime.toNat, bad := false }
        let s := { s with ring := { s.ring with reqs := s.ring.reqs.map fun (x : RingReq) => if x.tag = tag then again else x } }
        s.emit [if r.write then writeMsg tag r.off r.data else readMsg tag r.off])

end Sys2Proof.Machine
end

