-- ==== Sys2Proof/Machine/Vector.lean ====
section
/-! DEFINITION. The vector field (R34, R41 to R46, R104, R105, R184): lane arithmetic, functions, the interpolation
table, bitwise operations, conversions, MX blocks and the tree mask. -/
namespace Sys2Proof

/-- Element format of a lane type (R104). -/
def VTy.fmt : VTy → Machine.FFmt
  | .f32 => Machine.fp32
  | .bf16 => Machine.bf16
  | .f16 => Machine.fp16
/-- Lane width of a lane type. -/
def VTy.w : VTy → Nat
  | .f32 => 32
  | _ => 16
/-- Lanes of a lane type. -/
def VTy.n : VTy → Nat
  | .f32 => 16
  | _ => 32

end Sys2Proof

namespace Sys2Proof.Machine

/-- Lanes of a register as encodings. -/
def lanesOf (ty : VTy) (x : Vec) : List Nat := unpackBits x.toNat ty.w ty.n
/-- Lanes of a register as values. -/
def valsOf (ty : VTy) (x : Vec) : List Val := (lanesOf ty x).map ty.fmt.decode
/-- A register from elements of a width, packed from byte 0, the rest zero (R105). -/
def packV (w : Nat) (xs : List Nat) : Vec := BitVec.ofNat 512 (packBits w xs)

/-- Flags of a list of results. -/
def flagsOf (rs : List (Nat × Fl)) : Fl := rs.foldl (fun f r => f ||| r.2) flNone

/-- A vector result: register vd, its value, its poison tag from its sources (R85), and the flags (R46), which stand n cycles
on (Table 4-7). -/
def putV (s : State) (c n vd : Nat) (x : Vec) (psn : Bool) (fl : Fl) : State :=
  pushLate s c n { due := 0, vregs := [(vd, some (x, psn))], fl := fl }

/-- A lane-wise operation of two sources. -/
def lane2 (sl : Slot) (p n : Nat) (ty : VTy) (vd va vb : Nat) (f : Val → Val → Nat × Fl) (s : State) : State :=
  vecField s sl p [] [vd, va, vb] n [vd] fun l s =>
    let rs := ((valsOf ty (l.snap.v va)).zip (valsOf ty (l.snap.v vb))).map fun ab => f ab.1 ab.2
    putV s sl.core n vd (packV ty.w (rs.map (·.1))) (l.snap.vp va || l.snap.vp vb) (flagsOf rs)

/-- A lane-wise operation of one source. -/
def lane1 (sl : Slot) (p n : Nat) (ty : VTy) (vd va : Nat) (f : Val → Nat × Fl) (s : State) : State :=
  vecField s sl p [] [vd, va] n [vd] fun l s =>
    let rs := (valsOf ty (l.snap.v va)).map f
    putV s sl.core n vd (packV ty.w (rs.map (·.1))) (l.snap.vp va) (flagsOf rs)

/-- Exact sum of two values, rounded once (R104). -/
def addLane (f : FFmt) (a b : Val) : Nat × Fl := roundV f (sumV [a, b])
/-- Exact product, rounded once. -/
def mulLane (f : FFmt) (a b : Val) : Nat × Fl := roundV f (mulV a b)
/-- d + a * b, rounded once; a NaN d keeps nv clear (R46). -/
def fmaLane (f : FFmt) (d a b : Val) : Nat × Fl :=
  let (p, fl) := mulV a b
  let (x, g) := roundV f (sumV [d, p])
  (x, (if d.isNan then flNone else fl) ||| g)

/-- VNOP has no effect. -/
def execVnop (sl : Slot) (p : Nat) (s : State) : Host.Outcome State Fault Refusal :=
  .next (vecField s sl p [] [] 0 [] fun _ s => s)

/-- Table 4-5 VADD. -/
def execVadd (sl : Slot) (p : Nat) (ty : VTy) (vd va vb : Nat) (s : State) : Host.Outcome State Fault Refusal :=
  .next (lane2 sl p 3 ty vd va vb (fun a b => addLane ty.fmt a b) s)

/-- Table 4-5 VSUB. -/
def execVsub (sl : Slot) (p : Nat) (ty : VTy) (vd va vb : Nat) (s : State) : Host.Outcome State Fault Refusal :=
  .next (lane2 sl p 3 ty vd va vb (fun a b => addLane ty.fmt a b.neg) s)

/-- Table 4-5 VMUL. -/
def execVmul (sl : Slot) (p : Nat) (ty : VTy) (vd va vb : Nat) (s : State) : Host.Outcome State Fault Refusal :=
  .next (lane2 sl p 3 ty vd va vb (fun a b => mulLane ty.fmt a b) s)

/-- Table 4-5 VMAX. -/
def execVmax (sl : Slot) (p : Nat) (ty : VTy) (vd va vb : Nat) (s : State) : Host.Outcome State Fault Refusal :=
  .next (lane2 sl p 2 ty vd va vb (fun a b => ty.fmt.encode true .rne (maxV a b)) s)

/-- Table 4-5 VMIN. -/
def execVmin (sl : Slot) (p : Nat) (ty : VTy) (vd va vb : Nat) (s : State) : Host.Outcome State Fault Refusal :=
  .next (lane2 sl p 2 ty vd va vb (fun a b => ty.fmt.encode true .rne (minV a b)) s)

/-- Table 4-5 VFMA: vd := vd + va * vb, rounded once. -/
def execVfma (sl : Slot) (p : Nat) (ty : VTy) (vd va vb : Nat) (s : State) : Host.Outcome State Fault Refusal :=
  .next (vecField s sl p [] [vd, va, vb] 4 [vd] fun l s =>
    let rs := ((valsOf ty (l.snap.v vd)).zip ((valsOf ty (l.snap.v va)).zip (valsOf ty (l.snap.v vb)))).map
      fun x => fmaLane ty.fmt x.1 x.2.1 x.2.2
    putV s sl.core 4 vd (packV ty.w (rs.map (·.1))) (l.snap.vp va || l.snap.vp vb || l.snap.vp vd) (flagsOf rs))

/-- Table 4-5 VABS. -/
def execVabs (sl : Slot) (p : Nat) (ty : VTy) (vd va : Nat) (s : State) : Host.Outcome State Fault Refusal :=
  .next (lane1 sl p 2 ty vd va (fun a => ty.fmt.encode true .rne a.abs) s)

/-- Table 4-5 VNEG. -/
def execVneg (sl : Slot) (p : Nat) (ty : VTy) (vd va : Nat) (s : State) : Host.Outcome State Fault Refusal :=
  .next (lane1 sl p 2 ty vd va (fun a => ty.fmt.encode true .rne a.neg) s)

/-- Table 4-5 VEXP. -/
def execVexp (sl : Slot) (p : Nat) (ty : VTy) (vd va : Nat) (s : State) : Host.Outcome State Fault Refusal :=
  .next (lane1 sl p 6 ty vd va (fun a => roundF ty.fmt (expV a)) s)

/-- Table 4-5 VRCP. -/
def execVrcp (sl : Slot) (p : Nat) (ty : VTy) (vd va : Nat) (s : State) : Host.Outcome State Fault Refusal :=
  .next (lane1 sl p 6 ty vd va (fun a => roundF ty.fmt (rcpV a)) s)

/-- Table 4-5 VRSQ. -/
def execVrsq (sl : Slot) (p : Nat) (ty : VTy) (vd va : Nat) (s : State) : Host.Outcome State Fault Refusal :=
  .next (lane1 sl p 6 ty vd va (fun a => roundF ty.fmt (rsqV a)) s)

/-- An entry of the table store: FP32 base in the low half, FP32 slope in the high half (R105). -/
def tableEntry (k : Core) (i : Nat) : BitVec 64 := tget 0 k.table i

/-- Flags of an operation on operands (R46): where one is NaN or infinite nx, uf and of stay clear, where one is NaN nv too. -/
def opFlags (vs : List Val) (fl : Fl) : Fl :=
  if vs.any Val.isNan then fl &&& flDz else if vs.all Val.isFin then fl else fl &&& (flNv ||| flDz)

/-- VTAB of one lane (R105): the result, its flags and the entry it reads. -/
def tabLane (k : Core) (f : FFmt) (lo inv x : Val) : Nat × Fl × Option Nat :=
  let (d, f1) := roundV fp32 (sumV [x, lo.neg])
  let dv := fp32.decode d
  let (u, f2) := roundV fp32 (mulV dv inv)
  let uv := fp32.decode u
  let fl := f1 ||| f2
  match uv with
  | .nan => let (r, g) := f.encode true .rne .nan; (r, opFlags [x, lo, inv] (fl ||| g), none)
  | _ =>
    let (i, fr) : Nat × Val :=
      if ltV false uv (.fin false 0 0) then (0, .fin false 0 0)
      else if !(ltV false uv (.fin false 256 0)) then (255, .fin false 1 0)
      else
        match uv with
        | .fin n m e =>
          let i := if 0 ≤ e then m * 2 ^ e.toNat else m / 2 ^ (-e).toNat
          (i, sumFin [.fin n m e, .fin true i 0])
        | w => (0, w)
    let e := tableEntry k i
    let base := fp32.decode (e.toNat % 2 ^ 32)
    let slope := fp32.decode (e.toNat / 2 ^ 32)
    let (r, g) := fmaLane f base slope fr
    (r, opFlags [x, lo, inv, base, slope] (fl ||| g), some i)

/-- R105: VTAB interpolates each lane from the table store; a poisoned entry poisons vd. -/
def execVtab (sl : Slot) (p : Nat) (ty : VTy) (vd va vb : Nat) (s : State) : Host.Outcome State Fault Refusal :=
  .next (vecField s sl p [] [vd, va, vb] 6 [vd] fun l s =>
    let k := l.snap
    let par := valsOf .f32 (k.v vb)
    let lo := (par[0]?).getD .nan
    let inv := (par[1]?).getD .nan
    let rs := (valsOf ty (k.v va)).map (tabLane k ty.fmt lo inv)
    let bad := rs.any fun r => match r.2.2 with | some i => tget false k.tablePsn i | none => false
    putV s sl.core 6 vd (packV ty.w (rs.map (·.1))) (k.vp va || k.vp vb || bad)
      (rs.foldl (fun f r => f ||| r.2.1) flNone))

/-- R104, R105: VTWR writes the 8 pairs of va to entries 8 grp to 8 grp + 7, with the tag of va. -/
def execVtwr (sl : Slot) (p va grp : Nat) (s : State) : Host.Outcome State Fault Refusal :=
  .next (vecField s sl p [] [va] 2 [] fun l s =>
    let k := l.snap
    pushLate s sl.core 2 { due := 0, table := (List.range 8).map fun j =>
      (8 * grp + j, BitVec.ofNat 64 (bitsAt (k.v va).toNat 64 j), k.vp va) })

/-- Table 4-5 VRSUM: the exact sum of the lanes, rounded once, in lane 0; the other lanes +0. -/
def execVrsum (sl : Slot) (p : Nat) (ty : VTy) (vd va : Nat) (s : State) : Host.Outcome State Fault Refusal :=
  .next (vecField s sl p [] [vd, va] 5 [vd] fun l s =>
    let r := roundV ty.fmt (sumV (valsOf ty (l.snap.v va)))
    putV s sl.core 5 vd (packV ty.w [r.1]) (l.snap.vp va) r.2)

/-- Table 4-5 VRMAX. -/
def execVrmax (sl : Slot) (p : Nat) (ty : VTy) (vd va : Nat) (s : State) : Host.Outcome State Fault Refusal :=
  .next (vecField s sl p [] [vd, va] 5 [vd] fun l s =>
    let m := match valsOf ty (l.snap.v va) with
      | [] => .nan
      | v :: vs => vs.foldl maxV v
    let r := ty.fmt.encode true .rne m
    putV s sl.core 5 vd (packV ty.w [r.1]) (l.snap.vp va) r.2)

/-- A bitwise operation on 512 bits (R104). -/
def bitwise (sl : Slot) (p vd va vb : Nat) (f : Vec → Vec → Vec) (s : State) : State :=
  vecField s sl p [] [vd, va, vb] 2 [vd] fun l s =>
    putV s sl.core 2 vd (f (l.snap.v va) (l.snap.v vb)) (l.snap.vp va || l.snap.vp vb) flNone

def execVand (sl : Slot) (p vd va vb : Nat) (s : State) : Host.Outcome State Fault Refusal :=
  .next (bitwise sl p vd va vb (fun x y => x &&& y) s)
def execVor (sl : Slot) (p vd va vb : Nat) (s : State) : Host.Outcome State Fault Refusal :=
  .next (bitwise sl p vd va vb (fun x y => x ||| y) s)
def execVxor (sl : Slot) (p vd va vb : Nat) (s : State) : Host.Outcome State Fault Refusal :=
  .next (bitwise sl p vd va vb (fun x y => x ^^^ y) s)

/-- Table 4-5 VMOV: vd := va. -/
def execVmov (sl : Slot) (p vd va : Nat) (s : State) : Host.Outcome State Fault Refusal :=
  .next (vecField s sl p [] [vd, va] 2 [vd] fun l s => putV s sl.core 2 vd (l.snap.v va) (l.snap.vp va) flNone)

/-- Table 4-5 VCMPLT: -0 and +0 compare equal, NaN compares false. -/
def execVcmplt (sl : Slot) (p : Nat) (ty : VTy) (vd va vb : Nat) (s : State) : Host.Outcome State Fault Refusal :=
  .next (lane2 sl p 2 ty vd va vb (fun a b => (if ltV false a b then 2 ^ ty.w - 1 else 0, flNone)) s)

/-- Table 4-5 VSEL: lane of vd := va where the lane of vb is non-zero. A lane that holds -0 is non-zero, since any bit of it is set:
DESIGN CHOICE, the manual does not say whether its value counts (log entry 83). -/
def execVsel (sl : Slot) (p : Nat) (ty : VTy) (vd va vb : Nat) (s : State) : Host.Outcome State Fault Refusal :=
  .next (vecField s sl p [] [vd, va, vb] 2 [vd] fun l s =>
    let k := l.snap
    let xs := ((lanesOf ty (k.v vd)).zip ((lanesOf ty (k.v va)).zip (lanesOf ty (k.v vb)))).map fun x =>
      if x.2.2 = 0 then x.1 else x.2.1
    putV s sl.core 2 vd (packV ty.w xs) (k.vp vd || k.vp va || k.vp vb) flNone)

/-- Table 4-5 VBC: every lane := lane l of va. -/
def execVbc (sl : Slot) (p : Nat) (ty : VTy) (vd va lane : Nat) (s : State) : Host.Outcome State Fault Refusal :=
  .next (vecField s sl p [] [vd, va] 2 [vd] fun l s =>
    let x := bitsAt (l.snap.v va).toNat ty.w lane
    putV s sl.core 2 vd (packV ty.w (List.replicate ty.n x)) (l.snap.vp va) flNone)

/-- Table 4-5 VBCS: every lane := the low bits of scalar register sa. -/
def execVbcs (sl : Slot) (p : Nat) (ty : VTy) (vd sa : Nat) (s : State) : Host.Outcome State Fault Refusal :=
  .next (vecField s sl p [sa] [vd] 2 [vd] fun l s =>
    putV s sl.core 2 vd (packV ty.w (List.replicate ty.n ((l.snap.s sa).toNat % 2 ^ ty.w))) false flNone)

/-! Conversions (R41 to R46). -/

/-- One element to a destination code (Table 2-6). -/
def convElem (code : Nat) (sat : Bool) (md : RMode) (v : Val) : Nat × Fl :=
  match code with
  | 0x08 => toInt 8 (-128) 127 0 v
  | 0x09 => toInt 4 (-8) 7 0 v
  | _ =>
    match floatOf code with
    | some f => f.encode sat md v
    | none => (0, flNone)

/-- Elements in lane order, each drawing its generator step (R43, R44). -/
def convElems (code : Nat) (sat : Bool) : Gen → List Val → List (Nat × Fl) × Gen
  | g, [] => ([], g)
  | g, v :: vs =>
    let (md, g1) := g.draw
    let (rs, g2) := convElems code sat g1 vs
    (convElem code sat md v :: rs, g2)

/-- FP8, FP6 and FP4 destinations, on which CORE_CVT.srdef acts (R42). -/
def srDest (code : Nat) : Bool := decide (3 ≤ code ∧ code ≤ 7)

/-- The generator of a conversion: stochastic when rnd says so, or by default for the destinations of R42. -/
def genOf (s : State) (c rnd : Nat) (isSr : Bool) : Gen :=
  ⟨isSr && (rnd == 2 || (rnd == 0 && rb s (fCoreCvt_srdef c))), srState s c⟩

/-- The generator state after a conversion; it advances only on stochastic conversions (R44). -/
def putGen (s : State) (c : Nat) (g : Gen) : State := if g.sr then setSrState s c g.st else s

/-- CVT.F32, CVT.BF16 and CVT.F16: va from its type to dst; a widening to FP32 takes the half rnd of va (R104). -/
def convert (sl : Slot) (p : Nat) (src : VTy) (vd va dst rnd : Nat) (s : State) : State :=
  vecField s sl p [] [vd, va] 3 [vd] fun l s =>
    let all := valsOf src (l.snap.v va)
    let wide := dst == 0 && src != .f32
    let vs := if wide then (all.drop (16 * rnd)).take 16 else all
    let g := if wide then ⟨false, 0⟩ else genOf s sl.core rnd (srDest dst)
    let (rs, g) := convElems dst (rb s (fCoreCvt_sat sl.core)) g vs
    putGen (putV s sl.core 3 vd (packV (elemBits dst) (rs.map (·.1))) (l.snap.vp va) (flagsOf rs)) sl.core g

def execCvtF32 (sl : Slot) (p vd va dst rnd : Nat) (s : State) : Host.Outcome State Fault Refusal :=
  .next (convert sl p .f32 vd va dst rnd s)
def execCvtBf16 (sl : Slot) (p vd va dst rnd : Nat) (s : State) : Host.Outcome State Fault Refusal :=
  .next (convert sl p .bf16 vd va dst rnd s)
def execCvtF16 (sl : Slot) (p vd va dst rnd : Nat) (s : State) : Host.Outcome State Fault Refusal :=
  .next (convert sl p .f16 vd va dst rnd s)

/-- CVT.I32: INT32 lanes to FP32, nearest even. -/
def execCvtI32 (sl : Slot) (p vd va : Nat) (s : State) : Host.Outcome State Fault Refusal :=
  .next (vecField s sl p [] [vd, va] 3 [vd] fun l s =>
    let rs := (unpackBits (l.snap.v va).toNat 32 16).map fun x => fp32.encode true .rne (elemVal 0x13 x)
    putV s sl.core 3 vd (packV 32 (rs.map (·.1))) (l.snap.vp va) (flagsOf rs))

/-- UNPKq: elements from index q times lanes; those beyond byte 63 read zero (R105). A 6-bit element that lies partly beyond byte 63,
element 85, keeps its two low bits from byte 63 and has zeros above: DESIGN CHOICE, the manual speaks of whole elements (log entry 83). -/
def execUnpk (sl : Slot) (p q vd va src : Nat) (ty : VTy) (s : State) : Host.Outcome State Fault Refusal :=
  .next (vecField s sl p [] [vd, va] 3 [vd] fun l s =>
    let w := elemBits src
    let xs := unpackBits ((l.snap.v va).toNat / 2 ^ (w * (q * ty.n))) w ty.n
    let rs := xs.map fun x => ty.fmt.encode true .rne (elemVal src x)
    putV s sl.core 3 vd (packV ty.w (rs.map (·.1))) (l.snap.vp va) (flagsOf rs))

/-- An MX block in a register: elements from byte 0, scale in byte 63 (R105). -/
def mxRegister (code : Nat) (xs : List Nat) (X : Nat) : Vec :=
  BitVec.ofNat 512 (packBits (elemBits code) xs + X * 2 ^ 504)

/-- MXP: an MX block from 32 values by R34. -/
def mxPackTo (s : State) (c vd code rnd : Nat) (vs : List Val) (psn : Bool) : State :=
  let (xs, X, fl, g) := mxPack code (genOf s c rnd (code != 0x0F)) vs
  putGen (putV s c 4 vd (mxRegister code xs X) psn fl) c g

def execMxpF32 (sl : Slot) (p vd va code rnd : Nat) (s : State) : Host.Outcome State Fault Refusal :=
  .next (vecField s sl p [] [vd, va, va + 1] 4 [vd] fun l s =>
    mxPackTo s sl.core vd code rnd (valsOf .f32 (l.snap.v va) ++ valsOf .f32 (l.snap.v (va + 1)))
      (l.snap.vp va || l.snap.vp (va + 1)))
def execMxpF16 (sl : Slot) (p vd va code rnd : Nat) (s : State) : Host.Outcome State Fault Refusal :=
  .next (vecField s sl p [] [vd, va] 4 [vd] fun l s =>
    mxPackTo s sl.core vd code rnd (valsOf .f16 (l.snap.v va)) (l.snap.vp va))
def execMxpBf16 (sl : Slot) (p vd va code rnd : Nat) (s : State) : Host.Outcome State Fault Refusal :=
  .next (vecField s sl p [] [vd, va] 4 [vd] fun l s =>
    mxPackTo s sl.core vd code rnd (valsOf .bf16 (l.snap.v va)) (l.snap.vp va))

/-- MXU: the MX block in va to 32 lanes; FP32 writes vd and vd + 1 (R33, R41). -/
def execMxu (sl : Slot) (p vd va code : Nat) (ty : VTy) (s : State) : Host.Outcome State Fault Refusal :=
  .next (vecField s sl p [] (if ty = .f32 then [vd, vd + 1, va] else [vd, va]) 4 (if ty = .f32 then [vd, vd + 1] else [vd]) fun l s =>
    let x := (l.snap.v va).toNat
    let X := x / 2 ^ 504
    let rs := (unpackBits x (elemBits code) 32).map fun e => ty.fmt.encode true .rne (mxVal code e X)
    let psn := l.snap.vp va
    let xs := rs.map (·.1)
    if ty = .f32 then
      pushLate s sl.core 4 { due := 0, vregs := [(vd, some (packV 32 (xs.take 16), psn)), (vd + 1, some (packV 32 (xs.drop 16), psn))]
                             fl := flagsOf rs }
    else putV s sl.core 4 vd (packV 16 xs) psn (flagsOf rs))

/-! Tree mask (R184). -/

/-- Nodes found well formed so far, in index order: node i of parent byte b. -/
def treeOk (ok : List Bool) (i b : Nat) : Bool :=
  if b = 0xFF then true
  else if 0x40 ≤ b then false
  else decide (b < i) && (ok[b]?).getD false

/-- Well-formed nodes of a parent vector. -/
def treeNodes (bs : List Nat) : List Bool := bs.foldl (fun ok b => ok ++ [treeOk ok ok.length b]) []

/-- Nodes on the path from a node to the root. -/
def treePath (bs : List Nat) : Nat → Nat → List Nat
  | 0, _ => []
  | n + 1, r =>
    let b := (bs[r]?).getD 0xFF
    if b = 0xFF then [r] else r :: treePath bs n b

/-- VTMASK: the lanes of group k for query node r, and whether any node is malformed. -/
def treeMask (ty : VTy) (parents query : Nat) : List Nat × Bool :=
  let bs := unpackBits parents 8 64
  let ok := treeNodes bs
  let r := query % 64
  let k := query / 64 % 4
  let path := if (ok[r]?).getD false then treePath bs 64 r else []
  ((List.range ty.n).map fun l =>
      let n := ty.n * k + l
      if n < 64 && path.contains n then 2 ^ ty.w - 1 else 0,
   (bs.zip ok).any fun x => !x.2 && x.1 != 0xFE)

/-- R184: VTMASK builds a tree attention mask; a malformed node sets nv once. -/
def execVtmask (sl : Slot) (p vd va vb : Nat) (ty : VTy) (s : State) : Host.Outcome State Fault Refusal :=
  .next (vecField s sl p [] [vd, va, vb] 3 [vd] fun l s =>
    let (xs, bad) := treeMask ty (l.snap.v va).toNat ((l.snap.v vb).toNat % 256)
    putV s sl.core 3 vd (packV ty.w xs) (l.snap.vp va || l.snap.vp vb) (if bad then flNv else flNone))

end Sys2Proof.Machine
end

