-- ==== Sys2Proof/Machine/Dispatch.lean ====
section
/-! DEFINITION. The meaning of every command, one arm per constructor of Instr. -/
namespace Sys2Proof.Machine

/-- What a command does to everything but the queue. -/
def exec (i : Instr) (s : State) : Host.Outcome State Fault Refusal :=
  match i with
  | .cmdNop q seq => Sys2Proof.Machine.execCmdNop q seq s
  | .copy q seq => Sys2Proof.Machine.execCopy q seq s
  | .copy2d q seq => Sys2Proof.Machine.execCopy2d q seq s
  | .fill q seq => Sys2Proof.Machine.execFill q seq s
  | .zero q seq => Sys2Proof.Machine.execZero q seq s
  | .prefetch q seq => Sys2Proof.Machine.execPrefetch q seq s
  | .adviseWriteback q seq => Sys2Proof.Machine.execAdviseWriteback q seq s
  | .adviseDrop q seq => Sys2Proof.Machine.execAdviseDrop q seq s
  | .adviseTranslate q seq => Sys2Proof.Machine.execAdviseTranslate q seq s
  | .loadProgram q seq => Sys2Proof.Machine.execLoadProgram q seq s
  | .loadSchedule q seq => Sys2Proof.Machine.execLoadSchedule q seq s
  | .loadCodebook q seq => Sys2Proof.Machine.execLoadCodebook q seq s
  | .runSteps q seq => Sys2Proof.Machine.execRunSteps q seq s
  | .hold q seq => Sys2Proof.Machine.execHold q seq s
  | .release q seq => Sys2Proof.Machine.execRelease q seq s
  | .fence q seq => Sys2Proof.Machine.execFence q seq s
  | .abort q seq => Sys2Proof.Machine.execAbort q seq s
  | .kvCommit q seq => Sys2Proof.Machine.execKvCommit q seq s
  | .digest q seq => Sys2Proof.Machine.execDigest q seq s
  | .selfTest q seq => Sys2Proof.Machine.execSelfTest q seq s
  | .setClass q seq => Sys2Proof.Machine.execSetClass q seq s
  | .partitionAssign q seq => Sys2Proof.Machine.execPartitionAssign q seq s
  | .partitionDissolve q seq => Sys2Proof.Machine.execPartitionDissolve q seq s
  | .keyGenerate q seq => Sys2Proof.Machine.execKeyGenerate q seq s
  | .keyDestroy q seq => Sys2Proof.Machine.execKeyDestroy q seq s
  | .readTelemetry q seq => Sys2Proof.Machine.execReadTelemetry q seq s
  | .resetUnitCore q seq => Sys2Proof.Machine.execResetUnitCore q seq s
  | .resetUnitCluster q seq => Sys2Proof.Machine.execResetUnitCluster q seq s
  | .resetUnitPartition q seq => Sys2Proof.Machine.execResetUnitPartition q seq s
  | .resetUnitCopyEngine q seq => Sys2Proof.Machine.execResetUnitCopyEngine q seq s
  | .resetUnitFabricSegment q seq => Sys2Proof.Machine.execResetUnitFabricSegment q seq s
  | .resetUnitLinkPort q seq => Sys2Proof.Machine.execResetUnitLinkPort q seq s
  | .unitResetComplete kind idx => Sys2Proof.Machine.execUnitResetComplete kind idx s
  | .segmentDrainTimeout idx => Sys2Proof.Machine.execSegmentDrainTimeout idx s
  | .entryFetch q pkt => Sys2Proof.Machine.execEntryFetch q pkt s
  | .replyWrite q => Sys2Proof.Machine.execReplyWrite q s
  | .tileComplete e ecc => Sys2Proof.Machine.execTileComplete e ecc s
  | .ctrlNop sl g => Sys2Proof.Machine.execCtrlNop sl g s
  | .loopi sl g n count => Sys2Proof.Machine.execLoopi sl g n count s
  | .loopr sl g n sa => Sys2Proof.Machine.execLoopr sl g n sa s
  | .br sl g target => Sys2Proof.Machine.execBr sl g target s
  | .jr sl g sa => Sys2Proof.Machine.execJr sl g sa s
  | .waitf sl g keep f => Sys2Proof.Machine.execWaitf sl g keep f s
  | .endstep sl g => Sys2Proof.Machine.execEndstep sl g s
  | .brk sl g => Sys2Proof.Machine.execBrk sl g s
  | .setp sl g pd cmp sa sb => Sys2Proof.Machine.execSetp sl g pd cmp sa sb s
  | .plog sl g pd fn pa pb => Sys2Proof.Machine.execPlog sl g pd fn pa pb s
  | .movi sl g sd imm => Sys2Proof.Machine.execMovi sl g sd imm s
  | .addi sl g sd imm => Sys2Proof.Machine.execAddi sl g sd imm s
  | .add sl g sd sa sb => Sys2Proof.Machine.execAdd sl g sd sa sb s
  | .sub sl g sd sa sb => Sys2Proof.Machine.execSub sl g sd sa sb s
  | .mul sl g sd sa sb => Sys2Proof.Machine.execMul sl g sd sa sb s
  | .and sl g sd sa sb => Sys2Proof.Machine.execAnd sl g sd sa sb s
  | .or sl g sd sa sb => Sys2Proof.Machine.execOr sl g sd sa sb s
  | .xor sl g sd sa sb => Sys2Proof.Machine.execXor sl g sd sa sb s
  | .shl sl g sd sa sb => Sys2Proof.Machine.execShl sl g sd sa sb s
  | .shr sl g sd sa sb => Sys2Proof.Machine.execShr sl g sd sa sb s
  | .sra sl g sd sa sb => Sys2Proof.Machine.execSra sl g sd sa sb s
  | .min sl g sd sa sb => Sys2Proof.Machine.execMin sl g sd sa sb s
  | .max sl g sd sa sb => Sys2Proof.Machine.execMax sl g sd sa sb s
  | .aaddi sl g ad imm => Sys2Proof.Machine.execAaddi sl g ad imm s
  | .amov sl g ad sa => Sys2Proof.Machine.execAmov sl g ad sa s
  | .smova sl g sd aa => Sys2Proof.Machine.execSmova sl g sd aa s
  | .rds sl g sd sel => Sys2Proof.Machine.execRds sl g sd sel s
  | .feedCm sl arr a words inc fmt => Sys2Proof.Machine.execFeedCm sl arr a words inc fmt s
  | .feedLs sl arr a words inc fmt => Sys2Proof.Machine.execFeedLs sl arr a words inc fmt s
  | .feedV sl arr vbase n fmt => Sys2Proof.Machine.execFeedV sl arr vbase n fmt s
  | .feedMesh sl arr n fmt => Sys2Proof.Machine.execFeedMesh sl arr n fmt s
  | .loadsCm sl arr a inc sf tf => Sys2Proof.Machine.execLoadsCm sl arr a inc sf tf s
  | .loadsLs sl arr a inc sf tf => Sys2Proof.Machine.execLoadsLs sl arr a inc sf tf s
  | .loadsV sl arr vbase sf tf => Sys2Proof.Machine.execLoadsV sl arr vbase sf tf s
  | .stationaryLoadStart core arr => Sys2Proof.Machine.execStationaryLoadStart core arr s
  | .iss sl arr n => Sys2Proof.Machine.execIss sl arr n s
  | .pass sl arr n => Sys2Proof.Machine.execPass sl arr n s
  | .pre sl arr v => Sys2Proof.Machine.execPre sl arr v s
  | .drain sl arr v => Sys2Proof.Machine.execDrain sl arr v s
  | .discard sl arr => Sys2Proof.Machine.execDiscard sl arr s
  | .arrayVectorIssue core arr => Sys2Proof.Machine.execArrayVectorIssue core arr s
  | .drainFire core arr upset => Sys2Proof.Machine.execDrainFire core arr upset s
  | .vnop sl p => Sys2Proof.Machine.execVnop sl p s
  | .vadd sl p ty vd va vb => Sys2Proof.Machine.execVadd sl p ty vd va vb s
  | .vsub sl p ty vd va vb => Sys2Proof.Machine.execVsub sl p ty vd va vb s
  | .vmul sl p ty vd va vb => Sys2Proof.Machine.execVmul sl p ty vd va vb s
  | .vfma sl p ty vd va vb => Sys2Proof.Machine.execVfma sl p ty vd va vb s
  | .vmax sl p ty vd va vb => Sys2Proof.Machine.execVmax sl p ty vd va vb s
  | .vmin sl p ty vd va vb => Sys2Proof.Machine.execVmin sl p ty vd va vb s
  | .vabs sl p ty vd va => Sys2Proof.Machine.execVabs sl p ty vd va s
  | .vneg sl p ty vd va => Sys2Proof.Machine.execVneg sl p ty vd va s
  | .vexp sl p ty vd va => Sys2Proof.Machine.execVexp sl p ty vd va s
  | .vrcp sl p ty vd va => Sys2Proof.Machine.execVrcp sl p ty vd va s
  | .vrsq sl p ty vd va => Sys2Proof.Machine.execVrsq sl p ty vd va s
  | .vtab sl p ty vd va vb => Sys2Proof.Machine.execVtab sl p ty vd va vb s
  | .vtwr sl p va grp => Sys2Proof.Machine.execVtwr sl p va grp s
  | .vrsum sl p ty vd va => Sys2Proof.Machine.execVrsum sl p ty vd va s
  | .vrmax sl p ty vd va => Sys2Proof.Machine.execVrmax sl p ty vd va s
  | .vand sl p vd va vb => Sys2Proof.Machine.execVand sl p vd va vb s
  | .vor sl p vd va vb => Sys2Proof.Machine.execVor sl p vd va vb s
  | .vxor sl p vd va vb => Sys2Proof.Machine.execVxor sl p vd va vb s
  | .vmov sl p vd va => Sys2Proof.Machine.execVmov sl p vd va s
  | .vcmplt sl p ty vd va vb => Sys2Proof.Machine.execVcmplt sl p ty vd va vb s
  | .vsel sl p ty vd va vb => Sys2Proof.Machine.execVsel sl p ty vd va vb s
  | .vbc sl p ty vd va l => Sys2Proof.Machine.execVbc sl p ty vd va l s
  | .vbcs sl p ty vd sa => Sys2Proof.Machine.execVbcs sl p ty vd sa s
  | .cvtF32 sl p vd va dst rnd => Sys2Proof.Machine.execCvtF32 sl p vd va dst rnd s
  | .cvtBf16 sl p vd va dst rnd => Sys2Proof.Machine.execCvtBf16 sl p vd va dst rnd s
  | .cvtF16 sl p vd va dst rnd => Sys2Proof.Machine.execCvtF16 sl p vd va dst rnd s
  | .cvtI32 sl p vd va => Sys2Proof.Machine.execCvtI32 sl p vd va s
  | .unpk sl p q vd va src ty => Sys2Proof.Machine.execUnpk sl p q vd va src ty s
  | .mxpF32 sl p vd va code rnd => Sys2Proof.Machine.execMxpF32 sl p vd va code rnd s
  | .mxpF16 sl p vd va code rnd => Sys2Proof.Machine.execMxpF16 sl p vd va code rnd s
  | .mxpBf16 sl p vd va code rnd => Sys2Proof.Machine.execMxpBf16 sl p vd va code rnd s
  | .mxu sl p vd va code ty => Sys2Proof.Machine.execMxu sl p vd va code ty s
  | .vtmask sl p vd va vb ty => Sys2Proof.Machine.execVtmask sl p vd va vb ty s
  | .vld sl p v a inc off => Sys2Proof.Machine.execVld sl p v a inc off s
  | .vst sl p v a inc off => Sys2Proof.Machine.execVst sl p v a inc off s
  | .sld sl p r a off => Sys2Proof.Machine.execSld sl p r a off s
  | .sst sl p r a off => Sys2Proof.Machine.execSst sl p r a off s
  | .send sl p v ch => Sys2Proof.Machine.execSend sl p v ch s
  | .sigf sl p k f => Sys2Proof.Machine.execSigf sl p k f s
  | .req sl p v f => Sys2Proof.Machine.execReq sl p v f s
  | .creditReturn core => Sys2Proof.Machine.execCreditReturn core s
  | .partitionHoldStart p => Sys2Proof.Machine.execPartitionHoldStart p s
  | .partitionHoldEnd p => Sys2Proof.Machine.execPartitionHoldEnd p s
  | .stepBoundary p => Sys2Proof.Machine.execStepBoundary p s
  | .boundaryLoadsDone p => Sys2Proof.Machine.execBoundaryLoadsDone p s
  | .scheduleEntryEnd cl => Sys2Proof.Machine.execScheduleEntryEnd cl s
  | .laneFlitArrival cl lane err => Sys2Proof.Machine.execLaneFlitArrival cl lane err s
  | .meshDelivery cl d => Sys2Proof.Machine.execMeshDelivery cl d s
  | .descriptorStart cl ecc => Sys2Proof.Machine.execDescriptorStart cl ecc s
  | .dmaCopy cl id ecc => Sys2Proof.Machine.execDmaCopy cl id ecc s
  | .tcopy cl id ecc => Sys2Proof.Machine.execTcopy cl id ecc s
  | .decode cl id ecc => Sys2Proof.Machine.execDecode cl id ecc s
  | .gather cl id ecc => Sys2Proof.Machine.execGather cl id ecc s
  | .scatter cl id ecc => Sys2Proof.Machine.execScatter cl id ecc s
  | .cbload cl id ecc => Sys2Proof.Machine.execCbload cl id ecc s
  | .cbswap cl id => Sys2Proof.Machine.execCbswap cl id s
  | .commit cl id => Sys2Proof.Machine.execCommit cl id s
  | .requestComplete cl id => Sys2Proof.Machine.execRequestComplete cl id s
  | .read rq ecc => Sys2Proof.Machine.execRead rq ecc s
  | .write rq fl ecc => Sys2Proof.Machine.execWrite rq fl ecc s
  | .writeMasked rq fl ecc => Sys2Proof.Machine.execWriteMasked rq fl ecc s
  | .zeroLine rq ecc => Sys2Proof.Machine.execZeroLine rq ecc s
  | .atomicAdd rq fl ecc => Sys2Proof.Machine.execAtomicAdd rq fl ecc s
  | .atomicMin rq fl ecc => Sys2Proof.Machine.execAtomicMin rq fl ecc s
  | .atomicMax rq fl ecc => Sys2Proof.Machine.execAtomicMax rq fl ecc s
  | .atomicSwap rq fl ecc => Sys2Proof.Machine.execAtomicSwap rq fl ecc s
  | .atomicCas rq fl ecc => Sys2Proof.Machine.execAtomicCas rq fl ecc s
  | .lineadd rq fl ecc => Sys2Proof.Machine.execLineadd rq fl ecc s
  | .sbPrefetch rq => Sys2Proof.Machine.execSbPrefetch rq s
  | .readData src dst tag off n last fl => Sys2Proof.Machine.execReadData src dst tag off n last fl s
  | .writeAck dst tag => Sys2Proof.Machine.execWriteAck dst tag s
  | .atomicResult dst tag imm => Sys2Proof.Machine.execAtomicResult dst tag imm s
  | .errorResponse dst tag addr code => Sys2Proof.Machine.execErrorResponse dst tag addr code s
  | .control src dst imm => Sys2Proof.Machine.execControl src dst imm s
  | .missSectorArrival sl line pasid sector ecc => Sys2Proof.Machine.execMissSectorArrival sl line pasid sector ecc s
  | .writebackAccepted sl line pasid ecc => Sys2Proof.Machine.execWritebackAccepted sl line pasid ecc s
  | .sideBufferExpiry sl line pasid => Sys2Proof.Machine.execSideBufferExpiry sl line pasid s
  | .nearRefresh e c bank busy => Sys2Proof.Machine.execNearRefresh e c bank busy s
  | .nearScrub e c busy ecc => Sys2Proof.Machine.execNearScrub e c busy ecc s
  | .nearCalibration on => Sys2Proof.Machine.execNearCalibration on s
  | .farRefresh pc busy => Sys2Proof.Machine.execFarRefresh pc busy s
  | .farScrub pc busy ecc => Sys2Proof.Machine.execFarScrub pc busy ecc s
  | .farCalibration on => Sys2Proof.Machine.execFarCalibration on s
  | .sliceScrub sl busy ecc => Sys2Proof.Machine.execSliceScrub sl busy ecc s
  | .deferralBudgetExpiry unit bank scrub ecc => Sys2Proof.Machine.execDeferralBudgetExpiry unit bank scrub ecc s
  | .inhibitTimeout e c seq => Sys2Proof.Machine.execInhibitTimeout e c seq s
  | .deferredDiscard e c => Sys2Proof.Machine.execDeferredDiscard e c s
  | .housekeepingRound temps inlet => Sys2Proof.Machine.execHousekeepingRound temps inlet s
  | .regulatorWindowEnd => Sys2Proof.Machine.execRegulatorWindowEnd s
  | .ringRead tag off crc => Sys2Proof.Machine.execRingRead tag off crc s
  | .ringWrite tag off data crc => Sys2Proof.Machine.execRingWrite tag off data crc s
  | .ringReadResponse tag data crc => Sys2Proof.Machine.execRingReadResponse tag data crc s
  | .ringWriteAcknowledge tag crc => Sys2Proof.Machine.execRingWriteAcknowledge tag crc s
  | .ringAlert station cause crc => Sys2Proof.Machine.execRingAlert station cause crc s
  | .ringBroadcastWrite tag off data crc => Sys2Proof.Machine.execRingBroadcastWrite tag off data crc s
  | .ringError tag station crc => Sys2Proof.Machine.execRingError tag station crc s
  | .ringRequestRetry tag => Sys2Proof.Machine.execRingRequestRetry tag s
  | .bar4Read id off n ecc => Sys2Proof.Machine.execBar4Read id off n ecc s
  | .bar4Write id off bytes psn ecc => Sys2Proof.Machine.execBar4Write id off bytes psn ecc s
  | .atsInvalidation id pasid va lg => Sys2Proof.Machine.execAtsInvalidation id pasid va lg s
  | .prgResponse idx ok => Sys2Proof.Machine.execPrgResponse idx ok s
  | .priTimeout idx => Sys2Proof.Machine.execPriTimeout idx s
  | .flr fn => Sys2Proof.Machine.execFlr fn s
  | .abortMarker p => Sys2Proof.Machine.execAbortMarker p s
  | .detour p order entry elems => Sys2Proof.Machine.execDetour p order entry elems s
  | .portRetrain p => Sys2Proof.Machine.execPortRetrain p s
  | .readyMarker p k pos => Sys2Proof.Machine.execReadyMarker p k pos s
  | .goMarker p k t => Sys2Proof.Machine.execGoMarker p k t s
  | .cascadeStepStart p => Sys2Proof.Machine.execCascadeStepStart p s
  | .devtimeBroadcast => Sys2Proof.Machine.execDevtimeBroadcast s
  | .devtimeMessage t => Sys2Proof.Machine.execDevtimeMessage t s
  | .linkWaitHold b j => Sys2Proof.Machine.execLinkWaitHold b j s
  | .linkWaitTimeout b j => Sys2Proof.Machine.execLinkWaitTimeout b j s
  | .linkPause b j => Sys2Proof.Machine.execLinkPause b j s
  | .linkResume b j => Sys2Proof.Machine.execLinkResume b j s
  | .serviceRequestTimeout src tag => Sys2Proof.Machine.execServiceRequestTimeout src tag s
  | .selfRestart => Sys2Proof.Machine.execSelfRestart s
  | .mailboxRetry => Sys2Proof.Machine.execMailboxRetry s
  | .powerCapCheck => Sys2Proof.Machine.execPowerCapCheck s
  | .floorReached p => Sys2Proof.Machine.execFloorReached p s
  | .domainWake d => Sys2Proof.Machine.execDomainWake d s
  | .domainWakeComplete d => Sys2Proof.Machine.execDomainWakeComplete d s
  | .domainAutoIdle d => Sys2Proof.Machine.execDomainAutoIdle d s
  | .traceFlush cl => Sys2Proof.Machine.execTraceFlush cl s
  | .pathMonitorSample slacks => Sys2Proof.Machine.execPathMonitorSample slacks s
  | .caveReplan slacks => Sys2Proof.Machine.execCaveReplan slacks s
  | .verticalPortRetrain cl spin spout width lanes => Sys2Proof.Machine.execVerticalPortRetrain cl spin spout width lanes s
  | .fieldTestBlock kind idx fail => Sys2Proof.Machine.execFieldTestBlock kind idx fail s
  | .fieldTestTimeout kind idx => Sys2Proof.Machine.execFieldTestTimeout kind idx s
  | .checkpointSeal k ok => Sys2Proof.Machine.execCheckpointSeal k ok s
  | .pfailDecide a b => Sys2Proof.Machine.execPfailDecide a b s
  | .relaySeen => Sys2Proof.Machine.execRelaySeen s
  | .refclkLoss => Sys2Proof.Machine.execRefclkLoss s
  | .stageAdvance rep => Sys2Proof.Machine.execStageAdvance rep s
  | .stepMarkerInput => Sys2Proof.Machine.execStepMarkerInput s
  | .telemetryStream => Sys2Proof.Machine.execTelemetryStream s
  | .phaseChangeComplete => Sys2Proof.Machine.execPhaseChangeComplete s
  | .registerWrite fn off w v => Sys2Proof.Machine.execRegisterWrite fn off w v s
  | .maintDone => Sys2Proof.Machine.execMaintDone s
  | .scratchChangeDone => Sys2Proof.Machine.execScratchChangeDone s
  | .scratchZeroingDone b => Sys2Proof.Machine.execScratchZeroingDone b s
  | .detourRegister e v elems => Sys2Proof.Machine.execDetourRegister e v elems s
  | .phaseRequest req casc => Sys2Proof.Machine.execPhaseRequest req casc s
  | .domainStateRequest d st => Sys2Proof.Machine.execDomainStateRequest d st s
  | .frameTransmit p => Sys2Proof.Machine.execFrameTransmit p s
  | .feederPush core arr => Sys2Proof.Machine.execFeederPush core arr s
  | .atsTranslationCompletion pasid va lg r w => Sys2Proof.Machine.execAtsTranslationCompletion pasid va lg r w s
  | .pcieLinkUp => Sys2Proof.Machine.execPcieLinkUp s
  | .pfailDiscrepancyEnd => Sys2Proof.Machine.execPfailDiscrepancyEnd s
  | .domainEntryComplete d => Sys2Proof.Machine.execDomainEntryComplete d s
  | .farGrantChangeDone b => Sys2Proof.Machine.execFarGrantChangeDone b s
  | .devtimeLowRead => Sys2Proof.Machine.execDevtimeLowRead s
  | .doorbellSqTail fn j v => Sys2Proof.Machine.execDoorbellSqTail fn j v s
  | .doorbellCqHead fn j v => Sys2Proof.Machine.execDoorbellCqHead fn j v s
  | .bar4Timeout id => Sys2Proof.Machine.execBar4Timeout id s
  | .configAccess fn off rq v => Sys2Proof.Machine.execConfigAccess fn off rq v s
  | .keyExchange x => Sys2Proof.Machine.execKeyExchange x s
  | .endSession sid => Sys2Proof.Machine.execEndSession sid s
  | .heartbeatLoss sid => Sys2Proof.Machine.execHeartbeatLoss sid s
  | .pqQuote sid => Sys2Proof.Machine.execPqQuote sid s
  | .setPolicy sid p dbg trc => Sys2Proof.Machine.execSetPolicy sid p dbg trc s
  | .ideKm sid stream => Sys2Proof.Machine.execIdeKm sid stream s
  | .lockInterfaceRequest sid n => Sys2Proof.Machine.execLockInterfaceRequest sid n s
  | .startInterfaceRequest sid n => Sys2Proof.Machine.execStartInterfaceRequest sid n s
  | .stopInterfaceRequest sid n => Sys2Proof.Machine.execStopInterfaceRequest sid n s
  | .portTraining p t => Sys2Proof.Machine.execPortTraining p t s
  | .errorRateGate p pass => Sys2Proof.Machine.execErrorRateGate p pass s
  | .frameReceive p x => Sys2Proof.Machine.execFrameReceive p x s
  | .signalLoss p => Sys2Proof.Machine.execSignalLoss p s
  | .firmwareTransfer p img last => Sys2Proof.Machine.execFirmwareTransfer p img last s
  | .mailboxTransfer src dst bytes crc ok => Sys2Proof.Machine.execMailboxTransfer src dst bytes crc ok s
  | .thermalModelTick net => Sys2Proof.Machine.execThermalModelTick net s
  | .sensorSample n t ok => Sys2Proof.Machine.execSensorSample n t ok s
  | .powerMeasure doms losses parts => Sys2Proof.Machine.execPowerMeasure doms losses parts s
  | .powerOn => Sys2Proof.Machine.execPowerOn s
  | .perstNAssert orderly => Sys2Proof.Machine.execPerstNAssert orderly s
  | .perstNRelease pos master fast saved => Sys2Proof.Machine.execPerstNRelease pos master fast saved s
  | .stageTimeout => Sys2Proof.Machine.execStageTimeout s
  | .cluCfgCommit cl v => Sys2Proof.Machine.execCluCfgCommit cl v s
  | .queueEnable fn j v => Sys2Proof.Machine.execQueueEnable fn j v s
  | .queueDisable fn j => Sys2Proof.Machine.execQueueDisable fn j s
  | .queueRelease fn j => Sys2Proof.Machine.execQueueRelease fn j s
  | .bar4WindowWrite v => Sys2Proof.Machine.execBar4WindowWrite v s
  | .maintInvalidate v => Sys2Proof.Machine.execMaintInvalidate v s
  | .maintFlush v => Sys2Proof.Machine.execMaintFlush v s
  | .maintCleanInv v => Sys2Proof.Machine.execMaintCleanInv v s
  | .maintPurgeKey v => Sys2Proof.Machine.execMaintPurgeKey v s
  | .scratchWaysWrite w => Sys2Proof.Machine.execScratchWaysWrite w s
  | .scratchGrantWrite b v => Sys2Proof.Machine.execScratchGrantWrite b v s
  | .farGrantWrite b v => Sys2Proof.Machine.execFarGrantWrite b v s
  | .sliceEnableWrite sl v => Sys2Proof.Machine.execSliceEnableWrite sl v s
  | .wayDisableWrite sl w => Sys2Proof.Machine.execWayDisableWrite sl w s
  | .wayEnableWrite sl w => Sys2Proof.Machine.execWayEnableWrite sl w s
  | .qosClassWrite p c v => Sys2Proof.Machine.execQosClassWrite p c v s
  | .qosWinWrite us => Sys2Proof.Machine.execQosWinWrite us s
  | .missQueueHeadWrite v => Sys2Proof.Machine.execMissQueueHeadWrite v s
  | .errorQueueHeadWrite v => Sys2Proof.Machine.execErrorQueueHeadWrite v s
  | .quarantineRequest p => Sys2Proof.Machine.execQuarantineRequest p s
  | .quarantineClear p => Sys2Proof.Machine.execQuarantineClear p s
  | .clockRequestWithdraw p => Sys2Proof.Machine.execClockRequestWithdraw p s
  | .testSweepEnable => Sys2Proof.Machine.execTestSweepEnable s
  | .debugHalt c => Sys2Proof.Machine.execDebugHalt c s
  | .debugResume c => Sys2Proof.Machine.execDebugResume c s
  | .debugStep c => Sys2Proof.Machine.execDebugStep c s
  | .debugDataWrite c v => Sys2Proof.Machine.execDebugDataWrite c v s
  | .srstateWrite c v => Sys2Proof.Machine.execSrstateWrite c v s
  | .caveReplanRequest => Sys2Proof.Machine.execCaveReplanRequest s
  | .mailboxSend => Sys2Proof.Machine.execMailboxSend s
  | .transitConfigWrite p v => Sys2Proof.Machine.execTransitConfigWrite p v s
  | .recoveryInstall v imgs => Sys2Proof.Machine.execRecoveryInstall v imgs s
  | .auditReadPointerWrite v => Sys2Proof.Machine.execAuditReadPointerWrite v s
  | .checkpointSelect k => Sys2Proof.Machine.execCheckpointSelect k s
  | .heartbeat sid => Sys2Proof.Machine.execHeartbeat sid s
  | .getMeasurements sid rq => Sys2Proof.Machine.execGetMeasurements sid rq s

end Sys2Proof.Machine
end

