-- ==== Sys2Proof/Machine/Tick.lean ====
section
/-! DEFINITION. What passes when no command waits (log entry 1): half a nanosecond, one cycle of the 2.0 GHz core clock. The partitions
that run make a core cycle when their clock does, and what falls due joins the queue as commands. -/
namespace Sys2Proof.Machine

/-! DEVTIME, operating seconds, the floor. -/

/-- DEVTIME counts at every second tick, or leaves one nanosecond out while it is slewed (R276); operating seconds follow. -/
def tickTime (s : State) : State :=
  if !s.half then { s with half := true }
  else
    let s := { s with half := false }
    if 0 < s.links.skip then { s with links := { s.links with skip := s.links.skip - 1 } }
    else
      let s := { s with devtime := s.devtime + 1 }
      if s.devtime.toNat % 10 ^ 9 = 0 then incSat s fMrgStat_opsec 1 else s

/-- R353: what F is raised to for a partition's start, resume or clock rise, if it waits for one. -/
def floorWanted (s : State) (p : Nat) : Option Nat :=
  match (s.part p).run with
  | none => none
  | some r =>
    let lim := rf s (fPwrPclk_lim p)
    let cur := rf s (fPwrPclk_cur p)
    if r.waitFloor then
      if (asleepDomains s p).isEmpty then some (floorTarget s p (startClk s p)) else none
    else if lim < cur && !(s.part p).rise then some (floorTarget s p (cur - 1))
    else none

/-- R353: F moves by 20 W per µs, 10 mW in a tick: up to what is wanted, else down to the load. -/
def tickFloor (s : State) : State :=
  if powerFailed s then s
  else
    let want := ((List.range 16).filterMap (floorWanted s)).foldl max 0
    let f := max s.pwr.floor s.pwr.load
    let f := if f < want then min want (f + 10) else max (max want s.pwr.load) (f - 10)
    { s with pwr := { s.pwr with floor := f } }

/-- R351: voltages on their way move by a millivolt where it is due. -/
def tickVolts (s : State) : State :=
  if s.half then s
  else s.pwr.slews.foldl (fun s e =>
    let x := e.2
    let mv := rf s (fPwrDomctl_mv e.1)
    if s.devtime.toNat < x.due then s
    else
      let mv := if mv < x.goal then mv + 1 else mv - 1
      let l := if mv = x.goal then terase s.pwr.slews e.1 else tset s.pwr.slews e.1 { x with due := x.due + x.period }
      hwf { s with pwr := { s.pwr with slews := l } } (fPwrDomctl_mv e.1) mv) s

/-- R365: trace of a domain that woke resumes once its clock selector has run stably for 1 µs. -/
def tickGaps (s : State) : State :=
  s.pwr.gapAt.foldl (fun s e =>
    if s.devtime.toNat < e.2 then s
    else (domClusters e.1).foldl traceGapOut { s with pwr := { s.pwr with gapAt := terase s.pwr.gapAt e.1 } }) s

/-! A core cycle of a partition. -/

/-- R322: what the code of a cluster's schedule table finds in the entry that comes into force: one that it cannot correct holds the
partition as a core fault does. -/
def tableFinds (s : State) (cl : Nat) : State :=
  let r := s.router cl
  let k := 65536 * cl + r.slot
  if s.upsets.table.isEmpty || decide (r.rem ≠ seRun (tget 0 r.sched r.slot) + 1) then s
  else
    match tget .ok s.upsets.table k with
    | .ok => s
    | .corrected => corrected { s with upsets := { s.upsets with table := terase s.upsets.table k } } (unitCluster cl) r.slot
    | _ =>
      let s := errEvent s .uncorrectable .uncorrectable (unitCluster cl) 0 r.slot 0
      match partOfCluster s cl with
      | some p => faultRun s p .uncorrectable
      | none => s

/-- R322: what the code of a core's instruction store finds in the bundle that it fetches: one that it cannot correct faults the core. -/
def fetchFinds (s : State) (c : Nat) : State :=
  let k := 65536 * c + (s.core c).pc
  if s.upsets.prog.isEmpty || !canIssue s c then s
  else
    let u := unitCluster (clusterOfCore c)
    match tget .ok s.upsets.prog k with
    | .ok => s
    | .corrected => corrected { s with upsets := { s.upsets with prog := terase s.upsets.prog k } } u (s.core c).pc
    | _ => coreFault (errEvent s .uncorrectable .uncorrectable u 0 (s.core c).pc 0) c .uncorrectable

/-- A router's cycle: its deliveries come a cycle nearer and its entry takes effect, where the cycle is not held; else its lanes keep
what they would have presented. -/
def routerTick (go inStep : Bool) (s : State) (cl : Nat) : State :=
  let r := s.router cl
  let s := if go then
      let s := s.setRouter cl r.dlvOn
      if !inStep || r.done || !r.has || decide (r.rem = 0) then pressRest s cl else routerCycle (tableFinds s cl) cl
    else s.setRouter cl r.heldLanes
  skidMark s cl

/-- Lane-flits on the segments into a router come a cycle nearer (R122). -/
def laneTick (s : State) (cl : Nat) : State :=
  let r := s.router cl
  s.setRouter cl { r with lanes := r.lanes.map fun e => (e.1, { e.2 with seg := e.2.seg.map fun x => (x.1 - 1, x.2) }) }

/-- The deliveries of a router that are due, in the order of R131. -/
def dlvCmds (s : State) (cl : Nat) : List Instr :=
  (s.router cl).dlv.flatMap fun e => (e.2.filter fun x => decide (x.due = 0)).map fun _ => .meshDelivery cl e.1

/-- R91: a core in a step whose program counter stands at or beyond its program's length. -/
def lateCounter (s : State) (c : Nat) : Bool :=
  let k := s.core c
  !k.ended && decide (rf s (fCorePlen_len c) ≤ k.pc) && ((corePart s c).map fun p => (s.part p).inStep).getD false

/-- The start of a cycle for a core: a program counter beyond its program faults it; its arrays take what they can (R103), or, where the cycle is held, a core whose hold is
outstanding counts it (Table 4-18). -/
def coreTick (go adv : Bool) (s : State) (c : Nat) : State :=
  let k := s.core c
  if adv then takeBoth (fetchFinds (if lateCounter s c then coreFault s c .invalid else s) c) c
  else if !go && (!k.waits.isEmpty || k.dbg) then incWrap s (fCoreHoldcnt_count c) 1
  else s

/-- What an array does in a cycle. -/
def arrCmds (c a : Nat) (x : Arr) : List Instr :=
  (if x.reqs.isEmpty || x.fq.isEmpty then [] else [.arrayVectorIssue c a]) ++
  (if x.load.isSome then [.stationaryLoadStart c a] else []) ++
  (if x.streams.isEmpty then [] else [.feederPush c a])

/-- The memory request of a core that was not served, as the command that presents it again (R107). -/
def againCmd (c : Nat) (r : MemReq) : Instr :=
  let sl : Slot := ⟨c, false, false⟩
  match r.op with
  | .vld => .vld sl 0 r.reg 0 false 0
  | .vst => .vst sl 0 r.reg 0 false 0
  | .sld => .sld sl 0 r.reg 0 0
  | .sst => .sst sl 0 r.reg 0 0

/-- What a core does in a cycle that is not held: credits on their way back, its arrays, then its bundle, or the request that was
not served. That is the order of its requests to a bank (R60). -/
def coreCmds (s : State) (c : Nat) : List Instr :=
  let k := s.core c
  (if k.returning.isEmpty then [] else [.creditReturn c]) ++ arrCmds c 0 k.arr0 ++ arrCmds c 1 k.arr1 ++
  (match k.mreq with
   | some r => if k.faulted then [] else [againCmd c r]
   | none => if canIssue s c then (bundleCmds c (tget 0 k.store k.pc)).getD [] else [])

/-- The cores of a cluster in the rotating order of R60. -/
def coreOrder (s : State) (p cl : Nat) : List Nat :=
  let m := (s.part p).m.toNat % 32
  (List.range 32).map fun i => 32 * cl + (m + i) % 32

/-- What reaches a router in a cycle: arrivals on its lanes, and its deliveries and its sequencer where the cycle is not held. -/
def routerCmds (go : Bool) (s : State) (cl : Nat) : List Instr :=
  let r := s.router cl
  (r.lanes.filterMap fun (e : Nat × Lane) =>
    match e.2.seg with
    | (0, _) :: _ => some (.laneFlitArrival cl e.1 0)
    | _ => none) ++
  (if !go then []
   else
     dlvCmds s cl ++
     (if r.has && !r.done && decide (r.rem = 0) then [.scheduleEntryEnd cl] else []))

/-- Changes of the hold line that reach the partition in this cycle: a rise holds it from now on, a fall to the end of the cycle
(R112). -/
def holdDue (x : Part) : List Bool := ((x.levels.zip x.leads).takeWhile fun e => decide (e.2 = 0)).map (·.1)

def holdCmds (p : Nat) (x : Part) : List Instr :=
  (holdDue x).map fun up => if up then .partitionHoldStart p else .partitionHoldEnd p

/-- Lanes of a partition's ports whose receive queues its schedule is about to run ahead of (R280). -/
def linkCmds (s : State) (p : Nat) : List Instr :=
  (portsOf s p).flatMap fun b => (List.range 4).filterMap fun j =>
    let g := gatewayLane b j
    if rxHeld s b j < takesAhead g.2 (holdLead s p) (s.router g.1) then some (.linkWaitHold b j) else none

/-- R90, R91, R112, R115, R118, R128: one core cycle of a running partition, once the one before is over. Cores and arrays advance
where it is not held, in a step and while a boundary's loads are written. The first held cycle after a core fault ends the run (R56). -/
def coreCycle (s : State) (p : Nat) : State :=
  let s := closeCycle s p
  let x := s.part p
  let x := if x.single && x.singleUsed then { x with single := false, singleUsed := false } else { x with singleUsed := x.single }
  let x := { x with leads := x.leads.map (· - 1), rc := x.rc + 1 }
  let held := x.held || (holdDue x).any id
  match (if held then x.fault else none) with
  | some st => endRun (s.setPart p x) p st
  | none =>
  let go := !held || x.single
  let adv := go && (x.inStep || x.loading)
  let s := s.setPart p { x with ran := adv, ranStep := adv && x.inStep
                                loadLeft := if go && x.loading then x.loadLeft - 1 else x.loadLeft }
  let cls := clustersOf s p
  let s := cls.foldl (routerTick go x.inStep) s
  let s := cls.foldl laneTick s
  let s := (coresOf s p).foldl (coreTick go adv) s
  let y := s.part p
  s.emit (holdCmds p x ++ cls.flatMap (routerCmds go s) ++
    (if adv then cls.flatMap fun cl => (coreOrder s p cl).flatMap (coreCmds s) else []) ++
    (if y.inStep && go then linkCmds s p else []) ++ (if stepDone s p then [.stepBoundary p] else []) ++
    (if y.loading && decide (y.loadLeft = 0) then [.boundaryLoadsDone p] else []))

/-- After a run its last cycle is over with the next tick, and what its routers still have to deliver goes on (R129). -/
def restTick (s : State) (p : Nat) : State :=
  let s := closeCycle s p
  let cls := (s.routers.filter fun r => r.2.dlv.any (fun e => !e.2.isEmpty) && decide (partOfCluster s r.1 = some p)).map (·.1)
  let s := cls.foldl (fun s cl => s.setRouter cl (s.router cl).dlvOn) s
  s.emit (cls.flatMap (dlvCmds s))

/-- A running partition makes clkRate of 20 core cycles in 20 ticks, once a change of its clock is over (R349, R350). -/
def partTick (s : State) (p : Nat) : State :=
  let x := s.part p
  if x.run.isNone then restTick s p
  else if 0 < x.dwell then s.setPart p { x with dwell := x.dwell - 1 }
  else
    let n := x.phase + clkRate (rf s (fPwrPclk_cur p))
    if n < 20 then s.setPart p { x with phase := n } else coreCycle (s.setPart p { x with phase := n - 20 }) p

/-! What falls due. -/

/-- Commands of the data movement that do not wait for a partition's clock. -/
def moveCmds (s : State) : List Instr :=
  (s.dmas.filterMap fun e => if canStart e.2 then some (.descriptorStart e.1 []) else none) ++
  (s.queues.filterMap fun (e : Nat × Queue) =>
    match e.2.entries with
    | x :: _ => if x.reply.isSome && !s.waiting.contains (.replyWrite e.1) then some (.replyWrite e.1) else none
    | [] => none) ++
  (s.trace.filterMap fun (e : Nat × TraceBuf) => if 512 ≤ e.2.recs.length then some (.traceFlush e.1) else none) ++
  (s.pwr.doms.filterMap fun (e : Nat × Dom) =>
    if e.2.waking && !wakeDue s e.1 e.2 then none else
    let c : Instr := if e.2.waking then .domainWakeComplete e.1 else .domainEntryComplete e.1
    if s.waiting.contains c then none else some c)

/-- Commands of partitions: a floor reached, the start of a cascade step, a link-wait too long. -/
def partCmds (s : State) (p : Nat) : List Instr :=
  let x := s.part p
  let now := s.devtime.toNat
  (match floorWanted s p with
   | some w => if w ≤ s.pwr.floor && !rb s (fPwrPclk_ramp p) then [.floorReached p] else []
   | none => []) ++
  (match x.goAt with
   | some t => if t ≤ now then [.cascadeStepStart p] else []
   | none => []) ++
  x.linkWait.filterMap fun w => if w.2.1 + 10 ^ 7 ≤ now then some (.linkWaitTimeout (w.1 / 4) (w.1 % 4)) else none

/-- Times that have run out at this nanosecond. -/
def dueCmds (s : State) : List Instr :=
  let now := s.devtime.toNat
  List.flatten [
    (if s.qos.fin ≤ now then [.regulatorWindowEnd] else []),
    (s.host.waits.filterMap fun (w : XWait) =>
      match w.phase with
      | .pri i => if w.sent + rf s fCmdPrito_ms * 10 ^ 6 ≤ now then some (.priTimeout i) else none
      | _ => none),
    (s.host.bar4.filterMap fun r => if r.sent + 20000 ≤ now then some (.bar4Timeout r.id) else none),
    (s.outReqs.filterMap fun o => if o.sent + reqLimit s o ≤ now then some (.serviceRequestTimeout o.src o.tag) else none),
    (s.sec.sessions.filterMap fun x => if x.seen + heartbeatLimit ≤ now then some (.heartbeatLoss x.id) else none),
    (s.ring.reqs.filterMap fun r => if r.bad || decide (r.sent + ringTwoCircuits ≤ now) then some (.ringRequestRetry r.tag) else none),
    (s.ftests.filterMap fun f => if f.start + 10 ^ 9 ≤ now then some (.fieldTestTimeout f.kind f.idx) else none),
    (s.rjobs.filterMap fun j => if j.kind = 4 ∧ j.start + 10 ^ 7 ≤ now then some (.segmentDrainTimeout j.idx) else none),
    (s.nears.flatMap fun (e : Nat × NearCh) =>
      match e.2.wq.find? fun w => decide (w.due ≤ now) with
      | some w =>
        if e.2.deferred then [.deferredDiscard (e.1 / 128) (e.1 % 128)]
        else if inhibited s e.1 then [.inhibitTimeout (e.1 / 128) (e.1 % 128) w.seq] else []
      | none => []),
    (s.slices.flatMap fun (e : Nat × BSlice) => e.2.side.filterMap fun y =>
      if y.came + rf s fSbfCfg_pfage * 1000 ≤ now then some (.sideBufferExpiry e.1 y.ln.line y.ln.pasid) else none),
    ((List.range 8).flatMap fun p =>
      (if rf s (fLnkPstat_state p) = 3 ∧ (linkPort s p).failedAt + 10 ^ 8 ≤ now then [.portRetrain p] else []) ++
      (if now % 16 = 0 && (portUp s p || (linkPort s p).sendDown) then [.frameTransmit p] else [])),
    (if rf s fBsePhase_cur = 1 ∧ s.boot.phaseAt ≤ now then [.phaseChangeComplete] else []),
    (if 1 ≤ rf s fBseBoot_stage ∧ rf s fBseBoot_stage < 10 ∧ s.boot.start + stageLimit (rf s fBseBoot_stage) * 10 ^ 6 ≤ now then
      [.stageTimeout] else []),
    (if now % 1000 = 0 then (List.range 100).filterMap fun d =>
      if rb s (fPwrDomctl_auto d) && decide (tget 0 s.pwr.used d + rf s (fPwrDomctl_idle d) * 1000 ≤ now) then
        some (.domainAutoIdle d) else none
     else []),
    (if now % 10 ^ 5 = 0 then [.powerCapCheck] else []),
    (if now % 10 ^ 6 = 0 then [.devtimeBroadcast] else []),
    (if now % 10 ^ 7 = 0 then [.telemetryStream] else [])]

/-- Each control message that a node holds is taken (R151). -/
def takeControl (s : State) : State :=
  { s with ctlq := s.ctlq.filterMap fun (e : Nat × List (BitVec 64)) =>
      match e.2 with
      | _ :: x :: r => some (e.1, x :: r)
      | _ => none }

/-- Grants of the regulators that have room behind them: free entries of a slice's miss table, a controller whose domain is on; and
outcomes that no unit asked for again are dropped. -/
def tickGrants (s : State) : State :=
  let s := { s with slices := s.slices.map fun (x : Nat × BSlice) => (x.1, if x.2.ready.isEmpty then x.2 else { x.2 with ready := [] }) }
  s.qos.pools.foldl (fun (s : State) (x : Nat × Pool) =>
    if x.1 < 32 then grants s x.1 (512 - (s.slice x.1).miss.length)
    else if rf s (fPwrDomctl_state (48 + x.1)) = 0 then grants s x.1 2048 else s) s

/-- One tick. Requests that wait are tried again at its end, ahead of what has fallen due. -/
def tick (s : State) : State :=
  let s := tickGrants (takeControl (tickGaps (tickVolts (tickFloor (tickTime (sendMsix (dropFailed (dropAsks { s with met := {} }))))))))
  let s := (List.range 16).foldl (fun s p => tellDebug (partTick s p) p) s
  let s := s.emit (moveCmds s ++ (List.range 16).flatMap (partCmds s) ++ if s.half then [] else dueCmds s)
  wake s

end Sys2Proof.Machine
end

