-- ==== Sys2Proof/Machine/Encode.lean ====
section
/-! DEFINITION. The words of a bundle's fields (Tables 4-1 to 4-6), written from the same tables as the decoder. Operand bits that
an operation does not use are 0. -/
namespace Sys2Proof.Machine

/-- A control field: guard, operation, operands (R95). -/
def ctlWord (g op o : Nat) : Nat := o + op * 2 ^ 15 + g * 2 ^ 20

/-- Operands sd, sa and sb of a control field. -/
def ops3 (sd sa sb : Nat) : Nat := sb + sa * 2 ^ 5 + sd * 2 ^ 10

/-- The control field of a command of Table 4-2; none of another. -/
def encodeControl : Instr → Option Nat
  | .ctrlNop _ g => some (ctlWord g 0x00 0)
  | .loopi _ g n count => some (ctlWord g 0x01 (count % 256 + (n - 1) * 2 ^ 8))
  | .loopr _ g n sa => some (ctlWord g 0x02 (sa + (n - 1) * 2 ^ 8))
  | .br _ g target => some (ctlWord g 0x03 target)
  | .jr _ g sa => some (ctlWord g 0x04 sa)
  | .waitf _ g keep f => some (ctlWord g 0x05 (f + bit keep * 2 ^ 5))
  | .endstep _ g => some (ctlWord g 0x06 0)
  | .brk _ g => some (ctlWord g 0x07 0)
  | .setp _ g pd cmp sa sb => some (ctlWord g 0x08 (sb + sa * 2 ^ 5 + cmp * 2 ^ 10 + pd * 2 ^ 12))
  | .plog _ g pd fn pa pb => some (ctlWord g 0x09 (pb * 2 ^ 4 + pa * 2 ^ 7 + fn * 2 ^ 10 + pd * 2 ^ 12))
  | .movi _ g sd imm => some (ctlWord g 0x0A (imm.toNat + sd * 2 ^ 10))
  | .addi _ g sd imm => some (ctlWord g 0x0B (imm.toNat + sd * 2 ^ 10))
  | .add _ g sd sa sb => some (ctlWord g 0x0C (ops3 sd sa sb))
  | .sub _ g sd sa sb => some (ctlWord g 0x0D (ops3 sd sa sb))
  | .mul _ g sd sa sb => some (ctlWord g 0x0E (ops3 sd sa sb))
  | .and _ g sd sa sb => some (ctlWord g 0x0F (ops3 sd sa sb))
  | .or _ g sd sa sb => some (ctlWord g 0x10 (ops3 sd sa sb))
  | .xor _ g sd sa sb => some (ctlWord g 0x11 (ops3 sd sa sb))
  | .shl _ g sd sa sb => some (ctlWord g 0x12 (ops3 sd sa sb))
  | .shr _ g sd sa sb => some (ctlWord g 0x13 (ops3 sd sa sb))
  | .sra _ g sd sa sb => some (ctlWord g 0x14 (ops3 sd sa sb))
  | .min _ g sd sa sb => some (ctlWord g 0x15 (ops3 sd sa sb))
  | .max _ g sd sa sb => some (ctlWord g 0x16 (ops3 sd sa sb))
  | .aaddi _ g ad imm => some (ctlWord g 0x17 (imm.toNat + ad * 2 ^ 12))
  | .amov _ g ad sa => some (ctlWord g 0x18 (sa + ad * 2 ^ 12))
  | .smova _ g sd aa => some (ctlWord g 0x19 (aa + sd * 2 ^ 10))
  | .rds _ g sd sel => some (ctlWord g 0x1A (sel + sd * 2 ^ 10))
  | _ => none

/-- FEED from memory (Table 4-3). -/
def feedWord (op a words : Nat) (inc : Bool) (fmt : Nat) : Nat :=
  fmt + bit inc * 2 ^ 5 + words % 256 * 2 ^ 6 + a * 2 ^ 14 + op * 2 ^ 17
/-- LOADS from memory (Table 4-3). -/
def loadsWord (op a : Nat) (inc : Bool) (sf tf : Nat) : Nat :=
  tf * 2 ^ 3 + sf * 2 ^ 8 + bit inc * 2 ^ 13 + a * 2 ^ 14 + op * 2 ^ 17

/-- The feeder field of a command of Table 4-3 with its array; none of another. -/
def encodeFeeder : Instr → Option (Nat × Nat)
  | .feedCm _ arr a words inc fmt => some (arr, feedWord 1 a words inc fmt)
  | .feedLs _ arr a words inc fmt => some (arr, feedWord 2 a words inc fmt)
  | .feedV _ arr vbase n fmt => some (arr, fmt + (n - 1) * 2 ^ 9 + vbase * 2 ^ 13 + 3 * 2 ^ 17)
  | .feedMesh _ arr n fmt => some (arr, fmt + n % 256 * 2 ^ 9 + 4 * 2 ^ 17)
  | .loadsCm _ arr a inc sf tf => some (arr, loadsWord 5 a inc sf tf)
  | .loadsLs _ arr a inc sf tf => some (arr, loadsWord 6 a inc sf tf)
  | .loadsV _ arr vbase sf tf => some (arr, tf * 2 ^ 3 + sf * 2 ^ 8 + vbase * 2 ^ 13 + 7 * 2 ^ 17)
  | _ => none

/-- The array operation of a command of Table 4-4 with its array; none of another. -/
def encodeArray : Instr → Option (Nat × Nat)
  | .iss _ arr n => some (arr, n - 1 + 1 * 2 ^ 5)
  | .pass _ arr n => some (arr, n - 1 + 2 * 2 ^ 5)
  | .pre _ arr v => some (arr, v + 3 * 2 ^ 5)
  | .drain _ arr v => some (arr, v + 4 * 2 ^ 5)
  | .discard _ arr => some (arr, 5 * 2 ^ 5)
  | _ => none

/-- Code of a lane type. -/
def tyCode : VTy → Nat
  | .f32 => 0
  | .bf16 => 1
  | .f16 => 2

/-- A vector field: predicate, operation, registers, low three bits (R104). -/
def vecWord (p op vd va vb lo : Nat) : Nat := lo + vb * 2 ^ 3 + va * 2 ^ 7 + vd * 2 ^ 11 + op * 2 ^ 15 + p * 2 ^ 21
/-- A conversion: format code and rounding in place of vb and the lane type (R42, R104). -/
def cvtWord (p op vd va code rnd : Nat) : Nat := rnd + code * 2 ^ 2 + va * 2 ^ 7 + vd * 2 ^ 11 + op * 2 ^ 15 + p * 2 ^ 21

/-- The vector field of a command of Table 4-5; none of another. VNOP is written with lane type 1, since a field of zeros is
empty. -/
def encodeVector : Instr → Option Nat
  | .vnop _ p => some (vecWord p 0x00 0 0 0 1)
  | .vadd _ p ty vd va vb => some (vecWord p 0x01 vd va vb (tyCode ty))
  | .vsub _ p ty vd va vb => some (vecWord p 0x02 vd va vb (tyCode ty))
  | .vmul _ p ty vd va vb => some (vecWord p 0x03 vd va vb (tyCode ty))
  | .vfma _ p ty vd va vb => some (vecWord p 0x04 vd va vb (tyCode ty))
  | .vmax _ p ty vd va vb => some (vecWord p 0x05 vd va vb (tyCode ty))
  | .vmin _ p ty vd va vb => some (vecWord p 0x06 vd va vb (tyCode ty))
  | .vabs _ p ty vd va => some (vecWord p 0x07 vd va 0 (tyCode ty))
  | .vneg _ p ty vd va => some (vecWord p 0x08 vd va 0 (tyCode ty))
  | .vexp _ p ty vd va => some (vecWord p 0x09 vd va 0 (tyCode ty))
  | .vrcp _ p ty vd va => some (vecWord p 0x0A vd va 0 (tyCode ty))
  | .vrsq _ p ty vd va => some (vecWord p 0x0B vd va 0 (tyCode ty))
  | .vtab _ p ty vd va vb => some (vecWord p 0x0C vd va vb (tyCode ty))
  | .vtwr _ p va grp => some (vecWord p 0x0D 0 va (grp / 2) (grp % 2))
  | .vrsum _ p ty vd va => some (vecWord p 0x0E vd va 0 (tyCode ty))
  | .vrmax _ p ty vd va => some (vecWord p 0x0F vd va 0 (tyCode ty))
  | .vand _ p vd va vb => some (vecWord p 0x10 vd va vb 0)
  | .vor _ p vd va vb => some (vecWord p 0x11 vd va vb 0)
  | .vxor _ p vd va vb => some (vecWord p 0x12 vd va vb 0)
  | .vmov _ p vd va => some (vecWord p 0x13 vd va 0 0)
  | .vcmplt _ p ty vd va vb => some (vecWord p 0x14 vd va vb (tyCode ty))
  | .vsel _ p ty vd va vb => some (vecWord p 0x15 vd va vb (tyCode ty))
  | .vbc _ p ty vd va l => some (vecWord p 0x16 vd va l (tyCode ty))
  | .vbcs _ p ty vd sa => some (vecWord p 0x17 vd sa 0 (tyCode ty))
  | .cvtF32 _ p vd va dst rnd => some (cvtWord p 0x18 vd va dst rnd)
  | .cvtBf16 _ p vd va dst rnd => some (cvtWord p 0x19 vd va dst rnd)
  | .cvtF16 _ p vd va dst rnd => some (cvtWord p 0x1A vd va dst rnd)
  | .cvtI32 _ p vd va => some (cvtWord p 0x1B vd va 0 0)
  | .unpk _ p q vd va src ty => some (cvtWord p (0x1C + q) vd va src (tyCode ty))
  | .mxpF32 _ p vd va code rnd => some (cvtWord p 0x20 vd va code rnd)
  | .mxpF16 _ p vd va code rnd => some (cvtWord p 0x21 vd va code rnd)
  | .mxpBf16 _ p vd va code rnd => some (cvtWord p 0x22 vd va code rnd)
  | .mxu _ p vd va code ty => some (cvtWord p 0x23 vd va code (tyCode ty))
  | .vtmask _ p vd va vb ty => some (vecWord p 0x24 vd va vb (tyCode ty))
  | _ => none

/-- The memory field of a command of Table 4-6; none of another. -/
def encodeMemory : Instr → Option Nat
  | .vld _ p v a inc off => some (off.toNat + bit inc * 2 ^ 10 + a * 2 ^ 11 + v * 2 ^ 14 + 1 * 2 ^ 18 + p * 2 ^ 21)
  | .vst _ p v a inc off => some (off.toNat + bit inc * 2 ^ 10 + a * 2 ^ 11 + v * 2 ^ 14 + 2 * 2 ^ 18 + p * 2 ^ 21)
  | .sld _ p r a off => some (off.toNat + a * 2 ^ 10 + r * 2 ^ 13 + 3 * 2 ^ 18 + p * 2 ^ 21)
  | .sst _ p r a off => some (off.toNat + a * 2 ^ 10 + r * 2 ^ 13 + 4 * 2 ^ 18 + p * 2 ^ 21)
  | .send _ p v ch => some (ch * 2 ^ 10 + v * 2 ^ 14 + 5 * 2 ^ 18 + p * 2 ^ 21)
  | .sigf _ p k f => some (f * 2 ^ 8 + k * 2 ^ 13 + 6 * 2 ^ 18 + p * 2 ^ 21)
  | .req _ p v f => some (f * 2 ^ 9 + v * 2 ^ 14 + 7 * 2 ^ 18 + p * 2 ^ 21)
  | _ => none

/-- A bundle of six field words (Table 4-1). -/
def bundleWord (ctl f0 f1 a0 a1 vec mem : Nat) : BitVec 128 :=
  BitVec.ofNat 128 (mem + vec * 2 ^ 24 + a0 * 2 ^ 48 + a1 * 2 ^ 56 + f1 * 2 ^ 64 + f0 * 2 ^ 84 + ctl * 2 ^ 104)

end Sys2Proof.Machine
end

