-- ==== Sys2Proof/Safety.lean ====
section
/-! DEFINITION. What counts as a safe run, in the terms that claims use. -/
namespace Sys2Proof.Machine

/-- A command completes in a state: its meaning answers a next state. -/
def Completes (i : Instr) (s : State) : Prop := ∃ t, exec i s = .next t

/-- A step of the block is safe: it neither faults nor refuses. -/
def StepSafe (s : State) : Prop := ∃ t, step s = .next t

/-- The canonical forms that every step keeps: device memory and the register file are sorted without repeats, and memory lists no
byte that equals what an unlisted one reads as; the field defect list has at most 4,096 entries (R379). -/
def Canonical (s : State) : Prop :=
  Memory.wf s.mem = true ∧ (s.regs.map (·.1)).Pairwise (· < ·) ∧ s.errs.defects.length ≤ 4096

end Sys2Proof.Machine
end

