-- ==== Sys2Proof/WellFormed.lean ====
section
/-! DEFINITION. Well-formed commands: every operand lies in the range that the manual gives its field. A meaning does not rely on
it: out of range, a command changes what its definition says. -/
namespace Sys2Proof

def below (x n : Nat) : Bool := decide (x < n)
def within (x lo hi : Nat) : Bool := decide (lo ≤ x ∧ x ≤ hi)

/-! Operands of a bundle's fields (Tables 4-2 to 4-6). -/
def okCore (c : Nat) : Bool := below c 16384
def okSlot (sl : Slot) : Bool := okCore sl.core
def okGuard (g : Nat) : Bool := below g 16
def okPred (p : Nat) : Bool := below p 8
def okVReg (v : Nat) : Bool := below v 16
def okSReg (r : Nat) : Bool := below r 32
def okAReg (a : Nat) : Bool := below a 8
def okFlag (f : Nat) : Bool := below f 32
def okArr (a : Nat) : Bool := below a 2
/-- Format codes of Table 2-1 that an array streams. -/
def okFmt (f : Nat) : Bool := below f 16
/-- Codes of a stationary and a streaming format (Table 2-11). -/
def okPair (sf tf : Nat) : Bool := okFmt sf && okFmt tf
/-- A conversion's destination and rounding (Table 2-5): a widening to FP32 takes a half, stochastic rounding goes to FP8, FP6
and FP4. -/
def okCvt (own dst rnd : Nat) : Bool :=
  if dst = 0 ∧ own ≠ 0 then decide (rnd ≤ 1)
  else decide (dst ≤ 9 ∧ dst ≠ own ∧ rnd ≤ 2 ∧ (rnd = 2 → 3 ≤ dst ∧ dst ≤ 7))
def okMx (code : Nat) : Bool := within code 0xA 0xF
def okMxp (code rnd : Nat) : Bool := okMx code && decide (rnd ≤ 2 ∧ (rnd = 2 → code ≠ 0x0F))

/-! Units. -/
def okCluster (c : Nat) : Bool := below c 512
def okPart (p : Nat) : Bool := below p 16
def okPort (p : Nat) : Bool := below p 8
def okSlice (i : Nat) : Bool := below i 32
def okEngine (e : Nat) : Bool := below e 16
def okDomain (d : Nat) : Bool := below d 100
/-- Queues 0 to 63, and 64 + i for the queue i whose entries the master forwards (R284). -/
def okQueue (q : Nat) : Bool := below q 128
def okSeq (n : Nat) : Bool := below n (2 ^ 32)
def okPos (n : Nat) : Bool := below n 64
/-- Stations and tags of the maintenance ring (R145, R146). -/
def okStation (n : Nat) : Bool := below n 576
def okRingTag (t : Nat) : Bool := below t 16
/-- Function 0, VF1 to VF16 as 1 to 16, and firmware as 17. -/
def okFn (fn : Nat) : Bool := below fn 18
def okWidth (w : Nat) : Bool := decide (w = 32 ∨ w = 64)

/-! Service packets (Table 5-9). -/
def okTag (t : Nat) : Bool := below t 65536
/-- PASIDs have 20 bits; 2 to the 20 stands for none. -/
def okPasid (p : Nat) : Bool := decide (p ≤ 2 ^ 20)
def okLine (l : Nat) : Bool := below l (2 ^ 40)
def okReq (q : Req) : Bool :=
  below q.src 65536 && okTag q.tag && below q.addr (2 ^ 48) && below q.hint 4 && below q.cls 8 && okPart q.part &&
    below q.key 64 && okPasid q.pasid
def okFlits (f : Flits) : Bool := decide (f.n ≤ 8)

/-- A firmware image's header: its kind and its security version number of 16 bits (R295). -/
def okImage (x : Image) : Bool := below x.kind 6 && below x.svn 65536
/-- A stage's report: a failure of Table 14-3 or none, and defect-list kinds of Table 14-7. -/
def okRep (r : StageRep) : Bool :=
  below r.err 8 && r.units.all (fun u => below u.1 65536 && within u.2.1 1 0xC) && r.images.all fun l => l.all okImage
/-- A measurement index of a byte, a certificate slot of four bits, a VF (Tables 9-1, 11-2, 11-3). -/
def okSpdm (r : SpdmReq) : Bool :=
  match r with
  | .measurements idx => below idx 256
  | .challenge slot _ | .certificate slot => below slot 16
  | .interfaceReport n | .interfaceState n => below n 16
  | .tdisp n code => below n 16 && below code 256
  | _ => true
/-- What a port's training found. -/
def okTrain (t : Train) : Bool := okPos t.pos && okPort t.port && below t.topo 16 && below t.ndev 64

/-- Every operand in its range. -/
def wellFormed : Instr → Bool
  | .cmdNop q seq => okQueue q && okSeq seq
  | .copy q seq => okQueue q && okSeq seq
  | .copy2d q seq => okQueue q && okSeq seq
  | .fill q seq => okQueue q && okSeq seq
  | .zero q seq => okQueue q && okSeq seq
  | .prefetch q seq => okQueue q && okSeq seq
  | .adviseWriteback q seq => okQueue q && okSeq seq
  | .adviseDrop q seq => okQueue q && okSeq seq
  | .adviseTranslate q seq => okQueue q && okSeq seq
  | .loadProgram q seq => okQueue q && okSeq seq
  | .loadSchedule q seq => okQueue q && okSeq seq
  | .loadCodebook q seq => okQueue q && okSeq seq
  | .runSteps q seq => okQueue q && okSeq seq
  | .hold q seq => okQueue q && okSeq seq
  | .release q seq => okQueue q && okSeq seq
  | .fence q seq => okQueue q && okSeq seq
  | .abort q seq => okQueue q && okSeq seq
  | .kvCommit q seq => okQueue q && okSeq seq
  | .digest q seq => okQueue q && okSeq seq
  | .selfTest q seq => okQueue q && okSeq seq
  | .setClass q seq => okQueue q && okSeq seq
  | .partitionAssign q seq => okQueue q && okSeq seq
  | .partitionDissolve q seq => okQueue q && okSeq seq
  | .keyGenerate q seq => okQueue q && okSeq seq
  | .keyDestroy q seq => okQueue q && okSeq seq
  | .readTelemetry q seq => okQueue q && okSeq seq
  | .resetUnitCore q seq => okQueue q && okSeq seq
  | .resetUnitCluster q seq => okQueue q && okSeq seq
  | .resetUnitPartition q seq => okQueue q && okSeq seq
  | .resetUnitCopyEngine q seq => okQueue q && okSeq seq
  | .resetUnitFabricSegment q seq => okQueue q && okSeq seq
  | .resetUnitLinkPort q seq => okQueue q && okSeq seq
  | .unitResetComplete kind idx => below kind 6 && below idx 16384
  | .segmentDrainTimeout idx => below idx 8
  | .entryFetch q _ => okQueue q
  | .replyWrite q => okQueue q
  | .tileComplete e _ => okEngine e
  | .ctrlNop sl g => okSlot sl && okGuard g
  | .loopi sl g n count => okSlot sl && okGuard g && within n 1 128 && within count 1 256
  | .loopr sl g n sa => okSlot sl && okGuard g && within n 1 128 && okSReg sa
  | .br sl g target => okSlot sl && okGuard g && below target 2048
  | .jr sl g sa => okSlot sl && okGuard g && okSReg sa
  | .waitf sl g _ f => okSlot sl && okGuard g && okFlag f
  | .endstep sl g => okSlot sl && okGuard g
  | .brk sl g => okSlot sl && okGuard g
  | .setp sl g pd cmp sa sb => okSlot sl && okGuard g && okPred pd && below cmp 4 && okSReg sa && okSReg sb
  | .plog sl g pd fn pa pb => okSlot sl && okGuard g && okPred pd && below fn 4 && okPred pa && okPred pb
  | .movi sl g sd _ => okSlot sl && okGuard g && okSReg sd
  | .addi sl g sd _ => okSlot sl && okGuard g && okSReg sd
  | .add sl g sd sa sb => okSlot sl && okGuard g && okSReg sd && okSReg sa && okSReg sb
  | .sub sl g sd sa sb => okSlot sl && okGuard g && okSReg sd && okSReg sa && okSReg sb
  | .mul sl g sd sa sb => okSlot sl && okGuard g && okSReg sd && okSReg sa && okSReg sb
  | .and sl g sd sa sb => okSlot sl && okGuard g && okSReg sd && okSReg sa && okSReg sb
  | .or sl g sd sa sb => okSlot sl && okGuard g && okSReg sd && okSReg sa && okSReg sb
  | .xor sl g sd sa sb => okSlot sl && okGuard g && okSReg sd && okSReg sa && okSReg sb
  | .shl sl g sd sa sb => okSlot sl && okGuard g && okSReg sd && okSReg sa && okSReg sb
  | .shr sl g sd sa sb => okSlot sl && okGuard g && okSReg sd && okSReg sa && okSReg sb
  | .sra sl g sd sa sb => okSlot sl && okGuard g && okSReg sd && okSReg sa && okSReg sb
  | .min sl g sd sa sb => okSlot sl && okGuard g && okSReg sd && okSReg sa && okSReg sb
  | .max sl g sd sa sb => okSlot sl && okGuard g && okSReg sd && okSReg sa && okSReg sb
  | .aaddi sl g ad _ => okSlot sl && okGuard g && okAReg ad
  | .amov sl g ad sa => okSlot sl && okGuard g && okAReg ad && okSReg sa
  | .smova sl g sd aa => okSlot sl && okGuard g && okSReg sd && okAReg aa
  | .rds sl g sd sel => okSlot sl && okGuard g && okSReg sd && below sel 8
  | .feedCm sl arr a words _ fmt => okSlot sl && okArr arr && okAReg a && within words 1 256 && okFmt fmt
  | .feedLs sl arr a words _ fmt => okSlot sl && okArr arr && okAReg a && within words 1 256 && okFmt fmt
  | .feedV sl arr vbase n fmt => okSlot sl && okArr arr && okVReg vbase && within n 1 16 && below (vbase + n) 17 && okFmt fmt
  | .feedMesh sl arr n fmt => okSlot sl && okArr arr && within n 1 256 && okFmt fmt
  | .loadsCm sl arr a _ sf tf => okSlot sl && okArr arr && okAReg a && okPair sf tf
  | .loadsLs sl arr a _ sf tf => okSlot sl && okArr arr && okAReg a && okPair sf tf
  | .loadsV sl arr vbase sf tf => okSlot sl && okArr arr && okVReg vbase && okPair sf tf
  | .stationaryLoadStart core arr => okCore core && okArr arr
  | .iss sl arr n => okSlot sl && okArr arr && within n 1 32
  | .pass sl arr n => okSlot sl && okArr arr && within n 1 32
  | .pre sl arr v => okSlot sl && okArr arr && okVReg v
  | .drain sl arr v => okSlot sl && okArr arr && okVReg v
  | .discard sl arr => okSlot sl && okArr arr
  | .arrayVectorIssue core arr => okCore core && okArr arr
  | .drainFire core arr _ => okCore core && okArr arr
  | .vnop sl p => okSlot sl && okPred p
  | .vadd sl p _ vd va vb => okSlot sl && okPred p && okVReg vd && okVReg va && okVReg vb
  | .vsub sl p _ vd va vb => okSlot sl && okPred p && okVReg vd && okVReg va && okVReg vb
  | .vmul sl p _ vd va vb => okSlot sl && okPred p && okVReg vd && okVReg va && okVReg vb
  | .vfma sl p _ vd va vb => okSlot sl && okPred p && okVReg vd && okVReg va && okVReg vb
  | .vmax sl p _ vd va vb => okSlot sl && okPred p && okVReg vd && okVReg va && okVReg vb
  | .vmin sl p _ vd va vb => okSlot sl && okPred p && okVReg vd && okVReg va && okVReg vb
  | .vabs sl p _ vd va => okSlot sl && okPred p && okVReg vd && okVReg va
  | .vneg sl p _ vd va => okSlot sl && okPred p && okVReg vd && okVReg va
  | .vexp sl p _ vd va => okSlot sl && okPred p && okVReg vd && okVReg va
  | .vrcp sl p _ vd va => okSlot sl && okPred p && okVReg vd && okVReg va
  | .vrsq sl p _ vd va => okSlot sl && okPred p && okVReg vd && okVReg va
  | .vtab sl p _ vd va vb => okSlot sl && okPred p && okVReg vd && okVReg va && okVReg vb
  | .vtwr sl p va grp => okSlot sl && okPred p && okVReg va && below grp 32
  | .vrsum sl p _ vd va => okSlot sl && okPred p && okVReg vd && okVReg va
  | .vrmax sl p _ vd va => okSlot sl && okPred p && okVReg vd && okVReg va
  | .vand sl p vd va vb => okSlot sl && okPred p && okVReg vd && okVReg va && okVReg vb
  | .vor sl p vd va vb => okSlot sl && okPred p && okVReg vd && okVReg va && okVReg vb
  | .vxor sl p vd va vb => okSlot sl && okPred p && okVReg vd && okVReg va && okVReg vb
  | .vmov sl p vd va => okSlot sl && okPred p && okVReg vd && okVReg va
  | .vcmplt sl p _ vd va vb => okSlot sl && okPred p && okVReg vd && okVReg va && okVReg vb
  | .vsel sl p _ vd va vb => okSlot sl && okPred p && okVReg vd && okVReg va && okVReg vb
  | .vbc sl p _ vd va l => okSlot sl && okPred p && okVReg vd && okVReg va && okVReg l
  | .vbcs sl p _ vd sa => okSlot sl && okPred p && okVReg vd && below sa 16
  | .cvtF32 sl p vd va dst rnd => okSlot sl && okPred p && okVReg vd && okVReg va && okCvt 0 dst rnd
  | .cvtBf16 sl p vd va dst rnd => okSlot sl && okPred p && okVReg vd && okVReg va && okCvt 2 dst rnd
  | .cvtF16 sl p vd va dst rnd => okSlot sl && okPred p && okVReg vd && okVReg va && okCvt 1 dst rnd
  | .cvtI32 sl p vd va => okSlot sl && okPred p && okVReg vd && okVReg va
  | .unpk sl p q vd va src _ => okSlot sl && okPred p && below q 4 && okVReg vd && okVReg va && within src 3 9
  | .mxpF32 sl p vd va code rnd => okSlot sl && okPred p && okVReg vd && below va 15 && okMxp code rnd
  | .mxpF16 sl p vd va code rnd => okSlot sl && okPred p && okVReg vd && okVReg va && okMxp code rnd
  | .mxpBf16 sl p vd va code rnd => okSlot sl && okPred p && okVReg vd && okVReg va && okMxp code rnd
  | .mxu sl p vd va code ty => okSlot sl && okPred p && okVReg vd && (decide (ty ≠ .f32) || below vd 15) && okVReg va && okMx code
  | .vtmask sl p vd va vb _ => okSlot sl && okPred p && okVReg vd && okVReg va && okVReg vb
  | .vld sl p v a _ _ => okSlot sl && okPred p && okVReg v && okAReg a
  | .vst sl p v a _ _ => okSlot sl && okPred p && okVReg v && okAReg a
  | .sld sl p r a _ => okSlot sl && okPred p && okSReg r && okAReg a
  | .sst sl p r a _ => okSlot sl && okPred p && okSReg r && okAReg a
  | .send sl p v ch => okSlot sl && okPred p && okVReg v && below ch 16
  | .sigf sl p k f => okSlot sl && okPred p && okSReg k && within f 24 31
  | .req sl p v f => okSlot sl && okPred p && okVReg v && below f 24
  | .creditReturn core => okCore core
  | .partitionHoldStart p => okPart p
  | .partitionHoldEnd p => okPart p
  | .stepBoundary p => okPart p
  | .boundaryLoadsDone p => okPart p
  | .scheduleEntryEnd cl => okCluster cl
  | .laneFlitArrival cl lane _ => okCluster cl && below lane 16
  | .meshDelivery cl d => okCluster cl && below d 4
  | .descriptorStart cl _ => okCluster cl
  | .dmaCopy cl _ _ => okCluster cl
  | .tcopy cl _ _ => okCluster cl
  | .decode cl _ _ => okCluster cl
  | .gather cl _ _ => okCluster cl
  | .scatter cl _ _ => okCluster cl
  | .cbload cl _ _ => okCluster cl
  | .cbswap cl _ => okCluster cl
  | .commit cl _ => okCluster cl
  | .requestComplete cl _ => okCluster cl
  | .read rq _ => okReq rq
  | .write rq fl _ => okReq rq && okFlits fl
  | .writeMasked rq fl _ => okReq rq && okFlits fl
  | .zeroLine rq _ => okReq rq
  | .atomicAdd rq fl _ => okReq rq && okFlits fl
  | .atomicMin rq fl _ => okReq rq && okFlits fl
  | .atomicMax rq fl _ => okReq rq && okFlits fl
  | .atomicSwap rq fl _ => okReq rq && okFlits fl
  | .atomicCas rq fl _ => okReq rq && okFlits fl
  | .lineadd rq fl _ => okReq rq && okFlits fl
  | .sbPrefetch rq => okReq rq
  | .readData src dst tag off n _ fl => below src 65536 && below dst 65536 && okTag tag && below off 256 && within n 1 256 && okFlits fl
  | .writeAck dst tag => below dst 65536 && okTag tag
  | .atomicResult dst tag _ => below dst 65536 && okTag tag
  | .errorResponse dst tag addr code => below dst 65536 && okTag tag && below addr (2 ^ 48) && below code 256
  | .control src dst _ => below src 65536 && below dst 65536
  | .missSectorArrival sl line pasid sector _ => okSlice sl && okLine line && okPasid pasid && below sector 4
  | .writebackAccepted sl line pasid _ => okSlice sl && okLine line && okPasid pasid
  | .sideBufferExpiry sl line pasid => okSlice sl && okLine line && okPasid pasid
  | .nearRefresh e c bank _ => below e 8 && below c 128 && below bank 16
  | .nearScrub e c _ _ => below e 8 && below c 128
  | .nearCalibration _ => true
  | .farRefresh pc _ => below pc 512
  | .farScrub pc _ _ => below pc 512
  | .farCalibration _ => true
  | .sliceScrub sl _ _ => okSlice sl
  | .deferralBudgetExpiry unit bank _ _ => below unit 65536 && below bank 16
  | .inhibitTimeout e c seq => below e 8 && below c 128 && okSeq seq
  | .deferredDiscard e c => below e 8 && below c 128
  | .housekeepingRound temps _ => decide (temps.length = 8)
  | .regulatorWindowEnd => true
  | .ringRead tag off _ => okRingTag tag && below off (2 ^ 25)
  | .ringWrite tag off _ _ => okRingTag tag && below off (2 ^ 25)
  | .ringReadResponse tag _ _ => okRingTag tag
  | .ringWriteAcknowledge tag _ => okRingTag tag
  | .ringAlert station cause _ => okStation station && below cause 65536
  | .ringBroadcastWrite tag off _ _ => okRingTag tag && below off (2 ^ 25)
  | .ringError tag station _ => okRingTag tag && okStation station
  | .ringRequestRetry tag => okRingTag tag
  | .bar4Read _ off n _ => below off (2 ^ 32) && within n 1 4096
  | .bar4Write _ off bytes _ _ => below off (2 ^ 32) && within bytes.length 1 4096
  | .atsInvalidation _ pasid _ lg => okPasid pasid && below lg 64
  | .prgResponse idx _ => below idx 512
  | .priTimeout idx => below idx 512
  | .flr fn => okFn fn
  | .abortMarker p => okPart p
  | .detour p _ e _ => okPart p && below (e.getD 0) 32
  | .portRetrain p => okPort p
  | .readyMarker p _ pos => okPart p && okPos pos
  | .goMarker p _ _ => okPart p
  | .cascadeStepStart p => okPart p
  | .devtimeBroadcast => true
  | .devtimeMessage _ => true
  | .linkWaitHold b j => okPort b && below j 4
  | .linkWaitTimeout b j => okPort b && below j 4
  | .linkPause b j => okPort b && below j 4
  | .linkResume b j => okPort b && below j 4
  | .serviceRequestTimeout src tag => below src 65536 && okTag tag
  | .selfRestart => true
  | .mailboxRetry => true
  | .powerCapCheck => true
  | .floorReached p => okPart p
  | .domainWake d => okDomain d
  | .domainWakeComplete d => okDomain d
  | .domainAutoIdle d => okDomain d
  | .traceFlush cl => okCluster cl
  | .pathMonitorSample slacks => decide (slacks.length = 100)
  | .caveReplan slacks => decide (slacks.length = 100)
  | .verticalPortRetrain cl spin spout width _ => okCluster cl && below spin 16 && below spout 16 && below width 4
  | .fieldTestBlock kind idx _ => below kind 3 && below idx 16384
  | .fieldTestTimeout kind idx => below kind 3 && below idx 16384
  | .checkpointSeal _ _ => true
  | .pfailDecide _ _ => true
  | .relaySeen => true
  | .refclkLoss => true
  | .stageAdvance rep => okRep rep
  | .stepMarkerInput => true
  | .telemetryStream => true
  | .phaseChangeComplete => true
  | .registerWrite fn off w _ => okFn fn && below off (2 ^ 25) && okWidth w
  | .maintDone => true
  | .scratchChangeDone => true
  | .scratchZeroingDone b => below b 96
  | .detourRegister e _ _ => below e 32
  | .phaseRequest req _ => below req 4
  | .domainStateRequest d st => okDomain d && below st 4
  | .frameTransmit p => okPort p
  | .feederPush core arr => okCore core && okArr arr
  | .atsTranslationCompletion pasid _ lg _ _ => okPasid pasid && below lg 64
  | .pcieLinkUp => true
  | .pfailDiscrepancyEnd => true
  | .domainEntryComplete d => okDomain d
  | .farGrantChangeDone b => below b 384
  | .devtimeLowRead => true
  | .doorbellSqTail fn j _ => okFn fn && below j 64
  | .doorbellCqHead fn j _ => okFn fn && below j 64
  | .bar4Timeout _ => true
  | .configAccess fn off _ _ => okFn fn && below off (2 ^ 26)
  | .keyExchange _ => true
  | .endSession _ => true
  | .heartbeatLoss _ => true
  | .pqQuote _ => true
  | .setPolicy _ p _ _ => okPart p
  | .ideKm _ stream => below stream 17
  | .lockInterfaceRequest _ n => okPart n
  | .startInterfaceRequest _ n => okPart n
  | .stopInterfaceRequest _ n => okPart n
  | .portTraining p t => okPort p && okTrain t
  | .errorRateGate p _ => okPort p
  | .frameReceive p _ => okPort p
  | .signalLoss p => okPort p
  | .firmwareTransfer p img _ => okPort p && okImage img
  | .mailboxTransfer src dst bytes _ _ => below src.pos 64 && below dst 128 && decide (bytes.length ≤ 64)
  | .thermalModelTick net => decide (net.length = 376)
  | .sensorSample n _ _ => below n 376
  | .powerMeasure doms _ parts => decide (doms.length = 100) && decide (parts.length = 16)
  | .powerOn => true
  | .perstNAssert _ => true
  | .perstNRelease pos _ _ _ => okPos pos
  | .stageTimeout => true
  | .cluCfgCommit cl _ => okCluster cl
  | .queueEnable fn j _ => okFn fn && below j 64
  | .queueDisable fn j => okFn fn && below j 64
  | .queueRelease fn j => okFn fn && below j 64
  | .bar4WindowWrite _ => true
  | .maintInvalidate _ => true
  | .maintFlush _ => true
  | .maintCleanInv _ => true
  | .maintPurgeKey _ => true
  | .scratchWaysWrite w => below w 16
  | .scratchGrantWrite b _ => below b 96
  | .farGrantWrite b _ => below b 384
  | .sliceEnableWrite sl _ => okSlice sl
  | .wayDisableWrite sl w => okSlice sl && below w 16
  | .wayEnableWrite sl w => okSlice sl && below w 16
  | .qosClassWrite p c _ => okPart p && below c 8
  | .qosWinWrite us => below us 1024
  | .missQueueHeadWrite _ => true
  | .errorQueueHeadWrite _ => true
  | .quarantineRequest p => okPart p
  | .quarantineClear p => okPart p
  | .clockRequestWithdraw p => okPart p
  | .testSweepEnable => true
  | .debugHalt c => okCore c
  | .debugResume c => okCore c
  | .debugStep c => okCore c
  | .debugDataWrite c _ => okCore c
  | .srstateWrite c _ => okCore c
  | .caveReplanRequest => true
  | .mailboxSend => true
  | .transitConfigWrite p _ => okPort p
  | .recoveryInstall _ imgs => imgs.all okImage
  | .auditReadPointerWrite _ => true
  | .checkpointSelect k => below k 2048
  | .heartbeat _ => true
  | .getMeasurements _ rq => okSpdm rq

end Sys2Proof
end

