-- ==== Sys2Proof/Certificates/Slice0/Obligations.lean ====
section
/-! DEFINITION. Statements for the provers: what the commands of the block do, what they leave alone, and what every step keeps. -/

namespace Sys2Proof.Machine

/-- A field of a bundle issues: its bundle is open in s1 with latch l, and none of the scalar registers ss and vector registers vs
that it names has a write pending (R93, R109). -/
def Issues (s : State) (sl : Slot) (ss vs : List Nat) (s1 : State) (l : Latch) : Prop :=
  openLatch s sl = some (s1, l) ∧ (∀ r ∈ ss, l.snap.busyS r = false) ∧ ∀ r ∈ vs, l.snap.busyV r = false

/-- What follows a field's own effect: with the last field of its bundle the bundle has issued. -/
def fieldDone (sl : Slot) (l : Latch) (s : State) : State :=
  if sl.last then complete s sl.core ((s.latch sl.core).getD l) else s

/-- The slot of a field outside any bundle. -/
def noSlot : Slot := ⟨0, false, false⟩

/-- Comparisons of SETP (Table 4-2): equal, not equal, signed less, unsigned less. -/
def cmpSpec : Nat → Word → Word → Bool
  | 0, x, y => decide (x = y)
  | 1, x, y => decide (x ≠ y)
  | 2, x, y => decide (x.toInt < y.toInt)
  | _, x, y => decide (x.toNat < y.toNat)

/-- Functions of PLOG (Table 4-2): and, or, exclusive or, and not. -/
def plogSpec : Nat → Bool → Bool → Bool
  | 0, a, b => a && b
  | 1, a, b => a || b
  | 2, a, b => a != b
  | _, a, b => a && !b

/-- The number that a finite value stands for. -/
def numOf : Val → Option ℚ
  | .fin neg m e => some ((-1) ^ bit neg * m * (2 : ℚ) ^ e)
  | _ => none

/-- The floating-point formats with the widths of their exponent and mantissa, their bias, their largest finite value and the least
exponents of a normal and a subnormal value (Table 2-2). -/
def layouts : List (FFmt × Nat × Nat × Int × ℚ × Int × Int) :=
  [(fp32, 8, 23, 127, (2 - 2⁻¹ ^ 23) * 2 ^ 127, -126, -149), (fp16, 5, 10, 15, 65504, -14, -24),
   (bf16, 8, 7, 127, (2 - 2⁻¹ ^ 7) * 2 ^ 127, -126, -133), (e4m3, 4, 3, 7, 448, -6, -9), (e5m2, 5, 2, 15, 57344, -14, -16),
   (e3m2, 3, 2, 3, 28, -2, -4), (e2m3, 2, 3, 1, 15 / 2, 0, -3), (e2m1, 2, 1, 1, 6, 0, -1)]

/-- The special encodings (Table 2-3), by the exponent width E and the mantissa width M: those with all ones as exponent in FP32, FP16,
BF16 and FP8-E5M2, and two in FP8-E4M3. -/
def special (E M x : Nat) : Bool :=
  if M = 3 ∧ E = 4 then decide (x % 128 = 0x7F)
  else if E = 5 ∨ E = 8 then decide (x / 2 ^ M % 2 ^ E = 2 ^ E - 1)
  else false

/-- No memory of a core holds an upset: what is read is what was written. -/
def NoUpsets (s : State) : Prop := s.upsets.cmem = [] ∧ s.upsets.local' = []

/-- Core c, of a partition, may reach the bank of core-local address a in this cycle: its cycle is not one of those in which no core is
served, and the bank has served nothing yet (R60, R63, R67). -/
def BankFree (s : State) (c a : Nat) : Prop :=
  ∃ q, corePart s c = some q ∧
    ((a < 0x400000 ∧ (s.part q).m.toNat % 16 ≠ 15 ∧
        ∀ u ∈ (s.bank (clusterOfCore c)).now (s.part q).cyc, u.bank ≠ bankOf a) ∨
      (0x400000 ≤ a ∧ a < 0x410000 ∧ ∀ u ∈ (s.core c).lsBanks.now (s.part q).cyc, u.bank ≠ (a - 0x400000) / 64 % 4))

/-- A request for n bytes from a of shared-buffer scratch is served at once: it passes the checks of Table 11-6, nothing of its block
changes, its slice is awake, and the code of its way finds nothing (R212 to R215, R308). -/
def ScratchServes (s : State) (q : Acc) (a n : Nat) : Prop :=
  rangeOf a = .scratch ∧ a % 256 + n ≤ 256 ∧ 0 < n ∧ checkReq s q a n false = none ∧ changing s a = false ∧ q.ecc = []

/-- No flit is marked, and every check fits its data (R320). -/
def FlitsClean (fl : Flits) : Prop :=
  fl.psn = 0 ∧ ∀ i < fl.n, pieceCheck (BitVec.ofNat 256 (fl.data.toNat / 2 ^ (256 * i))) = BitVec.ofNat 2 (fl.chk.toNat / 4 ^ i)

/-- Memory is the same outside n bytes from a. -/
def MemSameOutside (s t : State) (a n : Nat) : Prop := ∀ b, b < a ∨ a + n ≤ b → memGet t.mem b = memGet s.mem b

/-- A line of the far tier that is read as it was written: its domain is on, it is not poisoned, and the key of the request's slot, if
it stands under one, is its own (R165, R307, R348). -/
def FarReads (s : State) (key line : Nat) : Prop :=
  rangeOf (lineAddr line) = .far ∧ hbmAsleep s (lineAddr line) = false ∧ psnAny s.psn (lineAddr line) 256 = false ∧
    ∀ j, tfind s.lineKey line = some j → j = keyId s key

/-- A descriptor of a cluster DMA that has begun with nothing moved yet, of one row of n bytes. -/
def OneRow (s : State) (cl id : Nat) (d : Desc) (n : Nat) : Prop :=
  descOf s cl id = some d ∧ d.done = none ∧ d.pos = 0 ∧ d.sawPsn = false ∧ d.fail = none ∧ dRows d.x = 1 ∧ dInner d.x = n

/-- A descriptor has ended its work with a status, and its request completes next. -/
def DescEnded (t : State) (cl id : Nat) (st : Status) : Prop :=
  (∃ e, descOf t cl id = some e ∧ e.done = some st) ∧ Instr.requestComplete cl id ∈ t.pending

/-- Commands that run one after the other, none of which stops. -/
def runs : List Instr → State → Option State
  | [], s => some s
  | i :: r, s => match exec i s with
    | .next t => runs r t
    | _ => none

/-- An entry has ended with a status and a result. -/
def Ended (t : State) (q seq : Nat) (st : Status) (result : Nat) : Prop :=
  ∃ e r, entryOf t q seq = some e ∧ e.reply = some r ∧ r.status = st ∧ r.result = result

/-- COMMIT of parameters p0 to p3 in cluster cl finds its tree in order: table and header lie in cluster memory and are not poisoned,
the ring of free pages holds as many as the tree takes, and each is a page (R188, R189). -/
def TreeReady (s : State) (cl p0 p1 p2 p3 : Nat) : Prop :=
  let cm := fun a : Nat => cmAddr cl a
  let k := bits p1 32 8
  let hdr := bits p3 0 22
  let h := memRead s.mem (cm hdr) 4
  let z := memRead s.mem (cm (hdr + 8)) 4
  let base := memRead s.mem (cm (hdr + 12)) 4
  1 ≤ k ∧ k ≤ 64 ∧ tableAddr p0 % 4 = 0 ∧ hdr % 16 = 0 ∧ tableAddr p0 + 4 * tableSize p0 ≤ 0x400000 ∧ hdr + 16 ≤ 0x400000 ∧
    psnAny s.psn (cm hdr) 16 = false ∧ 1 ≤ z ∧ z ≤ 65536 ∧ h < z ∧ memRead s.mem (cm (hdr + 4)) 4 ≤ z ∧ base + 4 * z ≤ 0x400000 ∧
    k ≤ memRead s.mem (cm (hdr + 4)) 4 ∧ p2 < 2 ^ k ∧
    ∀ i, i < k → bits (memRead s.mem (cm (base + 4 * ((h + i) % z))) 4) 31 1 = 1 ∧
      psnAny s.psn (cm (base + 4 * ((h + i) % z))) 4 = false

/-- That COMMIT has been done: the head of the ring has passed the tree's pages, and the accepted ones have left the count (R189). -/
def TreeCommitted (s t : State) (cl p1 p2 p3 : Nat) : Prop :=
  let k := bits p1 32 8
  let hdr := bits p3 0 22
  memRead t.mem (cmAddr cl hdr) 4 = (memRead s.mem (cmAddr cl hdr) 4 + k) % memRead s.mem (cmAddr cl (hdr + 8)) 4 ∧
    memRead t.mem (cmAddr cl (hdr + 4)) 4 = memRead s.mem (cmAddr cl (hdr + 4)) 4 -
      ((List.range k).filter fun i => decide (p2 / 2 ^ i % 2 = 1)).length

/-- What a start of a partition waits for is there (R348 to R350, R353): no ramp is limited, its domains are on, F has reached its
target, voltages and PLLs serve a clock that rises, and neither loads nor a barrier nor KV_COMMITs come before its step. -/
def StartReady (s : State) (p : Nat) : Prop :=
  let u := showLimits s p
  p < 16 ∧ rb u (fPwrPclk_ramp p) = false ∧ asleepDomains u p = [] ∧ floorTarget u p (startClk u p) ≤ s.pwr.floor ∧
    (startClk u p < rf u (fPwrPclk_cur p) → riseReady u p (startClk u p) = true) ∧ (s.part p).kvq = [] ∧
    loadsQueued s p = false ∧ isCascade s p = false

/-- A step of a partition outside a cascade has ended, and nothing but its count and its HOLDs decides what follows (R91). -/
def BoundaryDue (s : State) (p : Nat) (r : Run) : Prop :=
  p < 16 ∧ stepDone s p = true ∧ flitsLeft s p = false ∧ isCascade s p = false ∧ (s.part p).fault = none ∧
    (s.part p).run = some r ∧ r.abort = false ∧ (s.part p).kvq = [] ∧ loadsQueued s p = false ∧ rb s (fErrPart_quar p) = false

/-- A reset of a unit and its completion, which follows at once: its entry ends OK. -/
def UnitLeavesReset (s : State) (q seq : Nat) (c : Instr) (kind n : Nat) (after : State → Prop) : Prop :=
  ∃ t u, exec c s = .next t ∧ exec (.unitResetComplete kind n) t = .next u ∧ Ended u q seq .ok 0 ∧ after u

/-- Rind's answer on the DOE mailbox is for session sid, and is no error or is one; P holds of it. -/
def Answers (t : State) (sid : Nat) (ok : Bool) (P : DoeRsp → Prop) : Prop :=
  ∃ r, t.sec.doe = [r] ∧ r.sid = sid ∧ r.ok = ok ∧ P r

/-- A started entry of a queue that holds packet x and has neither begun nor ended. -/
def EntryWaits (s : State) (q seq : Nat) (x : BitVec 512) : Prop :=
  ∃ e, entryOf s q seq = some e ∧ e.reply = none ∧ e.begun = false ∧ e.pkt = x

end Sys2Proof.Machine

open Sys2Proof Sys2Proof.Machine

/-! The machine. -/

/-- A step takes the command at the front of the queue and runs it on the state with the rest of the queue. -/
def Obligations.StepRunsFrontCommand : Prop :=
  ∀ (c : Instr) (q : List Instr) (s : State), step { s with pending := c :: q } = exec c { s with pending := q }

/-- With an empty queue time passes (the model's choice, log entry 1): the step answers a next state, the tick of half a
nanosecond. It begins with DEVTIME (R276): every second tick DEVTIME is one nanosecond further on, unless a slew leaves that
nanosecond out. -/
def Obligations.IdleStepIsATick : Prop :=
  (∀ s : State, s.pending = [] → step s = .next (tick s)) ∧
  (∀ s : State, s.half = false → (tickTime s).devtime = s.devtime ∧ (tickTime s).half = true) ∧
  (∀ s : State, s.half = true → 0 < s.links.skip → (tickTime s).devtime = s.devtime ∧ (tickTime s).half = false ∧
    (tickTime s).links.skip = s.links.skip - 1) ∧
  (∀ s : State, s.half = true → s.links.skip = 0 → (tickTime s).devtime = s.devtime + 1 ∧ (tickTime s).half = false)

/-- No command stops the block: whatever the state, every command answers a next state (what the spec calls an error is a
state of the block, and a request that must wait is held in it). -/
def Obligations.EveryCommandCompletes : Prop :=
  ∀ (c : Instr) (s : State), ∃ t, exec c s = .next t

/-! Numbers. -/

/-- R26: the value of every floating-point encoding that Table 2-3 does not list, with the fields of Table 2-2, and its
largest finite, smallest normal and smallest subnormal values. -/
def Obligations.EncodingsHaveTheirValue : Prop :=
  ∀ y ∈ layouts,
    let f := y.1
    let E := y.2.1
    let M := y.2.2.1
    let b := y.2.2.2.1
    (∀ x : Nat, x < 2 ^ (1 + E + M) → special E M x = false →
      let s := x / 2 ^ (E + M)
      let e := x / 2 ^ M % 2 ^ E
      let m := x % 2 ^ M
      numOf (f.decode x) = some (if e = 0 then (-1) ^ s * (2 : ℚ) ^ (1 - b) * m / 2 ^ M
        else (-1) ^ s * (2 : ℚ) ^ (e - b) * (1 + m / 2 ^ M)) ∧
      ∀ v, numOf (f.decode x) = some v → v ≤ y.2.2.2.2.1) ∧
    (∃ x, x < 2 ^ (1 + E + M) ∧ special E M x = false ∧ numOf (f.decode x) = some y.2.2.2.2.1) ∧
    numOf (f.decode (2 ^ M)) = some ((2 : ℚ) ^ y.2.2.2.2.2.1) ∧ numOf (f.decode 1) = some ((2 : ℚ) ^ y.2.2.2.2.2.2)

/-- Converting the value of a finite encoding back to its own format gives the same encoding and no flag, under both rounding rules
and with or without saturation: in every floating-point format, zeros with their sign and subnormals included. -/
def Obligations.FiniteEncodingsAreExact : Prop :=
  ∀ f ∈ [fp32, fp16, bf16, e4m3, e5m2, e3m2, e2m3, e2m1], ∀ (sat : Bool) (md : RMode) (x : Nat),
    (∀ r, md = .sr r → r < 65536) → x < 2 * f.signBit → x % f.signBit ≤ f.maxMag →
    f.encode sat md (f.decode x) = (x, flNone)

/-- What a unit computes before it rounds is exact, a sum of any number of finite values and a product of two; and rounding
m * 2^e to units of 2^q goes to the nearest unit, at a tie to the even one, and is exact just when m * 2^e is a whole number of
units. -/
def Obligations.ExactResultsRoundToNearest : Prop :=
  (∀ vs : List Val, (∀ v ∈ vs, v.isFin = true) →
    numOf (sumV vs).1 = some ((vs.map fun v => (numOf v).getD 0).sum) ∧ (sumV vs).2 = flNone) ∧
  (∀ (a b : Val) (x y : ℚ), numOf a = some x → numOf b = some y → numOf (mulV a b).1 = some (x * y) ∧ (mulV a b).2 = flNone) ∧
  (∀ (m : Nat) (e q : Int), e < q →
    let k := (q - e).toNat
    let n := (roundAt .rne m e q false).1
    2 * (n * 2 ^ k) ≤ 2 * m + 2 ^ k ∧ 2 * m ≤ 2 * (n * 2 ^ k) + 2 ^ k ∧
    (2 * (n * 2 ^ k) = 2 * m + 2 ^ k ∨ 2 * m = 2 * (n * 2 ^ k) + 2 ^ k → n % 2 = 0) ∧
    ((roundAt .rne m e q false).2 = true ↔ n * 2 ^ k = m))

/-- R37, R39: the decoded weights. Weight 8g + j of a CB2 or CB3 block is the sum of element j of the indexed vectors of the two or
three codebooks, rounded once to FP16, times the block scale, rounded once to the target; weight n of a TN5 block is its ternary value
times its sub-scale times the block scale, rounded once to the target. (Where the elements lie is Table 2-4's, R36's and R38's; a TN5
byte from 243 is R40's.) -/
def Obligations.WeightsDecodeByTheirRules : Prop :=
  (∀ (n sf t g j : Nat) (blk : List Nat) (book : Nat → Nat) (bad : Nat → Bool), (sf, n) = (0x10, 2) ∨ (sf, n) = (0x11, 3) →
    g < 32 → j < 8 →
    let s := fp16.decode (blk.getD (32 * n) 0 + 256 * blk.getD (32 * n + 1) 0)
    let C := fun k : Nat => e4m3.decode (book (2048 * k + 8 * blk.getD (n * g + k) 0 + j))
    let h := roundV fp16 (sumV ((List.range n).map C))
    ((decodeBlock sf t blk book bad).1[8 * g + j]?).map (·.1) = some (toTarget t (mulV (fp16.decode h.1) s).1)) ∧
  (∀ (t n : Nat) (blk : List Nat) (book : Nat → Nat) (bad : Nat → Bool), n < 256 → blk.getD (n / 5) 0 < 243 →
    let d : Int := (blk.getD (n / 5) 0 / 3 ^ (n % 5) % 3 : Nat) - 1
    let u := e4m3.decode (blk.getD (52 + n / 32) 0)
    let s := fp16.decode (blk.getD 60 0 + 256 * blk.getD 61 0)
    ((decodeBlock 0x12 t blk book bad).1[n]?).map (·.1) = some (toTarget t (mulV (mulV (valInt d 0) u).1 s).1))

/-- The state after power-on reset (R2, R14, Table 0-3, R43, R58, R89, R111): the identity register, the core numbers and generator
seeds, cleared core registers, 16 credits, empty queues of commands. It rests in part on the model's readings in log entry 2. -/
def Obligations.ResetState : Prop :=
  State.reset.pending = [] ∧
  rf State.reset fBseId_part = 0x0416 ∧ rf State.reset fBseId_bstep = 1 ∧ rf State.reset fBseId_bminor = 0 ∧
  (∀ c n : Nat, (State.reset.core c).s n = 0 ∧ (State.reset.core c).a n = 0 ∧ (State.reset.core c).v n = 0 ∧
    (State.reset.core c).vp n = false ∧ (State.reset.core c).preds = 0 ∧ (State.reset.core c).credits = 16) ∧
  (∀ a : Nat, memGet State.reset.mem a = 0)

/-- The forms that every step keeps hold after reset. -/
def Obligations.ResetIsCanonical : Prop := Canonical State.reset

/-- Every step keeps the canonical forms: device memory sorted without zero entries, the register file sorted, at most 4,096
entries in the field defect list (R379). -/
def Obligations.StepKeepsCanonical : Prop :=
  ∀ s t : State, Canonical s → step s = .next t → Canonical t

/-! Bundle encodings. -/

/-- Decoding the word of a field gives the field back: every control command with every operand that its fields allow, every array
operation, and every memory command (Tables 4-1, 4-2, 4-4, 4-6). Decoding the word of a vector field gives it back, for every
conversion and packing that Table 2-5 allows (R42, R104). -/
def Obligations.FieldWordsRoundTrip : Prop :=
  ((∀ (i : Instr) (x : Nat), wellFormed i = true → encodeControl i = some x → decodeControl x = some (withSlot i noSlot)) ∧
  (∀ (i : Instr) (arr x : Nat), wellFormed i = true → encodeArray i = some (arr, x) →
    decodeArray arr x = some (some (withSlot i noSlot))) ∧
  (∀ (i : Instr) (x : Nat), wellFormed i = true → encodeMemory i = some x →
    decodeMemory x = some (some (withSlot i noSlot)))) ∧
  (∀ (i : Instr) (x : Nat), wellFormed i = true → encodeVector i = some x → decodeVector x = some (some (withSlot i noSlot)))

/-- No bit of a control, feeder, array or memory field is dropped: a word that decodes to a command is the word of that command
(Tables 4-2 to 4-4, 4-6). -/
def Obligations.DecodersReadEveryBit : Prop :=
  (∀ (x : Nat) (i : Instr), x < 2 ^ 24 → decodeControl x = some i → encodeControl i = some x) ∧
  (∀ (arr x : Nat) (i : Instr), x < 2 ^ 20 → decodeFeeder arr x = some (some i) → encodeFeeder i = some (arr, x)) ∧
  (∀ (arr x : Nat) (i : Instr), x < 2 ^ 8 → decodeArray arr x = some (some i) → encodeArray i = some (arr, x)) ∧
  (∀ (x : Nat) (i : Instr), x < 2 ^ 24 → decodeMemory x = some (some i) → encodeMemory i = some x)

/-- A bundle made of six field words is taken apart into their commands, in the order control, feeder 0, feeder 1, array 0, array
1, vector, memory (R92, Table 4-1); the first is the first of its bundle and the last the last. -/
def Obligations.BundleTakenApart : Prop :=
  ∀ (core c f0 f1 a0 a1 v m : Nat) (ic if0 if1 ia0 ia1 iv im : Instr),
    c < 2 ^ 24 → f0 < 2 ^ 20 → f1 < 2 ^ 20 → a0 < 2 ^ 8 → a1 < 2 ^ 8 → v < 2 ^ 24 → m < 2 ^ 24 →
    decodeControl c = some ic → decodeFeeder 0 f0 = some (some if0) → decodeFeeder 1 f1 = some (some if1) →
    decodeArray 0 a0 = some (some ia0) → decodeArray 1 a1 = some (some ia1) → decodeVector v = some (some iv) →
    decodeMemory m = some (some im) →
    bundleCmds core (bundleWord c f0 f1 a0 a1 v m) =
      some [withSlot ic ⟨core, true, false⟩, withSlot if0 ⟨core, false, false⟩, withSlot if1 ⟨core, false, false⟩,
        withSlot ia0 ⟨core, false, false⟩, withSlot ia1 ⟨core, false, false⟩, withSlot iv ⟨core, false, false⟩,
        withSlot im ⟨core, false, true⟩]

/-! Bundles of a core. -/

/-- R93: the first field of a bundle takes the core and its generator as they stand at the start of the cycle, if the
core can issue; a later field reads that snapshot; a field that finds its bundle closed does nothing. R90, R91, R96, R107, R112: a
core that is faulted, has issued ENDSTEP, stands in a held partition outside a debug step, waits for the cycle after a branch or
for a memory request to be served, or belongs to no partition or to one that does not run, issues nothing. R109: a field that
names a register with a write pending keeps its bundle from issuing. R95: a control field whose guard is false has no effect of
its own: guard g of 1 to 7 asks for pg false, 8 to 15 for p(g - 8) true. It rests in part on the model's readings in log entry 11. -/
def Obligations.BundlesIssue : Prop :=
  ((∀ (s : State) (sl : Slot), sl.first = true → canIssue s sl.core = true →
    ∃ s1 l, openLatch s sl = some (s1, l) ∧ l.snap = s.core sl.core ∧ l.sr = srState s sl.core ∧
      l.ctl = .seq ∧ s1 = s.setLatch sl.core l) ∧
  (∀ (s : State) (sl : Slot), sl.first = true → canIssue s sl.core = false → openLatch s sl = none) ∧
  (∀ (s : State) (sl : Slot) (l : Latch), sl.first = false → s.latch sl.core = some l → l.dead = false →
    openLatch s sl = some (s, l)) ∧
  (∀ (s : State) (sl : Slot) (g sd sa sb : Nat), openLatch s sl = none → sl.last = false →
    exec (.add sl g sd sa sb) s = .next s) ∧
  (∀ (s s1 : State) (sl : Slot) (l : Latch) (g sd sa sb : Nat), openLatch s sl = some (s1, l) →
    (l.snap.busyS sd = true ∨ l.snap.busyS sa = true ∨ l.snap.busyS sb = true) →
    exec (.add sl g sd sa sb) s = .next (killBundle s1 sl l false) ∧
    (killBundle s1 sl l false).core sl.core = { l.snap with stall := false })) ∧
  (∀ (s : State) (c : Nat), canIssue s c = true →
    ∃ p, partOfCluster s (clusterOfCore c) = some p ∧ (s.part p).run.isSome = true ∧ (s.part p).inStep = true ∧
      ((s.part p).held = true → (s.part p).single = true) ∧ (s.core c).mreq = none ∧ (s.core c).nextAt ≤ (s.part p).cyc ∧
      (s.core c).ended = false ∧ (s.core c).faulted = false ∧ (s.core c).resetting = false) ∧
  (∀ (s s1 : State) (sl : Slot) (l : Latch) (g sd sa sb target : Nat) (imm : BitVec 10), Issues s sl [sd, sa, sb] [] s1 l →
    ((1 ≤ g ∧ g ≤ 7 ∧ l.snap.preds.getLsbD g = true) ∨ (8 ≤ g ∧ g ≤ 15 ∧ l.snap.preds.getLsbD (g - 8) = false)) →
    exec (.add sl g sd sa sb) s = .next (fieldDone sl l s1) ∧ exec (.movi sl g sd imm) s = .next (fieldDone sl l s1) ∧
    exec (.br sl g target) s = .next (fieldDone sl l s1) ∧ exec (.endstep sl g) s = .next (fieldDone sl l s1) ∧
    exec (.brk sl g) s = .next (fieldDone sl l s1) ∧ exec (.jr sl g sa) s = .next (fieldDone sl l s1))

/-- Table 4-2: the arithmetic and logic of the control field write sd from the registers at the start of the cycle, and nothing
else; then the field is done. A product can be used three cycles on (Table 4-7). Table 4-2: moves, address arithmetic, comparisons
and predicate logic of the control field. -/
def Obligations.ScalarCommands : Prop :=
  (∀ (s s1 : State) (sl : Slot) (l : Latch) (g sd sa sb : Nat), Issues s sl [sd, sa, sb] [] s1 l →
    guardTrue l.snap.preds g = true →
    let x := l.snap.s sa
    let y := l.snap.s sb
    let put := fun r : Word => (Host.Outcome.next (fieldDone sl l (onCore s1 sl.core fun k => k.setS sd r)) :
      Host.Outcome State Fault Refusal)
    exec (.add sl g sd sa sb) s = put (x + y) ∧ exec (.sub sl g sd sa sb) s = put (x - y) ∧
    exec (.mul sl g sd sa sb) s = .next (fieldDone sl l (onCore s1 sl.core fun k =>
      { k with late := k.late ++ [{ due := coreCyc s1 sl.core + 3, sregs := [(sd, some (x * y))] }] })) ∧
    exec (.and sl g sd sa sb) s = put (x &&& y) ∧
    exec (.or sl g sd sa sb) s = put (x ||| y) ∧ exec (.xor sl g sd sa sb) s = put (x ^^^ y) ∧
    exec (.shl sl g sd sa sb) s = put (x <<< (y.toNat % 64)) ∧ exec (.shr sl g sd sa sb) s = put (x >>> (y.toNat % 64)) ∧
    exec (.sra sl g sd sa sb) s = put (x.sshiftRight (y.toNat % 64)) ∧
    exec (.min sl g sd sa sb) s = put (if x.toInt < y.toInt then x else y) ∧
    exec (.max sl g sd sa sb) s = put (if x.toInt < y.toInt then y else x)) ∧
  (∀ (s s1 : State) (sl : Slot) (l : Latch) (g d e sa sb : Nat) (imm : BitVec 10) (off : BitVec 12), Issues s sl [d, sa, sb] [] s1 l →
    guardTrue l.snap.preds g = true →
    let put := fun f : Core → Core => (Host.Outcome.next (fieldDone sl l (onCore s1 sl.core f)) :
      Host.Outcome State Fault Refusal)
    exec (.movi sl g d imm) s = put (fun k => k.setS d (imm.signExtend 64)) ∧
    exec (.addi sl g d imm) s = put (fun k => k.setS d (l.snap.s d + imm.signExtend 64)) ∧
    exec (.aaddi sl g e off) s = put (fun k => k.setA e (l.snap.a e + BitVec.ofInt 32 (64 * off.toInt))) ∧
    exec (.amov sl g e sa) s = put (fun k => k.setA e ((l.snap.s sa).setWidth 32)) ∧
    exec (.smova sl g d e) s = put (fun k => k.setS d ((l.snap.a e).setWidth 64)) ∧
    (∀ cmp : Nat, cmp < 4 →
      exec (.setp sl g e cmp sa sb) s = put (fun k => { k with preds := setPred k.preds e (cmpSpec cmp (l.snap.s sa) (l.snap.s sb)) })) ∧
    (∀ fn pa pb : Nat, fn < 4 →
      exec (.plog sl g e fn pa pb) s =
        put (fun k => { k with preds := setPred k.preds e (plogSpec fn (l.snap.preds.getLsbD pa) (l.snap.preds.getLsbD pb)) })) ∧
    (∀ p, partOfCluster s1 (clusterOfCore sl.core) = some p →
      exec (.rds sl g d 0) s = put (fun k => k.setS d (s1.part p).step) ∧
      exec (.rds sl g d 1) s = put (fun k => k.setS d ((s1.part p).m.setWidth 64))) ∧
    (∀ n : Nat, n < 4 → exec (.rds sl g d (2 + n)) s = put (fun k => k.setS d (BitVec.ofNat 64 (loopCount l.snap n)))) ∧
    exec (.rds sl g d 6) s = put (fun k => k.setS d (BitVec.ofNat 64 sl.core)) ∧
    exec (.rds sl g d 7) s = put (fun k => k.setS d s1.devtime))

/-- Table 4-2, R90, R96, R97, R112, R118: loops, branches, step end, breakpoints and flag waits of the control field. R97: which
bundle follows bundle b. Outside the last bundle of every open level the next one follows; at the last bundle of the innermost
level the level goes back to its start while it has turns left, and closes after the last one. -/
def Obligations.ControlFlowAndLoops : Prop :=
  (∀ (s s1 : State) (sl : Slot) (l : Latch) (g n count target sa f : Nat) (keep : Bool), Issues s sl [sa] [] s1 l →
    guardTrue l.snap.preds g = true →
    let put := fun t : State => (Host.Outcome.next (fieldDone sl l t) : Host.Outcome State Fault Refusal)
    let push := fun c : Nat => onCore s1 sl.core fun k => { k with loops := ⟨l.snap.pc + 1, l.snap.pc + n, c⟩ :: k.loops }
    exec (.ctrlNop sl g) s = put s1 ∧
    exec (.loopi sl g n count) s = put (push count) ∧
    ((l.snap.s sa).toNat % 2 ^ 32 ≠ 0 → exec (.loopr sl g n sa) s = put (push ((l.snap.s sa).toNat % 2 ^ 32))) ∧
    ((l.snap.s sa).toNat % 2 ^ 32 = 0 → exec (.loopr sl g n sa) s = put (setCtl s1 sl.core (.skip (l.snap.pc + n)))) ∧
    exec (.br sl g target) s = put (setCtl s1 sl.core (.goto target 2)) ∧
    exec (.jr sl g sa) s = put (setCtl s1 sl.core (.goto ((l.snap.s sa).toNat % 2048) 3)) ∧
    exec (.endstep sl g) s = put (onCore s1 sl.core fun k => { k with ended := true }) ∧
    (∃ t, exec (.brk sl g) s = put t ∧ (t.core sl.core).dbg = true) ∧
    (l.snap.flags.getLsbD f = true → ∃ t, exec (.waitf sl g keep f) s = put t ∧
      (t.core sl.core).flags = (if keep then (s1.core sl.core).flags else (s1.core sl.core).flags &&& ~~~(1#32 <<< f)) ∧
      (t.core sl.core).waits = (s1.core sl.core).waits) ∧
    (l.snap.flags.getLsbD f = false → ∃ t, exec (.waitf sl g keep f) s = put t ∧
      (t.core sl.core).flags = (s1.core sl.core).flags ∧
      ∀ p, corePart s1 sl.core = some p →
        (t.core sl.core).waits = (s1.core sl.core).waits ++ [⟨f, keep, (s1.part p).rc⟩])) ∧
  ((∀ b, loopNext [] b = (b + 1, [])) ∧
  (∀ (l : Loop) (ls : List Loop) (b : Nat), l.last ≠ b → loopNext (l :: ls) b = (b + 1, l :: ls)) ∧
  (∀ (l : Loop) (ls : List Loop) (b : Nat), l.last = b → 1 < l.count →
    loopNext (l :: ls) b = (l.start, { l with count := l.count - 1 } :: ls)) ∧
  (∀ (l : Loop) (ls : List Loop) (b : Nat), l.last = b → l.count ≤ 1 → loopNext (l :: ls) b = loopNext ls b) ∧
  (∀ (ls : List Loop) (b : Nat), (loopNext ls b).2.length ≤ ls.length))

/-- R93, R96, R97: a bundle whose fields have issued leaves the core at the next bundle: one further or where its loops say, at
the target of a taken branch, or past a loop body with no turns; the loop levels follow. The next bundle may issue in the next cycle,
two cycles on after a taken BR, three after a JR. It holds for every core whose next bundle lies inside the program, and other cores
keep all they hold. -/
def Obligations.BundleGoesOn : Prop :=
  ∀ (s : State) (c : Nat) (l : Latch),
    let k := s.core c
    let go := match l.ctl with
      | .seq => loopNext k.loops l.snap.pc
      | .goto n _ => (n, k.loops)
      | .skip e => loopNext k.loops e
    (go.1 < rf s (fCorePlen_len c) ∨ k.ended = true) →
    ((complete s c l).core c).pc = go.1 ∧ ((complete s c l).core c).loops = go.2 ∧
    ((complete s c l).core c).nextAt = coreCyc s c + (match l.ctl with | .goto _ lag => lag | _ => 1) ∧
    ((complete s c l).core c).sregs = k.sregs ∧ ((complete s c l).core c).vregs = k.vregs ∧
    (complete s c l).mem = s.mem ∧ (∀ d, d ≠ c → (complete s c l).core d = s.core d)

/-- Frame of the scalar commands that are not the last field of their bundle: every other scalar register, every address and
vector register, every other core, all of memory, every register of BAR0 and every flag stay as they were. A product stands three
cycles on, and no other of the commands leaves a result on its way. -/
def Obligations.ScalarFrame : Prop :=
  ∀ (s s1 t : State) (sl : Slot) (l : Latch) (g sd sa sb : Nat) (i : Instr), Issues s sl [sd, sa, sb] [] s1 l → sl.last = false →
    i = .add sl g sd sa sb ∨ i = .sub sl g sd sa sb ∨ i = .mul sl g sd sa sb ∨ i = .and sl g sd sa sb ∨
      i = .or sl g sd sa sb ∨ i = .xor sl g sd sa sb ∨ i = .shl sl g sd sa sb ∨ i = .shr sl g sd sa sb ∨
      i = .sra sl g sd sa sb ∨ i = .min sl g sd sa sb ∨ i = .max sl g sd sa sb →
    exec i s = .next t →
    (∀ r, r ≠ sd → (t.core sl.core).s r = (s.core sl.core).s r) ∧
    (i ≠ .mul sl g sd sa sb → (t.core sl.core).late = (s.core sl.core).late) ∧
    (i = .mul sl g sd sa sb → (t.core sl.core).sregs = (s.core sl.core).sregs ∧
      ∃ x, (t.core sl.core).late = (s.core sl.core).late ++ [{ due := coreCyc s sl.core + 3, sregs := [(sd, x)] }]) ∧
    (t.core sl.core).aregs = (s.core sl.core).aregs ∧ (t.core sl.core).vregs = (s.core sl.core).vregs ∧
    (t.core sl.core).preds = (s.core sl.core).preds ∧ (t.core sl.core).flags = (s.core sl.core).flags ∧
    (∀ d, d ≠ sl.core → t.core d = s.core d) ∧ (∀ a, memGet t.mem a = memGet s.mem a) ∧ (∀ o, t.reg o = s.reg o) ∧
    t.parts = s.parts ∧ t.pending = s.pending

/-! Vector, memory, feeder and array fields. -/

/-- Table 4-5, R104, R46, R85: lane-wise arithmetic. Each lane is the exact result rounded once in the type; vd takes the lanes from
byte 0, a poison tag if a source has one, and the flags of the lanes, after the cycles of Table 4-7. Nothing else changes before the
field is done. It rests in part on the model's readings in log entry 50. -/
def Obligations.VectorArithmetic : Prop :=
  ∀ (s s1 : State) (sl : Slot) (l : Latch) (p : Nat) (ty : VTy) (vd va vb : Nat), Issues s sl [] [vd, va, vb] s1 l →
    predTrue l.snap.preds p = true →
    let A := valsOf ty (l.snap.v va)
    let B := valsOf ty (l.snap.v vb)
    let D := valsOf ty (l.snap.v vd)
    let put := fun (n : Nat) (psn : Bool) (rs : List (Nat × Fl)) => (Host.Outcome.next (fieldDone sl l
      (putV s1 sl.core n vd (packV ty.w (rs.map (·.1))) psn (flagsOf rs))) : Host.Outcome State Fault Refusal)
    let pab := l.snap.vp va || l.snap.vp vb
    exec (.vadd sl p ty vd va vb) s = put 3 pab ((A.zip B).map fun x => roundV ty.fmt (sumV [x.1, x.2])) ∧
    exec (.vsub sl p ty vd va vb) s = put 3 pab ((A.zip B).map fun x => roundV ty.fmt (sumV [x.1, x.2.neg])) ∧
    exec (.vmul sl p ty vd va vb) s = put 3 pab ((A.zip B).map fun x => roundV ty.fmt (mulV x.1 x.2)) ∧
    exec (.vfma sl p ty vd va vb) s = put 4 (pab || l.snap.vp vd) ((D.zip (A.zip B)).map fun x => fmaLane ty.fmt x.1 x.2.1 x.2.2) ∧
    exec (.vmax sl p ty vd va vb) s = put 2 pab ((A.zip B).map fun x => ty.fmt.encode true .rne (maxV x.1 x.2)) ∧
    exec (.vmin sl p ty vd va vb) s = put 2 pab ((A.zip B).map fun x => ty.fmt.encode true .rne (minV x.1 x.2)) ∧
    exec (.vabs sl p ty vd va) s = put 2 (l.snap.vp va) (A.map fun x => ty.fmt.encode true .rne x.abs) ∧
    exec (.vneg sl p ty vd va) s = put 2 (l.snap.vp va) (A.map fun x => ty.fmt.encode true .rne x.neg) ∧
    exec (.vexp sl p ty vd va) s = put 6 (l.snap.vp va) (A.map fun x => roundF ty.fmt (expV x)) ∧
    exec (.vrcp sl p ty vd va) s = put 6 (l.snap.vp va) (A.map fun x => roundF ty.fmt (rcpV x)) ∧
    exec (.vrsq sl p ty vd va) s = put 6 (l.snap.vp va) (A.map fun x => roundF ty.fmt (rsqV x)) ∧
    exec (.vrsum sl p ty vd va) s = put 5 (l.snap.vp va) [roundV ty.fmt (sumV A)] ∧
    (∀ v vs, A = v :: vs → exec (.vrmax sl p ty vd va) s =
      put 5 (l.snap.vp va) [ty.fmt.encode true .rne (vs.foldl maxV v)])

/-- Table 4-5, R85, R104, R105, R184: moves, bitwise operations, comparison, selection, broadcast, the interpolation table and the
tree mask. Tables 2-5 and 4-5, R33, R34, R41 to R46, R105: conversions, unpacking, MX packing and unpacking. The generator advances
only on stochastic conversions. It rests in part on the model's readings in log entry 50. -/
def Obligations.VectorMovesAndConversions : Prop :=
  (∀ (s s1 : State) (sl : Slot) (l : Latch) (p : Nat) (ty : VTy) (vd va vb lane sa grp : Nat), Issues s sl [sa] [vd, va, vb] s1 l →
    predTrue l.snap.preds p = true →
    let k := l.snap
    let put := fun (n : Nat) (x : Vec) (psn : Bool) (fl : Fl) => (Host.Outcome.next (fieldDone sl l (putV s1 sl.core n vd x psn fl)) :
      Host.Outcome State Fault Refusal)
    exec (.vnop sl p) s = .next (fieldDone sl l s1) ∧
    exec (.vand sl p vd va vb) s = put 2 (k.v va &&& k.v vb) (k.vp va || k.vp vb) flNone ∧
    exec (.vor sl p vd va vb) s = put 2 (k.v va ||| k.v vb) (k.vp va || k.vp vb) flNone ∧
    exec (.vxor sl p vd va vb) s = put 2 (k.v va ^^^ k.v vb) (k.vp va || k.vp vb) flNone ∧
    exec (.vmov sl p vd va) s = put 2 (k.v va) (k.vp va) flNone ∧
    (∃ rs : List (Nat × Fl), exec (.vcmplt sl p ty vd va vb) s =
        put 2 (packV ty.w (rs.map (·.1))) (k.vp va || k.vp vb) (flagsOf rs) ∧
      rs = ((valsOf ty (k.v va)).zip (valsOf ty (k.v vb))).map fun x =>
        (if ltV false x.1 x.2 then 2 ^ ty.w - 1 else 0, flNone)) ∧
    exec (.vsel sl p ty vd va vb) s =
      put 2 (packV ty.w (((lanesOf ty (k.v vd)).zip ((lanesOf ty (k.v va)).zip (lanesOf ty (k.v vb)))).map fun x =>
        if x.2.2 = 0 then x.1 else x.2.1)) (k.vp vd || k.vp va || k.vp vb) flNone ∧
    exec (.vbc sl p ty vd va lane) s =
      put 2 (packV ty.w (List.replicate ty.n (bitsAt (k.v va).toNat ty.w lane))) (k.vp va) flNone ∧
    exec (.vbcs sl p ty vd sa) s =
      put 2 (packV ty.w (List.replicate ty.n ((k.s sa).toNat % 2 ^ ty.w))) false flNone ∧
    (∃ e : Late, exec (.vtwr sl p va grp) s = .next (fieldDone sl l (onCore s1 sl.core fun k => { k with late := k.late ++ [e] })) ∧
      e.due = coreCyc s1 sl.core + 2 ∧ e.sregs = [] ∧ e.vregs = [] ∧ e.fl = 0 ∧ e.sig = [] ∧
      ∀ d : Core,
        (∀ j, j < 8 → tableEntry (d.land e) (8 * grp + j) = BitVec.ofNat 64 (bitsAt (k.v va).toNat 64 j) ∧
          tget false (d.land e).tablePsn (8 * grp + j) = k.vp va) ∧
        (∀ i, i < 8 * grp ∨ 8 * grp + 8 ≤ i → tableEntry (d.land e) i = tableEntry d i)) ∧
    (∃ psn : Bool, ∃ fl : Fl, exec (.vtab sl p ty vd va vb) s =
        put 6 (packV ty.w ((valsOf ty (k.v va)).map fun x =>
          (tabLane k ty.fmt (((valsOf .f32 (k.v vb))[0]?).getD .nan) (((valsOf .f32 (k.v vb))[1]?).getD .nan) x).1)) psn fl ∧
      ((k.vp va || k.vp vb) = true → psn = true)) ∧
    exec (.vtmask sl p vd va vb ty) s =
      put 3 (packV ty.w (treeMask ty (k.v va).toNat ((k.v vb).toNat % 256)).1) (k.vp va || k.vp vb)
        (if (treeMask ty (k.v va).toNat ((k.v vb).toNat % 256)).2 then flNv else flNone)) ∧
  (∀ (s s1 : State) (sl : Slot) (l : Latch) (p vd va dst rnd code q src : Nat) (ty : VTy),
    Issues s sl [] [vd, va, va + 1, vd + 1] s1 l → predTrue l.snap.preds p = true →
    let k := l.snap
    let done := fun t : State => (Host.Outcome.next (fieldDone sl l t) : Host.Outcome State Fault Refusal)
    let conv := fun sty : VTy =>
      let all := valsOf sty (k.v va)
      let wide := dst == 0 && sty != .f32
      let vs := if wide then (all.drop (16 * rnd)).take 16 else all
      let g := if wide then ⟨false, 0⟩ else genOf s1 sl.core rnd (srDest dst)
      let r := convElems dst (rb s1 (fCoreCvt_sat sl.core)) g vs
      putGen (putV s1 sl.core 3 vd (packV (elemBits dst) (r.1.map (·.1))) (k.vp va) (flagsOf r.1)) sl.core r.2
    exec (.cvtF32 sl p vd va dst rnd) s = done (conv .f32) ∧
    exec (.cvtBf16 sl p vd va dst rnd) s = done (conv .bf16) ∧
    exec (.cvtF16 sl p vd va dst rnd) s = done (conv .f16) ∧
    (∃ rs : List (Nat × Fl), exec (.cvtI32 sl p vd va) s =
        done (putV s1 sl.core 3 vd (packV 32 (rs.map (·.1))) (k.vp va) (flagsOf rs)) ∧
      rs = (unpackBits (k.v va).toNat 32 16).map fun x => fp32.encode true .rne (elemVal 0x13 x)) ∧
    (∃ rs : List (Nat × Fl), exec (.unpk sl p q vd va src ty) s =
        done (putV s1 sl.core 3 vd (packV ty.w (rs.map (·.1))) (k.vp va) (flagsOf rs)) ∧
      rs = (unpackBits ((k.v va).toNat / 2 ^ (elemBits src * (q * ty.n))) (elemBits src) ty.n).map fun x =>
        ty.fmt.encode true .rne (elemVal src x)) ∧
    exec (.mxpF32 sl p vd va code rnd) s = done (mxPackTo s1 sl.core vd code rnd
      (valsOf .f32 (k.v va) ++ valsOf .f32 (k.v (va + 1))) (k.vp va || k.vp (va + 1))) ∧
    exec (.mxpF16 sl p vd va code rnd) s = done (mxPackTo s1 sl.core vd code rnd (valsOf .f16 (k.v va)) (k.vp va)) ∧
    exec (.mxpBf16 sl p vd va code rnd) s = done (mxPackTo s1 sl.core vd code rnd (valsOf .bf16 (k.v va)) (k.vp va)) ∧
    (∃ rs : List (Nat × Fl), rs = (unpackBits (k.v va).toNat (elemBits code) 32).map (fun e =>
        ty.fmt.encode true .rne (mxVal code e ((k.v va).toNat / 2 ^ 504))) ∧
      exec (.mxu sl p vd va code ty) s =
        let lo := (vd, some (packV 32 ((rs.map (·.1)).take 16), k.vp va))
        let hi := (vd + 1, some (packV 32 ((rs.map (·.1)).drop 16), k.vp va))
        if ty = .f32 then done (onCore s1 sl.core fun d =>
          { d with late := d.late ++ [{ due := coreCyc s1 sl.core + 4, vregs := [lo, hi], fl := flagsOf rs }] })
        else done (putV s1 sl.core 4 vd (packV 16 (rs.map (·.1))) (k.vp va) (flagsOf rs))))

/-- R85, R104, Table 4-7: a vector result on its way stands from the end of its last cycle on, and its write changes no register of its
core but vd, no other core, no memory and no register of BAR0 but the core's sticky flags, which the flags of the result join. A result
that is not due changes nothing. It rests in part on the model's readings in log entry 11. -/
def Obligations.VectorFrame : Prop :=
  (∀ (s : State) (c n vd : Nat) (x : Vec) (psn : Bool) (fl : Fl),
    let e : Late := { due := coreCyc s c + n, vregs := [(vd, some (x, psn))], fl := fl }
    let t := landLate s c e
    putV s c n vd x psn fl = onCore s c (fun k => { k with late := k.late ++ [e] }) ∧
    (t.core c).v vd = x ∧ (t.core c).vp vd = psn ∧
    (∀ r, r ≠ vd → (t.core c).v r = (s.core c).v r ∧ (t.core c).vp r = (s.core c).vp r) ∧
    (t.core c).sregs = (s.core c).sregs ∧ (t.core c).aregs = (s.core c).aregs ∧ (t.core c).preds = (s.core c).preds ∧
    (∀ d, d ≠ c → t.core d = s.core d) ∧ (∀ a, memGet t.mem a = memGet s.mem a) ∧
    fpFlags t c = fpFlags s c ||| fl ∧ (∀ o, o ≠ offCoreFpflag c → t.reg o = s.reg o)) ∧
  (∀ (s : State) (c : Nat), ((landCore s c).core c).late = (s.core c).late.filter fun e => decide (coreCyc s c < e.due)) ∧
  (∀ (s : State) (c : Nat) (e : Late), (s.core c).late = [e] → e.due ≤ coreCyc s c →
    landCore s c = landLate (s.setCore c { s.core c with late := [] }) c e) ∧
  (∀ (s : State) (p : Nat), (s.part p).ran = false → closeCycle s p = s) ∧
  (∀ (s : State) (p : Nat), (s.part p).ran = true → ((closeCycle s p).part p).cyc = (s.part p).cyc + 1 ∧
    ∀ c ∈ coresOf s p, ∀ e ∈ ((closeCycle s p).core c).late, corePart s c = some p → (s.part p).cyc + 1 < e.due)

/-- R56, R85, R106: loads and stores of the memory field. Addresses are a + 64 off or a alone with inc (bits 5:0 ignored), and a +
8 off (bits 2:0 ignored); inc adds 64 off to a. R107: the request is presented in its issue cycle, and one that is not served again
until it is. R65, R67, Table 4-7: a VLD served brings the word and the poison of its pieces four cycles on from cluster memory and
two from local scratch, a VST stores v and marks its pieces, an SLD brings r unless a piece is poisoned, an SST stores r and leaves
the marks. R106, R107, R110, R111, R173: SEND puts v into an injection channel that has room, SIGF sets a signal flag of a core of
the same cluster two cycles on, REQ takes a credit, clears flag f, counts the request and hands the descriptor to the cluster DMA; a
consuming wait's credits return to the 16 a core has. It rests in part on the model's readings in log entries 11, 49. -/
def Obligations.MemoryFields : Prop :=
  (∀ (s s1 : State) (sl : Slot) (l : Latch) (p v r a : Nat) (inc : Bool) (off : BitVec 10), Issues s sl [r] [v] s1 l →
    predTrue l.snap.preds p = true →
    let c := sl.core
    let done := fun t : State => (Host.Outcome.next (fieldDone sl l t) : Host.Outcome State Fault Refusal)
    let plus := fun k : Nat => (l.snap.a a + BitVec.ofInt 32 (off.toInt * (k : Int)))
    let va := (if inc then l.snap.a a else plus 64).toNat / 64 * 64
    let ra := (plus 8).toNat / 8 * 8
    let sI := if inc then onCore s1 c fun k => k.setA a (plus 64) else s1
    (localOf va ≠ none →
      exec (.vld sl p v a inc off) s = done (memPresent sI c { op := .vld, reg := v, addr := va }) ∧
      exec (.vst sl p v a inc off) s = done (memPresent sI c
        { op := .vst, reg := v, addr := va, data := (l.snap.v v).toNat, poison := l.snap.vp v })) ∧
    (localOf ra ≠ none →
      exec (.sld sl p r a off) s = done (memPresent s1 c { op := .sld, reg := r, addr := ra }) ∧
      exec (.sst sl p r a off) s = done (memPresent s1 c { op := .sst, reg := r, addr := ra, data := (l.snap.s r).toNat })) ∧
    (localOf va = none → exec (.vld sl p v a inc off) s = done (coreFault sI c .accessViolation) ∧
      exec (.vst sl p v a inc off) s = done (coreFault sI c .accessViolation)) ∧
    (localOf ra = none → exec (.sld sl p r a off) s = done (coreFault s1 c .accessViolation) ∧
      exec (.sst sl p r a off) s = done (coreFault s1 c .accessViolation))) ∧
  (∀ (s u : State) (c : Nat) (r : MemReq) (ok : Bool),
    (r.addr < 0x400000 ∧ cmAsk s c r.addr (decide (r.op = .vld ∨ r.op = .sld)) = (u, ok)) ∨
      (0x400000 ≤ r.addr ∧ r.addr < 0x410000 ∧ lsAsk s c (r.addr - 0x400000) (decide (r.op = .vld ∨ r.op = .sld)) = (u, ok)) →
    (ok = false → memPresent s c r = onCore u c fun k => { k with mreq := some r, stall := true }) ∧
    (ok = true →
      let w := onCore u c fun k => { k with mreq := none, stall := false, nextAt := max k.nextAt (coreCyc u c + 1) }
      let d := fun v : State => coreCyc v c + (if r.addr < 0x400000 then 4 else 2)
      let f := fun n : Nat => localFinds w c r.addr n
      (∀ x psn, r.op = .vld → localRead (f 64) c r.addr 64 = some (x, psn) → memPresent s c r = onCore (f 64) c fun k =>
        { k with late := k.late ++ [{ due := d (f 64), vregs := [(r.reg, some (BitVec.ofNat 512 x, psn))] }] }) ∧
      (∀ x, r.op = .sld → localRead (f 8) c r.addr 8 = some (x, false) → memPresent s c r = onCore (f 8) c fun k =>
        { k with late := k.late ++ [{ due := d (f 8), sregs := [(r.reg, some (BitVec.ofNat 64 x))] }] }) ∧
      (∀ x, r.op = .sld → localRead (f 8) c r.addr 8 = some (x, true) → memPresent s c r = coreFault (f 8) c .uncorrectable) ∧
      (∀ t, r.op = .vst → localWrite w c r.addr 64 r.data (some r.poison) = some t → memPresent s c r = t) ∧
      (∀ t, r.op = .sst → localWrite w c r.addr 8 r.data none = some t → memPresent s c r = t))) ∧
  (∀ (s s1 : State) (sl : Slot) (l : Latch) (p v r a : Nat) (inc : Bool) (off : BitVec 10), Issues s sl [r] [v] s1 l →
    predTrue l.snap.preds p = true → NoUpsets s →
    let c := sl.core
    let plus := fun k : Nat => (l.snap.a a + BitVec.ofInt 32 (off.toInt * (k : Int)))
    let va := (if inc then l.snap.a a else plus 64).toNat / 64 * 64
    let ra := (plus 8).toNat / 8 * 8
    let cm := fun x : Nat => cmAddr (clusterOfCore c) x
    let x := (localRead s c va 64).getD (0, false)
    let y := (localRead s c ra 8).getD (0, false)
    (BankFree s1 c va →
      (∃ t, exec (.vld sl p v a inc off) s = .next (fieldDone sl l t) ∧ t.mem = s.mem ∧
        (t.core c).late = (s1.core c).late ++
          [{ due := coreCyc s c + (if va < 0x400000 then 4 else 2), vregs := [(v, some (BitVec.ofNat 512 x.1, x.2))] }]) ∧
      (∃ t, exec (.vst sl p v a inc off) s = .next (fieldDone sl l t) ∧
        localRead t c va 64 = some ((l.snap.v v).toNat, l.snap.vp v) ∧
        (va < 0x400000 → ∀ b, b < cm va ∨ cm va + 64 ≤ b → memGet t.mem b = memGet s.mem b) ∧
        (0x400000 ≤ va → t.mem = s.mem ∧
          ∀ b, b < va - 0x400000 ∨ va - 0x400000 + 64 ≤ b → memGet (t.core c).scratch b = memGet (s1.core c).scratch b))) ∧
    (BankFree s1 c ra →
      (y.2 = false → ∃ t, exec (.sld sl p r a off) s = .next (fieldDone sl l t) ∧ t.mem = s.mem ∧
        (t.core c).late = (s1.core c).late ++
          [{ due := coreCyc s c + (if ra < 0x400000 then 4 else 2), sregs := [(r, some (BitVec.ofNat 64 y.1))] }]) ∧
      (∃ t, exec (.sst sl p r a off) s = .next (fieldDone sl l t) ∧
        localRead t c ra 8 = some ((l.snap.s r).toNat, y.2) ∧
        (ra < 0x400000 → ∀ b, b < cm ra ∨ cm ra + 8 ≤ b → memGet t.mem b = memGet s.mem b) ∧
        (0x400000 ≤ ra → t.mem = s.mem ∧
          ∀ b, b < ra - 0x400000 ∨ ra - 0x400000 + 8 ≤ b → memGet (t.core c).scratch b = memGet (s1.core c).scratch b)))) ∧
  (∀ (s : State) (c p v r a : Nat) (inc : Bool) (off : BitVec 10) (m : MemReq) (q : Nat), (s.core c).mreq = some m →
    s.latch c = none → (s.core c).faulted = false → (s.core c).resetting = false → corePart s c = some q → (s.part q).go = true →
    let sl : Slot := ⟨c, false, false⟩
    exec (.vld sl p v a inc off) s = .next (memPresent s c m) ∧ exec (.vst sl p v a inc off) s = .next (memPresent s c m) ∧
    exec (.sld sl p r a off) s = .next (memPresent s c m) ∧ exec (.sst sl p r a off) s = .next (memPresent s c m)) ∧
  ((∀ (s s1 : State) (sl : Slot) (l : Latch) (p v ch k f : Nat), Issues s sl [] [v] s1 l → predTrue l.snap.preds p = true →
    let c := sl.core
    let done := fun t : State => (Host.Outcome.next (fieldDone sl l t) : Host.Outcome State Fault Refusal)
    ((tget [] l.snap.chans ch).length < 2 → exec (.send sl p v ch) s = done (onCore s1 c fun x =>
      { x with chans := tset x.chans ch (tget [] l.snap.chans ch ++ [⟨l.snap.v v, l.snap.vp v, false⟩]) })) ∧
    (2 ≤ (tget [] l.snap.chans ch).length → exec (.send sl p v ch) s = .next (killBundle s1 sl l true)) ∧
    exec (.sigf sl p k f) s = done (onCore s1 (32 * (c / 32) + k) fun x =>
      { x with late := x.late ++ [{ due := coreCyc s1 c + 3, sig := [f] }] }) ∧
    (l.snap.credits = 0 → exec (.req sl p v f) s = .next (killBundle s1 sl l true)) ∧
    (0 < l.snap.credits → ∃ t, exec (.req sl p v f) s = done t ∧
      (t.core c).credits = (s1.core c).credits - 1 ∧ (t.core c).flags = (s1.core c).flags &&& ~~~(1#32 <<< f) ∧
      tget 0 (t.core c).outst f = tget 0 (s1.core c).outst f + 1 ∧
      (∀ q, corePart s1 c = some q → (t.dma (c / 32)).queue = acceptDesc
        { id := (s1.dma (c / 32)).nextId, core := c, flag := f, x := l.snap.v v, poison := l.snap.vp v, born := (s1.part q).rc }
        (s1.dma (c / 32)).queue) ∧
      t.mem = s.mem)) ∧
  (∀ (d : Desc) (q : List Desc), (∀ e ∈ q, e.born = d.born → e.core ≤ d.core) → acceptDesc d q = q ++ [d]) ∧
  (∀ (s : State) (core q n d : Nat) (r : List (Nat × Nat)), (s.core core).returning = (d, n) :: r →
    corePart s core = some q → (s.part q).go = true → d ≤ (s.part q).rc → (∀ x ∈ r, (s.part q).rc < x.1) →
    exec (.creditReturn core) s = .next (s.setCore core
      { s.core core with credits := min 16 ((s.core core).credits + n), returning := r })))

/-- R10, R56, R57, R67: a store at a core-local address is read back, and touches no other byte: a cluster-memory store changes device
memory from cmAddr on and no scratch, a scratch store changes the core's own scratch and no device memory. -/
def Obligations.LocalStoreReadBack : Prop :=
  ∀ (s t : State) (c a n x : Nat) (m : Bool), localWrite s c a n x (some m) = some t →
    (∃ psn, localRead t c a n = some (x % 256 ^ n, psn)) ∧
    (a < 0x400000 → (∀ d, t.core d = s.core d) ∧
      (∀ b, b < cmAddr (clusterOfCore c) a ∨ cmAddr (clusterOfCore c) a + n ≤ b → memGet t.mem b = memGet s.mem b)) ∧
    (0x400000 ≤ a → a < 0x410000 ∧ t.mem = s.mem ∧ (∀ d, d ≠ c → t.core d = s.core d) ∧
      (∀ b, b < a - 0x400000 ∨ a - 0x400000 + n ≤ b → memGet (t.core c).scratch b = memGet (s.core c).scratch b))

/-- R110, R112: a flag that is set with no core waiting stays set; the oldest consuming WAITF that waits for it consumes it and its
wait ends, with the waits that keep the flag before it; where every waiting one keeps the flag it stays set and all of them end. A
counted request that completes lowers its count, and the last one sets the flag. R59, R60, R61, R63, R64: a bank of cluster memory
serves one access in a cycle, and with it further reads of the same word; words of one 4 KiB block lie in different banks; in every
sixteenth cycle of a step no core is served. It rests in part on the model's readings in log entries 12, 49. -/
def Obligations.FlagsAndWaits : Prop :=
  (∀ (s : State) (c f : Nat), f < 32 →
    ((∀ w ∈ (s.core c).waits, w.flag ≠ f) → ((setFlag s c f).core c).flags.getLsbD f = true) ∧
    ((∃ w ∈ (s.core c).waits, w.flag = f ∧ w.keep = false) → ((setFlag s c f).core c).flags.getLsbD f = false) ∧
    ((∀ w ∈ (s.core c).waits, w.flag = f → w.keep = true) → ((setFlag s c f).core c).flags.getLsbD f = true ∧
      ∀ w ∈ ((setFlag s c f).core c).waits, w.flag ≠ f) ∧
    (∀ (a b : List Wait) (w : Wait), (s.core c).waits = a ++ w :: b → w.flag = f → w.keep = false →
      (∀ v ∈ a, v.flag = f → v.keep = true) →
      ((setFlag s c f).core c).waits = (a.filter fun v => decide (v.flag ≠ f)) ++ b) ∧
    (∀ g, g ≠ f → ((setFlag s c f).core c).flags.getLsbD g = (s.core c).flags.getLsbD g) ∧
    (tget 0 (s.core c).outst f = 0 → requestDone s c f = s) ∧
    (0 < tget 0 (s.core c).outst f → tget 0 ((requestDone s c f).core c).outst f = tget 0 (s.core c).outst f - 1) ∧
    (1 < tget 0 (s.core c).outst f → ((requestDone s c f).core c).flags = (s.core c).flags) ∧
    (tget 0 (s.core c).outst f = 1 → (∀ w ∈ (s.core c).waits, w.flag ≠ f) →
      ((requestDone s c f).core c).flags.getLsbD f = true)) ∧
  (∀ (us : List BankUse) (bank word : Nat) (rd : Bool),
    ((∀ u ∈ us, u.bank ≠ bank) → bankServe us bank word rd = some (us ++ [⟨bank, word, rd, false⟩], false)) ∧
    (∀ u, us.find? (fun u => decide (u.bank = bank)) = some u →
      ((bankServe us bank word rd).isSome = true ↔ rd = true ∧ u.read = true ∧ u.word = word))) ∧
  (∀ a b : Nat, a / 4096 = b / 4096 → (bankOf a = bankOf b ↔ a / 64 = b / 64)) ∧
  (∀ (s : State) (c a p : Nat) (rd : Bool), corePart s c = some p → (s.part p).m.toNat % 16 = 15 → (cmAsk s c a rd).2 = false)

/-- R98 to R102: feeder fields enter the stream queue of two descriptors or take the loader, and array operations enter the
request queue of four; a full queue keeps the bundle from issuing. With inc, FEED adds 64 for each word and LOADS the size of its
set. R70 to R79: the work of an array outside bundles. A load reads its words one in a cycle and fills the shadow bank with the last
one; a feeder pushes the next vector of 16 elements; an array whose queue and feeder both have something issues a vector into its
accumulators, V cycles after the one before at the soonest; a drain writes the accumulators to its register with their flags once
its cycle D + 16 is over. It rests in part on the model's readings in log entries 11, 46. -/
def Obligations.FeedersAndArrays : Prop :=
  (∀ (s s1 : State) (sl : Slot) (l : Latch) (arr a words n v fmt sf tf : Nat),
    openLatch s sl = some (s1, l) → (∀ r, l.snap.busyV r = false) →
    let c := sl.core
    let T := coreCyc s1 c
    let done := fun t : State => (Host.Outcome.next (fieldDone sl l t) : Host.Outcome State Fault Refusal)
    let arrIn := fun f : Arr → Arr => onArr s1 c arr f
    let stream := fun st : Stream => arrIn fun x => { x with streams := x.streams ++ [st] }
    let req := fun r : AReq => arrIn fun x => { x with reqs := x.reqs ++ [r] }
    let base := BitVec.ofNat 32 ((l.snap.a a).toNat / 64 * 64)
    let sb := l.snap.a (Nat.xor a 1)
    let mem := fun src : FSrc => ({ src := src, fmt := fmt, addr := base, left := words, sbase := sb
                                    total := vecsOf fmt (64 * words), start := T + 1 } : Stream)
    let ld := fun src : FSrc => ({ src := src, addr := base, sbase := BitVec.ofNat 32 (sb.toNat / 16 * 16), sf := sf, tf := tf,
                                   start := T + 1 } : LoadReq)
    let load := fun (src : FSrc) (n : Nat) => arrIn fun x => { x with loadL := T + n, load := some (ld src) }
    ((l.snap.arr arr).streams.length < 2 →
      exec (.feedCm sl arr a words false fmt) s = done (stream (mem .cm)) ∧
      exec (.feedLs sl arr a words false fmt) s = done (stream (mem .ls)) ∧
      (isMx fmt = false → exec (.feedCm sl arr a words true fmt) s =
        done (onCore (stream (mem .cm)) c fun k => k.setA a (l.snap.a a + BitVec.ofNat 32 (64 * words)))) ∧
      exec (.feedV sl arr v n fmt) s = done (stream
        { src := .v, fmt := fmt, addr := 0, left := n, sbase := 0, start := T + 1
          regs := (List.range n).map fun i => (l.snap.v (v + i), l.snap.vp (v + i)) }) ∧
      exec (.feedMesh sl arr n fmt) s = done (stream { src := .mesh, fmt := fmt, addr := 0, left := n, sbase := 0, start := T + 1 })) ∧
    (2 ≤ (l.snap.arr arr).streams.length → exec (.feedCm sl arr a words false fmt) s = .next (killBundle s1 sl l true) ∧
      exec (.feedV sl arr v n fmt) s = .next (killBundle s1 sl l true)) ∧
    ((l.snap.arr arr).load = none → (l.snap.arr arr).shadow = none →
      ((l.snap.arr arr).markEnd ≤ T + 5 → exec (.loadsCm sl arr a false sf tf) s = done (load .cm 5) ∧
        (isMx sf = false → exec (.loadsCm sl arr a true sf tf) s =
          done (onCore (load .cm 5) c fun k => k.setA a (l.snap.a a + BitVec.ofNat 32 (setBytes sf))))) ∧
      ((l.snap.arr arr).markEnd ≤ T + 3 → exec (.loadsLs sl arr a false sf tf) s = done (load .ls 3)) ∧
      ((l.snap.arr arr).markEnd ≤ T + 1 → exec (.loadsV sl arr v sf tf) s = done (arrIn fun x =>
        { x with shadow := some (regSet l.snap v sf tf), loadL := T + 1, loadEnd := T + 16 + bit (isMx sf) }))) ∧
    ((l.snap.arr arr).load ≠ none ∨ (l.snap.arr arr).shadow ≠ none →
      exec (.loadsCm sl arr a false sf tf) s = .next (killBundle s1 sl l true)) ∧
    ((l.snap.arr arr).reqs.length < 4 →
      exec (.iss sl arr n) s = done (req (.vecs n false)) ∧ exec (.pass sl arr n) s = done (req (.vecs n true)) ∧
      exec (.pre sl arr v) s = done (req (.pre v)) ∧ exec (.drain sl arr v) s = done (req (.drain v)) ∧
      exec (.discard sl arr) s = done (req .discard)) ∧
    (4 ≤ (l.snap.arr arr).reqs.length → exec (.iss sl arr n) s = .next (killBundle s1 sl l true))) ∧
  (∀ (s : State) (c arr : Nat), arrGo s c = true → (s.core c).faulted = false →
    let x := (s.core c).arr arr
    let T := coreCyc s c
    (∀ ld, x.load = some ld → ld.start ≤ T → x.portUsed ≠ T + 1 → ld.got < setBytes ld.sf / 64 →
      let a := (ld.addr.toNat + 64 * ld.got) % 2 ^ 32
      let w := (localRead s c a 64).getD (0, false)
      srcIn ld.src a = true →
      (BankFree s c a → NoUpsets s → ∃ t, exec (.stationaryLoadStart c arr) s = .next t ∧
        (t.core c).arr arr = loadGot { x with portUsed := T + 1 } ld (setBytes ld.sf / 64) false w.1 w.2) ∧
      ((arrAsk s c arr ld.src a).2 = false → ∃ t, exec (.stationaryLoadStart c arr) s = .next t ∧
        (t.core c).arr arr = { x with portUsed := T + 1, loadL := x.loadL + 1 })) ∧
    (∀ (y : Arr) (ld : LoadReq) (n w : Nat) (p : Bool), isMx ld.sf = false → ld.act = false →
      (ld.got + 1 = n → (loadGot y ld n false w p).load = none ∧ (loadGot y ld n false w p).shadow =
        some (statSet ld.sf ld.tf (ld.data + 2 ^ (512 * ld.got) * w) 0 (ld.poison || p))) ∧
      (ld.got + 1 < n → (loadGot y ld n false w p).shadow = y.shadow)) ∧
    (x.streams ≠ [] → x.fedAt ≠ T + 1 →
      let u := feedPresent (onArr s c arr fun y => { y with fedAt := T + 1 }) c arr
      exec (.feederPush c arr) s = .next (if (u.core c).faulted then u else onArr u c arr (feedWork T))) ∧
    (∀ (st : Stream) (v : Vec) (p : Bool) (rs : List (Vec × Bool)), x.streams = [st] → x.fedAt ≠ T + 1 → x.fq.length < 8 →
      st.src = .v → st.regs = (v, p) :: rs → st.left ≠ 0 → st.start ≤ T → st.fly = [] → st.buf = [] → st.ask = none →
      0 < vecBytes st.fmt → vecBytes st.fmt ≤ 64 → isMx st.fmt = false →
      ∃ t, exec (.feederPush c arr) s = .next t ∧ ((t.core c).arr arr).fq =
        x.fq ++ [⟨st.fmt, vecElems st.fmt ((bytesOf 64 v.toNat).take (vecBytes st.fmt)), none, p⟩]) ∧
    (∀ (y : Arr) (st : Stream) (rest : List Stream), y.streams = st :: rest → st.fly = [] → y.fq.length < 8 → 0 < vecBytes st.fmt →
      vecBytes st.fmt ≤ st.buf.length → isMx st.fmt = false →
      (feedWork T y).fq = y.fq ++ [⟨st.fmt, vecElems st.fmt ((st.buf.take (vecBytes st.fmt)).map (·.1)), none,
        (st.buf.take (vecBytes st.fmt)).any (·.2)⟩]) ∧
    (T < x.nextIss → exec (.arrayVectorIssue c arr) s = .next s) ∧
    (∀ left rs v fq cls, x.reqs = .vecs left false :: rs → 1 < left → x.fq = v :: fq → x.inForce ≠ 0 → x.nextIss ≤ T →
      pairClass x.active.sf x.active.tf = some cls → v.fmt = x.active.tf → x.accOpen = true → x.acc.int = cls.int →
      (∀ ld, x.load = some ld → ld.act = false) → x.acc.pipe = [] →
      ∃ t, exec (.arrayVectorIssue c arr) s = .next t ∧ ((t.core c).arr arr).fq = fq ∧
        ((t.core c).arr arr).reqs = .vecs (left - 1) false :: rs ∧
        ((t.core c).arr arr).acc = accStep x.active cls v false none x.acc ∧
        ((t.core c).arr arr).nextIss = T + cls.v ∧ ((t.core c).arr arr).fillAt = T + 19 + cls.v) ∧
    (∀ dst acc fire rest, x.draining = ⟨dst, acc, fire⟩ :: rest → fire + 17 ≤ T → acc.pipe = [] → drainMismatch acc acc.vals = [] →
      exec (.drainFire c arr []) s = .next (addFlags (s.setCore c (((s.core c).setArr arr { x with draining := rest }).setV dst
        (BitVec.ofNat 512 (packBits 32 (acc.vals.map (·.toNat)))) acc.poison)) c acc.fl)))

/-! Partitions, routers and cluster DMAs. -/

/-- R90, R128: in the first core cycle of a step every core of the partition stands at its entry with no loop open, issues
ENDSTEP's effect at once where it has no program, keeps its registers, and the step-cycle count is 0. -/
def Obligations.StepStartsAtEntry : Prop :=
  ∀ (s : State) (p : Nat), ((startStep s p).part p).m = 0 ∧ ((startStep s p).part p).inStep = true ∧
    ((startStep s p).part p).step = (s.part p).step ∧
    (∀ c ∈ coresOf s p, ((startStep s p).core c).pc = rf s (fCoreEntry_entry c) ∧ ((startStep s p).core c).loops = [] ∧
      ((startStep s p).core c).ended = decide (rf s (fCorePlen_len c) = 0) ∧
      ((startStep s p).core c).sregs = (s.core c).sregs ∧ ((startStep s p).core c).vregs = (s.core c).vregs ∧
      ((startStep s p).core c).flags = (s.core c).flags ∧ ((startStep s p).core c).credits = (s.core c).credits) ∧
    (∀ a, memGet (startStep s p).mem a = memGet s.mem a)

/-- R91, R128: a step boundary of a partition that owns no cluster-wide work left to do and runs outside a cascade counts the step.
The boundary comes when every core has issued ENDSTEP and every router has completed its step. R246: the last step of a RUN_STEPS
ends it OK with the step number, any other gives way to the next. -/
def Obligations.StepBoundaryCounts : Prop :=
  (∀ (s : State) (p : Nat), stepDone s p = false → exec (.stepBoundary p) s = .next s) ∧
  (∀ (s : State) (p : Nat), stepDone s p = true → (∀ c ∈ coresOf s p, (s.core c).ended = true) ∧
    (∀ cl ∈ clustersOf s p, (s.router cl).done = true ∨ (s.router cl).has = false)) ∧
  (∀ (s : State) (p : Nat) (r : Run), BoundaryDue s p r → (s.part p).holdReqs = [] →
    (r.steps = 0 ∨ r.ran + 1 < r.steps → ∃ t, exec (.stepBoundary p) s = .next t ∧ (t.part p).step = (s.part p).step + 1 ∧
      (t.part p).m = 0 ∧ (t.part p).inStep = true) ∧
    (∀ e, r.steps = r.ran + 1 → r.rel = none → entryOf s r.q r.seq = some e → e.reply = none →
      ∃ t, exec (.stepBoundary p) s = .next t ∧ (t.part p).run = none ∧ (t.part p).step = (s.part p).step + 1 ∧
        Ended t r.q r.seq .ok ((s.part p).step + 1).toNat))

/-- R114, R115: when the loads that waited for a boundary have been written, which takes a cycle for each bundle of the longest, what the
boundary does next follows, before a run's first step that step. R353: a start that
waits for the floor goes on once its domains are on, F has reached the load plus the predicted increase, at most 800 W of it, and, where
its clock rises, the voltages and PLLs are ready:
the run no longer waits, and its start is noted with the load. -/
def Obligations.StartsGoOn : Prop :=
  (∀ (s : State) (p c : Nat) (q : QLoad), c ∈ coresOf s p → (s.core c).qload = some q →
    ((beginStep s p).part p).loading = true ∧ q.bundles.length ≤ ((beginStep s p).part p).loadLeft) ∧
  (∀ (s : State) (p : Nat), 0 < (s.part p).loadLeft → exec (.boundaryLoadsDone p) s = .next s) ∧
  (∀ (s : State) (p : Nat), (s.part p).run.isSome = true → (s.part p).loading = true → (s.part p).loadLeft = 0 →
    let u := (writeLoads s p).setPart p { (writeLoads s p).part p with loading := false, bound := false, prevLen := none }
    ((s.part p).bound = false → exec (.boundaryLoadsDone p) s = .next (beginStep u p)) ∧
    ((s.part p).bound = true → exec (.boundaryLoadsDone p) s = .next (boundaryEnd u p)) ∧
    (∀ c ∈ coresOf s p, (u.core c).qload = none) ∧
    (∀ (c : Nat) (bs : List (BitVec 128)) (entry : Nat),
      (∀ (i : Nat) (b : BitVec 128), bs[i]? = some b → tget 0 ((writeProgram s c bs entry).core c).store i = b) ∧
      (∀ i : Nat, bs.length ≤ i → tget 0 ((writeProgram s c bs entry).core c).store i = tget 0 (s.core c).store i))) ∧
  (∀ (s : State) (p : Nat) (r : Run), (s.part p).run = some r → r.waitFloor = true → rb s (fPwrPclk_ramp p) = false →
    asleepDomains s p = [] → floorTarget s p (startClk s p) ≤ s.pwr.floor →
    (startClk s p < rf s (fPwrPclk_cur p) → riseReady s p (startClk s p) = true) → (s.part p).kvq = [] → r.rel = none →
    ∃ t, exec (.floorReached p) s = .next t ∧ tfind t.pwr.starts p = some (s.devtime.toNat, s.pwr.load) ∧
      (t.part p).run = some { r with waitFloor := false, rel := none })

/-- R112: a change of the partition's hold line reaches the cores one hold lead later: the oldest change under way comes into force,
and nothing else of the state changes. R126: when the run of the entry in force has expired a router's sequencer goes on as the
entry says: to the next entry, into a loop, back to its start while turns are left, or to the end of the router's step. It rests in
part on the model's readings in log entry 47. -/
def Obligations.HoldsAndSchedules : Prop :=
  (∀ (s : State) (p : Nat) (r : List Bool),
    ((s.part p).levels = true :: r → ∃ x, exec (.partitionHoldStart p) s = .next (s.setPart p x) ∧ x.held = true ∧ x.levels = r ∧
      x.run = (s.part p).run ∧ x.m = (s.part p).m ∧ x.step = (s.part p).step ∧ x.inStep = (s.part p).inStep) ∧
    ((s.part p).levels = false :: r → ∃ x, exec (.partitionHoldEnd p) s = .next (s.setPart p x) ∧ x.held = false ∧ x.levels = r ∧
      x.run = (s.part p).run ∧ x.m = (s.part p).m ∧ x.step = (s.part p).step ∧ x.inStep = (s.part p).inStep) ∧
    (∀ q, q ≠ p → ∀ t, exec (.partitionHoldStart p) s = .next t → t.part q = s.part q)) ∧
  (∀ (s : State) (cl : Nat), routerGo s cl = true → (s.router cl).has = true → (s.router cl).done = false →
    (s.router cl).rem = 0 →
    let r := s.router cl
    let e := tget 0 r.sched r.slot
    let enter := fun (q : Router) (n : Nat) => ({ q with slot := n, rem := seRun (tget 0 q.sched n) + 1 } : Router)
    (∃ t, exec (.scheduleEntryEnd cl) s = .next t ∧ (t.router cl).sched = r.sched) ∧
    (seSeq e = 0 → exec (.scheduleEntryEnd cl) s = .next (s.setRouter cl (enter r (r.slot + 1)))) ∧
    (seSeq e = 1 → (r.loops.head?).map (·.1) ≠ some r.slot → exec (.scheduleEntryEnd cl) s =
      .next (s.setRouter cl (enter { r with loops := (r.slot, seCnt e + 1) :: r.loops } (r.slot + 1)))) ∧
    (∀ b n ls, seSeq e = 2 → seCnt e = 0 → r.loops = (b, n) :: ls → exec (.scheduleEntryEnd cl) s =
      .next (s.setRouter cl (if 1 < n then enter { r with loops := (b, n - 1) :: ls } b
        else enter { r with loops := ls } (r.slot + 1)))) ∧
    (seSeq e = 3 → exec (.scheduleEntryEnd cl) s =
      .next (boundaryIfDone (s.setRouter cl { r with done := true, rem := 0 }) (partOfCluster s cl))))

/-- R122, R138, R320: the oldest lane-flit of a lane's segment arrives. It is presented, or joins the skid in a held cycle or
behind others; one whose check does not match its data is marked poisoned and counted as a line-check event of its sender. R129,
R131: a delivery to cluster memory writes 32 bytes at the generator's address, base + 32 × inner index + 32 × stride × outer index
modulo 4 MiB, and no other byte, and counts; one to local scratch does so in the core the generator names. -/
def Obligations.LaneFlitsMove : Prop :=
  (∀ (s : State) (cl lane n : Nat) (f : Flit) (seg : List (Nat × Flit)) (err : BitVec 256),
    ((s.router cl).lane lane).seg = (n, f) :: seg →
    let g := { f with data := f.data ^^^ err }
    let bad := f.valid = true ∧ f.poison = false ∧ pieceCheck g.data ≠ f.chk
    (¬bad → ((s.router cl).lane lane).skid = [] → (∀ p, partOfCluster s cl = some p → (s.part p).held = false) →
      exec (.laneFlitArrival cl lane err) s = .next (s.setRouter cl ((s.router cl).setLane lane
        { (s.router cl).lane lane with seg := seg, pres := some g }))) ∧
    (¬bad → ((s.router cl).lane lane).skid ≠ [] → ∃ t, exec (.laneFlitArrival cl lane err) s = .next t ∧
      ((t.router cl).lane lane).skid = ((s.router cl).lane lane).skid ++ [g] ∧ ((t.router cl).lane lane).seg = seg) ∧
    (bad → ∃ u, exec (.laneFlitArrival cl lane err) s =
      .next (errEvent u .lineCheck .checkMismatch (laneSender cl lane) 0 (unitCluster cl) 0) ∧
      ((u.router cl).lane lane).seg = seg ∧ (((u.router cl).lane lane).pres = some { g with poison := true } ∨
        ((u.router cl).lane lane).skid = ((s.router cl).lane lane).skid ++ [{ g with poison := true }]))) ∧
  (∀ (s : State) (cl d : Nat) (x : Dlv) (rest : List Dlv), tget [] (s.router cl).dlv d = x :: rest →
    x.due = 0 → (∀ p, partOfCluster s cl = some p → (s.part p).held = false) →
    let i := x.idx.getD (tget 0 (s.router cl).gcount x.gen)
    (genKind s cl x.gen = 0 → ∃ t, exec (.meshDelivery cl d) s = .next t ∧
      t.mem = memWrite s.mem (cmAddr cl (genAddr s cl x.gen i % 0x400000).toNat) 32 x.flit.data.toNat ∧
      t.psn = psnSet s.psn (cmAddr cl (genAddr s cl x.gen i % 0x400000).toNat) 32 x.flit.poison ∧
      tget [] (t.router cl).dlv d = rest ∧ (x.idx = none → tget 0 (t.router cl).gcount x.gen = i + 1) ∧
      t.cores = s.cores ∧ t.regs = s.regs) ∧
    (genKind s cl x.gen = 1 → ∃ t, exec (.meshDelivery cl d) s = .next t ∧ t.mem = s.mem ∧
      memRead (t.core (32 * cl + rf s (fMshDgen_core (8 * cl + x.gen)))).scratch (genAddr s cl x.gen i % 0x10000).toNat 32 =
        x.flit.data.toNat))

/-- R318: the two check bits of a piece. c0 is the XOR of the bits k with k mod 3 ≠ 1, c1 of those with k mod 3 ≠ 0; they find every
error of one bit and every error confined to two adjacent bits; and bits 2i + 1 and 2i of a line's check are c1 and c0 of its piece
i. -/
def Obligations.LineCheckFindsErrors : Prop :=
  (∀ x : BitVec 256,
    let par := fun r : Nat => ((List.range 256).filter fun k => decide (k % 3 ≠ r) && x.getLsbD k).length % 2
    (pieceCheck x).toNat = par 1 + 2 * par 0) ∧
  (∀ (x : BitVec 256) (k : Nat), k < 256 → pieceCheck (x ^^^ (1#256 <<< k)) ≠ pieceCheck x) ∧
  (∀ (x : BitVec 256) (k : Nat), k < 255 → pieceCheck (x ^^^ (3#256 <<< k)) ≠ pieceCheck x) ∧
  (∀ data psn i : Nat, i < 8 →
    bits (flitsOf 0 256 data psn).chk.toNat (2 * i) 2 = (pieceCheck (BitVec.ofNat 256 (data / 2 ^ (256 * i)))).toNat)

/-- R173, R175, R176: the descriptor at the head of a cluster DMA's queue starts when fewer than eight are active and no barrier is
or would be passed; one that breaks a check ends INVALID with nothing moved, and a good one's own command follows. R177 to R189,
R408: a descriptor in progress moves its pieces in order from where it stands, and when all have moved it ends with the status it
earned: the first error that did not stop it, UNCORRECTABLE where it met poison, else OK. CBSWAP and COMMIT act at once. R177, R178,
R182, R187, R189: descriptors of one row, in or out of a line of scratch that is served, and a COMMIT whose tree is in order, complete with
their bytes moved. R110, R173,
R175: when a request completes, its descriptor leaves the DMA, an error is kept in CLU_DMASTAT, and the count of its flag falls. It
rests in part on the model's readings in log entries 9, 26. -/
def Obligations.DescriptorsRun : Prop :=
  (∀ (s : State) (cl : Nat) (ecc : Eccs) (d : Desc) (r : List Desc), (s.dma cl).queue = d :: r →
    (canStart (s.dma cl) = true ↔ (s.dma cl).active.length < 8 ∧ (barrier d.x = true → (s.dma cl).active = []) ∧
      ∀ y ∈ (s.dma cl).active, barrier y.x = false) ∧
    (canStart (s.dma cl) = false → exec (.descriptorStart cl ecc) s = .next s) ∧
    (canStart (s.dma cl) = true → d.poison = false → descOk d.x = true →
      exec (.descriptorStart cl ecc) s =
        .next ((s.setDma cl { s.dma cl with queue := r, active := (s.dma cl).active ++ [d] }).emit [kindCmd cl d ecc])) ∧
    (canStart (s.dma cl) = true → d.poison = false → descOk d.x = false →
      ∃ t, exec (.descriptorStart cl ecc) s = .next t ∧ t.mem = s.mem ∧ t.pending = s.pending ++ [.requestComplete cl d.id] ∧
        ∀ y ∈ (t.dma cl).active, y.id = d.id → y.done = some .invalid)) ∧
  (∀ (s t : State) (cl id : Nat) (ecc : Eccs) (d e : Desc) (st : Status), descOf s cl id = some d → d.done = none →
    let ended := (Host.Outcome.next (endDesc t cl e (e.fail.getD (if e.sawPsn then .uncorrectable else .ok))) :
      Host.Outcome State Fault Refusal)
    (runPieces (copyStep cl d.x ecc) s d ((copyPieces d.x).drop d.pos) = (t, e, true) → exec (.dmaCopy cl id ecc) s = ended) ∧
    (runPieces (tcopyStep cl d.x ecc) s d ((tcopyPieces d.x).drop d.pos) = (t, e, true) → exec (.tcopy cl id ecc) s = ended) ∧
    (runPieces (decodeStep cl d.x ecc) s d ((decodePieces d.x).drop d.pos) = (t, e, true) → exec (.decode cl id ecc) s = ended) ∧
    (runPieces (gatherStep cl d.x ecc) s d ((pagePieces s cl d.x).drop d.pos) = (t, e, true) →
      exec (.gather cl id ecc) s = ended) ∧
    (runPieces (scatterStep cl d.x ecc) s d ((pagePieces s cl d.x).drop d.pos) = (t, e, true) →
      exec (.scatter cl id ecc) s = ended) ∧
    (runPieces (cbloadStep cl d.x ecc) s d ((rowPieces (dDva d.x) (dInner d.x)).drop d.pos) = (t, e, true) →
      exec (.cbload cl id ecc) s = ended) ∧
    exec (.cbswap cl id) s = .next (endDesc (s.setDma cl { s.dma cl with half := 1 - (s.dma cl).half }) cl d .ok) ∧
    (commitPages s cl (dP d.x 0) (dP d.x 1) (dP d.x 2) (dP d.x 3) = (t, st) →
      exec (.commit cl id) s = .next (endDesc t cl d st))) ∧
  (∀ (s : State) (cl id : Nat) (d : Desc) (n : Nat), OneRow s cl id d n → cl < 512 → dCma d.x + n ≤ 0x400000 →
    let q := dmaAcc s cl d []
    let c := cmAddr cl (dCma d.x)
    let st := fun a : Nat => if psnAny s.psn (a / 256 * 256) 256 then Status.uncorrectable else .ok
    let out := if psnAny s.psn c n then Status.uncorrectable else .ok
    let a := dDva d.x
    let T := cmAddr cl (tableAddr (dP d.x 0) + 4 * (bits (dP d.x 1) 0 32 % tableSize (dP d.x 0)))
    let w := memRead s.mem T 4
    let g := (dDva d.x + bits w 0 24 * bits (dP d.x 2) 0 32 + bits (dP d.x 3) 0 32) % 2 ^ 48
    (ScratchServes s q a n →
      (dDir d.x = 0 → ∃ t, exec (.dmaCopy cl id []) s = .next t ∧ memRead t.mem c n = memRead s.mem a n ∧
        (∀ b, b < c ∨ c + n ≤ b → memGet t.mem b = memGet s.mem b) ∧ DescEnded t cl id (st a)) ∧
      (dDir d.x = 1 → ∃ t, exec (.dmaCopy cl id []) s = .next t ∧ memRead t.mem a n = memRead s.mem c n ∧
        (∀ b, b < a ∨ a + n ≤ b → memGet t.mem b = memGet s.mem b) ∧ DescEnded t cl id out) ∧
      ((∀ i j, i < n → j < n → tcopyAt d.x 0 i = tcopyAt d.x 0 j → i = j) → ∃ t, exec (.tcopy cl id []) s = .next t ∧
        (∀ i, i < n → memGet t.mem (cmAddr cl (tcopyAt d.x 0 i)) = memGet s.mem (a + i)) ∧ DescEnded t cl id (st a)) ∧
      (∃ t, exec (.cbload cl id []) s = .next t ∧ (t.dma cl).half = (s.dma cl).half ∧
        memRead (t.dma cl).store (65536 * (1 - (s.dma cl).half) + 8192 * bits (dP d.x 0) 0 3) n = memRead s.mem a n ∧
        DescEnded t cl id (st a))) ∧
    (bits w 31 1 = 1 → psnAny s.psn T 4 = false → ScratchServes s q g n →
      (∃ t, exec (.gather cl id []) s = .next t ∧ memRead t.mem c n = memRead s.mem g n ∧ DescEnded t cl id (st g)) ∧
      (∃ t, exec (.scatter cl id []) s = .next t ∧ memRead t.mem g n = memRead s.mem c n ∧ DescEnded t cl id out)) ∧
    (let b := decodeFrom d.x (0, 0)
      let m := s.dma cl
      let base := 65536 * m.half + 8192 * bits (dP d.x 0) 0 3
      let blk := (List.range (blockBytes (dSfmt d.x))).map fun i => (memGet s.mem (b + i)).toNat
      let es := (decodeBlock (dSfmt d.x) (dTfmt d.x) blk (fun i => (memGet m.store (base + i)).toNat)
        (fun i => tget false m.storePsn ((base + i) / 8))).1
      n = 1 → s.upsets.book = [] → ScratchServes s q b (blockBytes (dSfmt d.x)) → ∃ t, exec (.decode cl id []) s = .next t ∧
        memRead t.mem c (32 * elemBits (dTfmt d.x)) =
          packBits (elemBits (dTfmt d.x)) (es.map (·.1)) % 256 ^ (32 * elemBits (dTfmt d.x)) ∧ DescEnded t cl id (st b))) ∧
  (∀ (s : State) (cl id : Nat) (d : Desc), descOf s cl id = some d → d.done = none → d.sawPsn = false →
    TreeReady s cl (dP d.x 0) (dP d.x 1) (dP d.x 2) (dP d.x 3) → ∃ t, exec (.commit cl id) s = .next t ∧
      TreeCommitted s t cl (dP d.x 1) (dP d.x 2) (dP d.x 3) ∧ DescEnded t cl id .ok) ∧
  (∀ (s : State) (cl id : Nat) (d : Desc) (st : Status), descOf s cl id = some d → d.done = some st →
    ∃ t, exec (.requestComplete cl id) s = .next t ∧ (∀ y ∈ (t.dma cl).active, y.id ≠ id) ∧
      (st ≠ .ok → rb t (fCluDmastat_derr cl) = true ∧ rf t (fCluDmastat_lasterr cl) = st.code) ∧
      (0 < tget 0 (s.core d.core).outst d.flag →
        tget 0 (t.core d.core).outst d.flag = tget 0 (s.core d.core).outst d.flag - 1) ∧
      (∀ a, memGet t.mem a = memGet s.mem a))

/-- R177, R408: what one piece does. A piece in whose read is served puts its bytes at its cluster-memory address and changes no
other byte of device memory than the read did; a piece out writes the bytes of cluster memory to the device address, and where the
write is turned away the descriptor keeps the status and goes on. It rests in part on the model's readings in log entry 52. -/
def Obligations.PiecesMoveBytes : Prop :=
  (∀ (s u : State) (q : Acc) (cl : Nat) (d : Desc) (a c n x psn imm : Nat), q.ecc = [] → readBytes s q a n = (u, .ok x psn imm) →
    ∃ t e, pieceIn s q cl d a c n = (t, some e) ∧ memRead t.mem (cmAddr cl c) n = x % 256 ^ n ∧ e.fail = d.fail ∧
      (∀ b, b < cmAddr cl c ∨ cmAddr cl c + n ≤ b → memGet t.mem b = memGet u.mem b)) ∧
  (∀ (s u : State) (q : Acc) (cl : Nat) (d : Desc) (a c n : Nat) (st : Status), q.ecc = [] → readBytes s q a n = (u, .err st) →
    ∃ t e, pieceIn s q cl d a c n = (t, some e) ∧ memRead t.mem (cmAddr cl c) n = 0 ∧ e.fail = some (d.fail.getD st)) ∧
  (∀ (s : State) (q : Acc) (cl : Nat) (d : Desc) (a c n : Nat), pieceOut s { q with ecc := [] } cl d a c n =
    (match writeBytes s { q with ecc := [] } a n (natOf ((cmRead s cl c n).map (·.1))) (markPieces (a % 256) (cmRead s cl c n)) with
     | (u, .ok _ _ _) => (u, some { d with sawPsn := d.sawPsn || (cmRead s cl c n).any (·.2) })
     | (u, .err st) => (u, some { d with sawPsn := d.sawPsn || (cmRead s cl c n).any (·.2), fail := some (d.fail.getD st) })
     | (u, .wait) => (u, none)))

/-! Command queues and the command processor. -/

/-- R242, R249: an entry that ends with a status that does not halt gets its reply, with the DEVTIME of its completion point or, where it
has not reached that, of its end, once; any other status also stops its queue, whose CMD_SQSTAT shows the status. -/
def Obligations.EntriesEndOnce : Prop :=
  ∀ (s : State) (q seq detail result : Nat) (st : Status) (e : Entry), entryOf s q seq = some e → e.reply = none → q < 64 →
    let at' := if e.past then e.pastAt else s.devtime.toNat
    (st.good = true → ∃ e', entryOf (finish s q seq st detail result) q seq = some e' ∧ e'.pkt = e.pkt ∧
      e'.reply = some ⟨st, detail % 2 ^ 32, result % 2 ^ 64, at'⟩ ∧
      ((finish s q seq st detail result).queue q).stop = (s.queue q).stop) ∧
    (st.good = false → (s.queue q).failed = none → (s.queue q).entries = [e] →
      ∃ e', entryOf (finish s q seq st detail result) q seq = some e' ∧
        e'.reply = some ⟨st, detail % 2 ^ 32, result % 2 ^ 64, at'⟩ ∧
        ((finish s q seq st detail result).queue q).stop = true ∧
        rf (finish s q seq st detail result) (fCmdSqstat_laststat q) = st.code) ∧
    (∀ (st' : Status) (d r : Nat), st.good = true → st'.good = true →
      entryOf (finish (finish s q seq st detail result) q seq st' d r) q seq = entryOf (finish s q seq st detail result) q seq)

/-- R247, R248, R259, R323: the commands of the copy engines. A well-formed packet takes a free engine, whose first tile follows;
PREFETCH ends OK with the number of lines it covers; ADVISE ends OK when every line of its range has been walked or every page
translated: a line prefetched from the far tier takes an entry of the miss table, a dirty line of the range is written to host memory.
R247, R253, R256: a tile. An engine whose command is to be aborted ends it at a tile boundary; else it does its next
tile when every page is translated: with all its writes made the engine goes on to the next tile, or its entry ends OK with the
tiles and bytes written. R247, R323: a command of one write, within lines of scratch, and a DIGEST of one line complete with their bytes
and their result. It rests in part on the model's readings in log entries 9, 24. -/
def Obligations.CopyEngines : Prop :=
  (∀ (s : State) (q seq : Nat) (x : BitVec 512), EntryWaits s q seq x →
    let take := fun e : Nat => (Host.Outcome.next (((setBegun s q seq).setEngine e
      { q := q, seq := seq, busy := true, out := (s.engine e).out }).emit [.tileComplete e []]) : Host.Outcome State Fault Refusal)
    let ok := fun (t : State) (n : Nat) => (Host.Outcome.next (finish (setPast (setBegun t q seq) q seq) q seq .ok 0 n) :
      Host.Outcome State Fault Refusal)
    (∀ e, freeEngine s = some e → copyOk x = true → exec (.copy q seq) s = take e ∧ exec (.copy2d q seq) s = take e ∧
      exec (.fill q seq) s = take e ∧ exec (.zero q seq) s = take e) ∧
    (∀ e, freeEngine s = some e → digestOk x = true → exec (.digest q seq) s = take e) ∧
    (copyOk x = false → exec (.copy q seq) s = .next (finish s q seq .invalid 0 0)) ∧
    (∀ e, freeEngine s = some e → pk x 32 8 ≠ 0 →
      (∀ b ∈ rangeLines s (pkAddr x 16) (pk x 32 8), checkReq s (engineAcc s e q x []) b 1 false ≠ some .accessViolation) →
      ∃ t, exec (.prefetch q seq) s = ok t ((pkAddr x 16 + pk x 32 8 - 1) / 256 - pkAddr x 16 / 256 + 1)) ∧
    (∀ e b, freeEngine s = some e → rangeLines s (pkAddr x 16) (pk x 32 8) = [b] → pk x 32 8 ≠ 0 →
      checkReq s (engineAcc s e q x []) b 1 false = none → rangeOf b = .far →
      let sl := sliceOf (b / 256)
      uncached s sl = false → (s.slice sl).missOf (b / 256) 0 = none → (s.slice sl).find (b / 256) 0 = .absent →
      (s.slice sl).miss.length < 512 → (s.slice sl).side.length + ((s.slice sl).miss.filter (·.side)).length < 128 →
      ∃ t, exec (.prefetch q seq) s = .next t ∧ Ended t q seq .ok 1 ∧
        (∃ m, (t.slice sl).missOf (b / 256) 0 = some m ∧ m.side = true ∧ m.waiters = []) ∧
        ∀ k, k < 4 → Instr.missSectorArrival sl (b / 256) 0 k [] ∈ t.pending) ∧
    (hostOnly (pkAddr x 16) (pk x 32 8) = true → isMember s = false →
      let w := hostWalk 2 (pkAddr x 16) (pk x 32 8) (qPasid s q)
      let held := allSlices.flatMap fun sl => (s.slice sl).lines.filter fun ln => w.covers ln.line ln.pasid ln.key && ln.dirty
      let there := fun ln : CLine => ∃ y ∈ s.host.cache, y.covers ln.pasid (lineAddr ln.line - hostBase) = true ∧ y.w = true
      let out := fun (t : State) (ln : CLine) => memRead (hostCells t ln.pasid) (lineAddr ln.line - hostBase) 256 = ln.data % 2 ^ 2048
      (held = [] → (∃ t, exec (.adviseWriteback q seq) s = .next t ∧ Ended t q seq .ok 0 ∧ t.hostMem = s.hostMem) ∧
        ∃ t, exec (.adviseDrop q seq) s = .next t ∧ Ended t q seq .ok 0 ∧ t.hostMem = s.hostMem ∧
          ∀ sl ∈ allSlices, ∀ ln ∈ (s.slice sl).lines, w.covers ln.line ln.pasid ln.key = true →
            (t.slice sl).find ln.line ln.pasid = .absent) ∧
      (∀ ln, held = [ln] → there ln → (∃ t, exec (.adviseWriteback q seq) s = .next t ∧ Ended t q seq .ok 0 ∧ out t ln) ∧
        ∃ t, exec (.adviseDrop q seq) s = .next t ∧ Ended t q seq .ok 0 ∧ out t ln) ∧
      ((∀ p ∈ hostPages (qPasid s q) false [(pkAddr x 16, pk x 32 8)], ∃ y ∈ s.host.cache, y.covers p.1 (4096 * p.2.1) = true ∧ y.r = true) →
        ∃ t, exec (.adviseTranslate q seq) s = .next t ∧ Ended t q seq .ok 0)) ∧
    (∀ t, hostOnly (pkAddr x 16) (pk x 32 8) = true →
      (walkSlices s (hostWalk 2 (pkAddr x 16) (pk x 32 8) (qPasid s q)) allSlices = (t, []) →
        exec (.adviseWriteback q seq) s = ok t 0) ∧
      (walkSlices s (hostWalk 3 (pkAddr x 16) (pk x 32 8) (qPasid s q)) allSlices = (t, []) →
        exec (.adviseDrop q seq) s = ok t 0) ∧
      (pagesReady s q seq (hostPages (qPasid s q) false [(pkAddr x 16, pk x 32 8)]) = (t, .ready) →
        exec (.adviseTranslate q seq) s = ok t 0))) ∧
  (∀ (s : State) (e : Nat) (ecc : Eccs) (en : Entry), entryOf s (s.engine e).q (s.engine e).seq = some en →
    (s.engine e).busy = true → (s.engine e).fail = none →
    let g := s.engine e
    let q := engineAcc s e g.q en.pkt ecc
    let ms := tileMoves en.pkt g.tile
    (g.abort = true → g.pos = 0 → exec (.tileComplete e ecc) s = .next (engineEnd s e .aborted g.tile g.bytes)) ∧
    (∀ s0 t : State, g.abort = false → copyClass (pkOpcode en.pkt) = true →
      pagesReady s g.q g.seq (hostPages q.pasid false (ms.flatMap (·.src)) ++ hostPages q.pasid true (ms.map fun m => (m.dst, m.n))) =
        (s0, .ready) →
      runTile (s0.setEngine e { g with waitPages := [] }) e q en.pkt (.tileComplete e ecc) (ms.drop g.pos) = t →
      (t.engine e).fail = none → (t.engine e).pos = ms.length →
      let u := dropPages (t.setEngine e { t.engine e with tile := g.tile + 1, pos := 0 }) (t.engine e).q (t.engine e).seq
      (g.tile + 1 < tileCount en.pkt → (t.engine e).tile = g.tile → exec (.tileComplete e ecc) s =
        .next (u.emit [.tileComplete e []])) ∧
      (¬ g.tile + 1 < tileCount en.pkt → (t.engine e).tile = g.tile → (t.engine e).badAddr = none →
        exec (.tileComplete e ecc) s = .next (engineEnd u e .ok (g.tile + 1) (t.engine e).bytes)))) ∧
  (∀ (s : State) (q seq e a b n : Nat) (x : BitVec 512) (c : Instr), q < 64 → EntryWaits s q seq x → freeEngine s = some e →
    let acc := engineAcc s e q x []
    (copyOk x = true → tileCount x = 1 → ScratchServes s acc b n →
      ((c = .copy q seq ∧ pkOpcode x = 1) ∨ (c = .copy2d q seq ∧ pkOpcode x = 2) → tileMoves x 0 = [⟨b, n, [(a, n)]⟩] →
        ScratchServes s acc a n → psnAny s.psn (a / 256 * 256) 256 = false →
        ∃ t u, exec c s = .next t ∧ exec (.tileComplete e []) t = .next u ∧ memRead u.mem b n = memRead s.mem a n ∧
          (∀ y, y < b ∨ b + n ≤ y → memGet u.mem y = memGet s.mem y) ∧ Ended u q seq .ok n) ∧
      ((c = .fill q seq ∧ pkOpcode x = 3) ∨ (c = .zero q seq ∧ pkOpcode x = 4) → tileMoves x 0 = [⟨b, n, []⟩] →
        ∃ t u, exec c s = .next t ∧ exec (.tileComplete e []) t = .next u ∧
          (∀ i, i < n → memGet u.mem (b + i) =
            if pkOpcode x = 3 then BitVec.ofNat 8 (pk x 40 8 / 2 ^ (8 * ((b + i) % fillWidth x))) else 0) ∧
          (∀ y, y < b ∨ b + n ≤ y → memGet u.mem y = memGet s.mem y) ∧ Ended u q seq .ok n)) ∧
    (digestOk x = true → copyClass (pkOpcode x) = false → pk x 32 8 = 256 → ScratchServes s acc (pkAddr x 16) 256 →
      psnAny s.psn (pkAddr x 16) 256 = false → ∃ t u, exec (.digest q seq) s = .next t ∧ exec (.tileComplete e []) t = .next u ∧
        u.mem = s.mem ∧
        Ended u q seq .ok (crc64 (bytesOf 8 0 ++ bytesOf 256 (memRead s.mem (pkAddr x 16) 256)) % 2 ^ 64)))

/-- R114, R116, R134, R135, R183: loads of a stopped partition. An image that reads well and passes its checks is written to every
core, router or codebook store of the list, and the command ends OK. It rests in part on the model's readings in log entries 43, 56. -/
def Obligations.LoadsAreWritten : Prop :=
  (∀ (s u : State) (q seq : Nat) (x : BitVec 512), EntryWaits s q seq x →
    let p := qPart s q
    (∀ xs : List (Byte × Bool),
      let cs := (List.range (pk x 10 2)).map fun i => pk x 8 2 + i
      let bs := bundlesOf (xs.map (·.1)) (pk x 24 2)
      1 ≤ pk x 24 2 → pk x 24 2 ≤ 2048 → pk x 26 2 < pk x 24 2 → bits x.toNat 224 1 = 0 →
      (∀ c ∈ cs, partOfCluster s (c / 32) = some p ∧ rf s (fPwrDomctl_state (domainOf (c / 32))) = 0) →
      readRange s (cpAcc s q x) (piecesFrom (pkAddr x 16) (16 * pk x 24 2)) = (u, xs, none) → (∀ b ∈ xs, b.2 = false) →
      programOk bs (pk x 26 2) = true → (∀ c ∈ cs, coreUsable u c = true) → (u.part p).aborted = false → stopped u p = true →
      exec (.loadProgram q seq) s = .next (done (cs.foldl (fun t c => writeProgram t c bs (pk x 26 2))
        (auditLoad u q 8 (pk x 8 2) p (xs.map (·.1)))) q seq 0 0)) ∧
    (∀ (d : Desc) (xs : List (Byte × Bool)),
      let cls := (List.range (pk x 10 2)).map fun i => pk x 8 2 + i
      (∀ cl ∈ cls, partOfCluster s cl = some p ∧ rf s (fPwrDomctl_state (domainOf cl)) = 0 ∧ (s.dma cl).active = [] ∧
        (s.dma cl).queue = []) → stopped s p = true → bits x.toNat 199 1 = 0 →
      dmaReadAll s (cpAcc s q x) { id := 0, core := 0, flag := 0, x := 0 } (piecesFrom (pkAddr x 16) (pk x 28 4)) =
        (u, some (d, xs)) →
      let at' := fun (t : State) (cl : Nat) => 65536 * (1 - (t.dma cl).half) + 8192 * bits x.toNat 192 3
      let put := fun (t : State) (cl : Nat) => bookWritten (t.setDma cl (storeWrite (t.dma cl) (at' t cl) xs)) cl (at' t cl) xs.length
      exec (.loadCodebook q seq) s = .next (finish (setPast (setBegun (cls.foldl (fun t cl =>
        if d.sawPsn then setB (put t cl) (fCluDmastat_psn cl) else put t cl)
        (auditLoad u q 0xA (pk x 8 2) p (xs.map (·.1)))) q seq) q seq) q seq d.status 0 0)) ∧
    (∀ (xs : List (Byte × Bool)) (v : State) (ls : List (Nat × List (BitVec 512) × List (BitVec 64))) (img : List Byte),
      let es := (List.range (pk x 24 2)).map fun i => routerEntry (((xs.map (·.1)).drop (128 * i)).take 128)
      let rs := es.filterMap id
      pk x 8 1 = p → bits x.toNat 72 1 = 0 →
      readRange s (cpAcc s q x) (piecesFrom (pkAddr x 16) (128 * pk x 24 2)) = (u, xs, none) → (∀ b ∈ xs, b.2 = false) →
      (∀ r ∈ es, r.isSome = true) →
      (∀ r ∈ rs, partOfCluster u r.1 = some p ∧ rf u (fPwrDomctl_state (domainOf r.1)) = 0) →
      readImages u (cpAcc u q x) rs = (v, ls, none, img) → verifySchedule v (schedAfter v p false ls) (ownsPort v p) = none →
      (v.part p).aborted = false → stopped v p = true →
      exec (.loadSchedule q seq) s = .next (done (ls.foldl (fun t l => writeSchedule t l.1 l.2.1 l.2.2)
        (auditLoad v q 9 p p (xs.map (·.1) ++ img))) q seq 0 0))) ∧
  (∀ (s : State) (q seq : Nat) (x : BitVec 512), q < 64 → EntryWaits s q seq x → s.met.sw = [] → (s.part (qPart s q)).aborted = false →
    stopped s (qPart s q) = true →
    let p := qPart s q
    let acc := cpAcc s q x
    let ids := (List.range (pk x 10 2)).map fun i => pk x 8 2 + i
    let mine := fun cl : Nat => cl < 512 ∧ partOfCluster s cl = some p ∧ rf s (fPwrDomctl_state (domainOf cl)) = 0
    let good := fun a n : Nat => ∀ y ∈ piecesFrom a n, ScratchServes s acc y.1 y.2 ∧ psnAny s.psn (y.1 / 256 * 256) 256 = false
    let img := fun a n : Nat => (List.range n).map fun i => memGet s.mem (a + i)
    let a := pkAddr x 16
    (let len := pk x 24 2
      let bs := bundlesOf (img a (16 * len)) len
      1 ≤ len → len ≤ 2048 → pk x 26 2 < len → bits x.toNat 224 1 = 0 → (∀ c ∈ ids, mine (c / 32) ∧ coreUsable s c = true) →
      good a (16 * len) → programOk bs (pk x 26 2) = true → ∃ t, exec (.loadProgram q seq) s = .next t ∧ Ended t q seq .ok 0 ∧
        ∀ c ∈ ids, (∀ i b, bs[i]? = some b → tget 0 (t.core c).store i = b) ∧ rf t (fCorePlen_len c) = len ∧
          rf t (fCoreEntry_entry c) = pk x 26 2) ∧
    ((∀ cl ∈ ids, mine cl ∧ (s.dma cl).active = [] ∧ (s.dma cl).queue = []) → bits x.toNat 199 1 = 0 → good a (pk x 28 4) →
      ∃ t, exec (.loadCodebook q seq) s = .next t ∧ Ended t q seq .ok 0 ∧ ∀ cl ∈ ids, (t.dma cl).half = (s.dma cl).half ∧
        ∀ i, i < pk x 28 4 → memGet (t.dma cl).store (65536 * (1 - (s.dma cl).half) + 8192 * bits x.toNat 192 3 + i) =
          memGet s.mem (a + i)) ∧
    (let n := pk x 24 2
      let es := (List.range n).map fun i => routerEntry (((img a (128 * n)).drop (128 * i)).take 128)
      let rs := es.filterMap id
      let ls := rs.map fun r => (r.1, entriesOf (img r.2.1 65536) 1024, r.2.2)
      pk x 8 1 = p → bits x.toNat 72 1 = 0 → good a (128 * n) → (∀ r ∈ es, r.isSome = true) → (rs.map (·.1)).Nodup →
      (∀ r ∈ rs, mine r.1 ∧ good r.2.1 65536) → verifySchedule s (schedAfter s p false ls) (ownsPort s p) = none →
      ∃ t, exec (.loadSchedule q seq) s = .next t ∧ Ended t q seq .ok 0 ∧
        ∀ l ∈ ls, (t.router l.1).has = true ∧ ∀ i, i < 1024 → some (tget 0 (t.router l.1).sched i) = l.2.1[i]?))

/-- R190, R246, R251, R253: steps, holds, fences, aborts and commits of a queue. A RUN_STEPS has its partition run, and once what a
start waits for is there the first step begins; a HOLD ends at the next boundary, where the partition pauses; a RELEASE of a paused one
has the next step begin; a KV_COMMIT on a stopped partition commits its tree. An ABORT ends an entry before its completion point, is
kept for one that has not been reached, and is too late for one that has ended. It rests in part on the model's readings in log
entry 58. -/
def Obligations.StepCommands : Prop :=
  ∀ (s : State) (q seq : Nat) (x : BitVec 512), EntryWaits s q seq x →
    let p := pk x 8 1
    let y := s.part p
    exec (.cmdNop q seq) s = .next (done s q seq 0 0) ∧
    (p = qPart s q → runBusy s p = false → ∃ t, exec (.runSteps q seq) s = .next t ∧
      (t.part p).run = some { q := q, seq := seq, steps := pk x 16 8 } ∧ t.cores = s.cores ∧ t.mem = s.mem) ∧
    (p = qPart s q → runBusy s p = false → y.paused = false → StartReady s p → ∃ t u, exec (.runSteps q seq) s = .next t ∧
      exec (.floorReached p) t = .next u ∧ (u.part p).run = some { q := q, seq := seq, steps := pk x 16 8, waitFloor := false } ∧
      (u.part p).inStep = true ∧ (u.part p).m = 0 ∧ (u.part p).step = y.step ∧
      ∀ c ∈ coresOf s p, (u.core c).pc = rf s (fCoreEntry_entry c)) ∧
    (p = qPart s q → runBusy s p = true → exec (.runSteps q seq) s = .next (finish s q seq .busy 0 0)) ∧
    (∀ r, p = qPart s q → y.run = some r → y.paused = true → r.waitFloor = false →
      exec (.hold q seq) s = .next (done s q seq 0 y.step.toNat)) ∧
    (∀ r, p = qPart s q → y.run = some r → y.paused = false →
      exec (.hold q seq) s = .next ((setBegun s q seq).setPart p { y with holdReqs := y.holdReqs ++ [(q, seq)] })) ∧
    (∀ r, p = qPart s q → BoundaryDue s p r → y.paused = false → y.holdReqs = [] → r.steps = 0 ∨ r.ran + 1 < r.steps →
      ∃ t u, exec (.hold q seq) s = .next t ∧ exec (.stepBoundary p) t = .next u ∧ (u.part p).paused = true ∧
        (u.part p).step = y.step + 1 ∧ Ended u q seq .ok (y.step + 1).toNat) ∧
    (∀ r, p = qPart s q → y.run = some r → y.paused = true → r.waitFloor = false → ∃ t, exec (.release q seq) s = .next t ∧
      (t.part p).run = some { r with waitFloor := true, rel := some (q, seq) }) ∧
    (∀ r, p = qPart s q → y.run = some r → y.paused = true → r.waitFloor = false → StartReady s p →
      ∃ t u, exec (.release q seq) s = .next t ∧ exec (.floorReached p) t = .next u ∧ (u.part p).inStep = true ∧
        (u.part p).paused = false ∧ (u.part p).m = 0 ∧ Ended u q seq .ok y.step.toNat) ∧
    (∀ e, entryOf s q seq = some e → bits x.toNat 65 1 = 0 →
      (∀ f ∈ e.fence, ∀ en, entryOf s f.1 f.2 = some en → en.reply.isSome = true) →
      exec (.fence q seq) s = .next (done s q seq 0 0)) ∧
    (∀ (u : State) (es : List Ending) (late : Bool), qFn s q = 0 → pk x 16 2 = 1 →
      abortTarget (setPast (setBegun s q seq) q seq) (pk x 8 1) (pk x 12 4 % 2 ^ 32) = (u, es, late) →
      exec (.abort q seq) s = .next (finish (endAll 8192 es u) q seq (if late then .abortTooLate else .ok) (bit late)
        (1 - bit late))) ∧
    (let j := pk x 8 1
      let n := pk x 12 4 % 2 ^ 32
      qFn s q = 0 → pk x 16 2 = 1 →
      (seqBefore n (s.queue j).nextseq = false → ∃ t, exec (.abort q seq) s = .next t ∧ Ended t q seq .ok 1 ∧
        n ∈ (t.queue j).aborts) ∧
      (seqBefore n (s.queue j).nextseq = true → entryOf s j n = none → ∃ t, exec (.abort q seq) s = .next t ∧
        Ended t q seq .abortTooLate 0) ∧
      (∀ e, seqBefore n (s.queue j).nextseq = true → j < 64 → j ≠ q → (s.queue j).entries = [e] → e.seq = n → e.begun = false →
        e.past = false → e.reply = none → copyClass (pkOpcode e.pkt) = true → ∃ t, exec (.abort q seq) s = .next t ∧
          Ended t q seq .ok 1 ∧ Ended t j n .aborted 0)) ∧
    (commitBitsOk x = true → partOfCluster s (pk x 8 2) = some (qPart s q) → rb s (fErrPart_qact (qPart s q)) = false →
      stopped s (qPart s q) = true → rf s (fPwrDomctl_state (domainOf (pk x 8 2))) = 0 →
      TreeReady s (pk x 8 2) (pk x 16 8) (pk x 24 8) (pk x 32 8) (pk x 40 8) → ∃ t, exec (.kvCommit q seq) s = .next t ∧
        TreeCommitted s t (pk x 8 2) (pk x 24 8) (pk x 32 8) (pk x 40 8) ∧ Ended t q seq .ok 0) ∧
    (∀ (t : State) (st : Status), commitBitsOk x = true → partOfCluster s (pk x 8 2) = some (qPart s q) →
      rb s (fErrPart_qact (qPart s q)) = false →
      (stopped s (qPart s q) = true → rf s (fPwrDomctl_state (domainOf (pk x 8 2))) = 0 →
        commitPages s (pk x 8 2) (pk x 16 8) (pk x 24 8) (pk x 32 8) (pk x 40 8) = (t, st) →
        exec (.kvCommit q seq) s = .next (finish (setPast (setBegun t q seq) q seq) q seq st 0 0)) ∧
      (stopped s (qPart s q) = false → ∃ v, exec (.kvCommit q seq) s = .next v ∧ (q, seq) ∈ (v.part (qPart s q)).kvq))

/-- R88, R223, R304 to R306: classes, partitions and keys. A class word is stored and its command ends OK; a partition takes the
clusters, ports and blocks of the mask, which it reads from memory, when no other confidential partition holds one and no cluster that
changes hands belongs to a running partition; a free slot gets a new key for an assigned partition, and a stopped partition's key is destroyed. It rests in
part on the model's readings in log entry 44. -/
def Obligations.ConfigurationCommands : Prop :=
  ∀ (s u : State) (q seq : Nat) (x : BitVec 512), EntryWaits s q seq x →
    let k := 8 * pk x 8 1 + pk x 9 1
    let w := classWord (pk x 12 2) (pk x 14 1) (pk x 15 1) (pk x 16 1)
    (guarSum s k + pk x 12 2 ≤ guarLimit → exec (.setClass q seq) s =
      .next (done ((auditCmd s q 0x20 k (pk x 8 1) (s.reg (offQosClass k)).toNat w).setReg (offQosClass k) (BitVec.ofNat 256 w))
        q seq 0 0)) ∧
    (guarLimit < guarSum s k + pk x 12 2 → exec (.setClass q seq) s = .next (finish s q seq .invalid 0 0)) ∧
    (∀ xs : List (Byte × Bool),
      let d := natOf (xs.map (·.1))
      let p := pk x 9 1
      readRange s (cpAcc s q x) (piecesFrom (pkAddr x 16) 128) = (u, xs, none) → (∀ b ∈ xs, b.2 = false) →
      bits d 520 56 = 0 → bits d 672 352 = 0 → bits d 576 96 % 2 = 0 →
      (∀ cl, cl < 512 → bits d 0 512 / 2 ^ cl % 2 = 1 → withdrawn u cl = false) →
      (∀ n ∈ holders u p (bits d 0 512) (bits d 512 8) (bits d 576 96), confidential u n = false) →
      changesRunning u p (bits d 0 512) = false →
      (∀ cl ∈ ownerChanges u p (bits d 0 512), rf u (fPwrDomctl_state (domainOf cl)) = 0) →
      exec (.partitionAssign q seq) s = .next (done (regrant (auditCmd u q 0x21 0 p (clusterMask u p) (bits d 0 512)) p
        (bits d 0 512) (bits d 512 8) (bits d 576 96)) q seq 0 0)) ∧
    (let d := memRead s.mem (pkAddr x 16) 128
      let p := pk x 9 1
      (∀ y ∈ piecesFrom (pkAddr x 16) 128, ScratchServes s (cpAcc s q x) y.1 y.2 ∧ psnAny s.psn (y.1 / 256 * 256) 256 = false) →
      p < 16 → bits d 520 56 = 0 → bits d 672 352 = 0 → bits d 576 96 % 2 = 0 →
      (∀ cl, cl < 512 → bits d 0 512 / 2 ^ cl % 2 = 1 → withdrawn s cl = false) →
      (∀ n ∈ holders s p (bits d 0 512) (bits d 512 8) (bits d 576 96), confidential s n = false) →
      changesRunning s p (bits d 0 512) = false → (∀ cl ∈ ownerChanges s p (bits d 0 512),
        rf s (fPwrDomctl_state (domainOf cl)) = 0 ∧ (s.dma cl).active = []) →
      ∃ t, exec (.partitionAssign q seq) s = .next t ∧ Ended t q seq .ok 0 ∧
        (∀ cl < 512, partOfCluster t cl = some p ↔ bits d 0 512 / 2 ^ cl % 2 = 1) ∧
        (∀ i < 8, ownsPort t p i = true ↔ bits d 512 8 / 2 ^ i % 2 = 1) ∧
        (∀ b < 96, rf t (fSbfScrgrant_owner b) = p ↔ bits d 576 96 / 2 ^ b % 2 = 1)) ∧
    (changesRunning s (pk x 9 1) 0 = false →
      (∀ cl ∈ ownerChanges s (pk x 9 1) 0, rf s (fPwrDomctl_state (domainOf cl)) = 0) →
      exec (.partitionDissolve q seq) s = .next (done (regrant (auditCmd s q 0x21 0 (pk x 9 1) (clusterMask s (pk x 9 1)) 0)
        (pk x 9 1) 0 0 0) q seq 0 0)) ∧
    (pk x 9 1 ≠ 63 → rf s (fSecSlot_state (pk x 9 1)) = 0 → assigned s (pk x 10 1) = true → exec (.keyGenerate q seq) s =
      .next (done (keyGenerate (auditCmd s q 0x22 (pk x 9 1) (pk x 10 1) 0 0) (pk x 9 1) (pk x 10 1)) q seq 0 0)) ∧
    (pk x 9 1 ≠ 63 → rf s (fSecSlot_state (pk x 9 1)) = 1 → rf s (fSecSlot_part (pk x 9 1)) = pk x 10 1 →
      stopped s (pk x 10 1) = true → exec (.keyDestroy q seq) s =
      .next (done (keyDestroy (auditCmd s q 0x22 (pk x 9 1) (pk x 10 1) 0 0) (pk x 9 1)) q seq 0 0)) ∧
    (pk x 9 1 = 63 → exec (.keyGenerate q seq) s = .next (finish s q seq .accessViolation 0 0) ∧
      exec (.keyDestroy q seq) s = .next (finish s q seq .accessViolation 0 0))

/-! Units: resets, tests, quarantine. -/

/-- R387 to R389: a RESET_UNIT that is accepted puts its unit into reset: a job for the unit stands, its completion follows, and
what Table 14-8 drops is dropped (the queued program of a core, the descriptors of a cluster that have not started, the command of a
copy engine, a link port that goes down to retrain). A core or cluster of a partition that is not stopped ends BUSY. R387, R388: a
unit in reset leaves it once what Table 14-8 drains has ended, and the entries of its resets end OK: a core with its registers
cleared and its program kept; a cluster and a partition with their assignment kept; four slices whose dirty lines have been written
back, or have been stored poisoned 10 ms later, or had none. It rests in part on the model's readings in log entry 9. -/
def Obligations.UnitsAreReset : Prop :=
  (∀ (s : State) (q seq : Nat) (x : BitVec 512), EntryWaits s q seq x →
    let n := pk x 12 4
    let job := fun (k : Nat) (t : State) => ({ kind := k, idx := n, q := q, seq := seq, start := s.devtime.toNat } : RJob) ∈ t.rjobs ∧
      Instr.unitResetComplete k n ∈ t.pending
    (clusterStopped s (clusterOfCore n) = true → rf s (fPwrDomctl_state (domainOf (clusterOfCore n))) ≠ 2 →
      ∃ t, exec (.resetUnitCore q seq) s = .next t ∧ (t.core n).resetting = true ∧ (t.core n).qload = none ∧ job 0 t) ∧
    (clusterStopped s (clusterOfCore n) = false → exec (.resetUnitCore q seq) s = .next (finish s q seq .busy 0 0)) ∧
    (clusterStopped s n = true → rf s (fPwrDomctl_state (domainOf n)) ≠ 2 →
      ∃ t, exec (.resetUnitCluster q seq) s = .next t ∧ (t.dma n).queue = [] ∧ job 1 t) ∧
    (clusterStopped s n = false → exec (.resetUnitCluster q seq) s = .next (finish s q seq .busy 0 0)) ∧
    (∃ t, exec (.resetUnitPartition q seq) s = .next t ∧ Instr.unitResetComplete 2 n ∈ t.pending) ∧
    (∃ t, exec (.resetUnitCopyEngine q seq) s = .next t ∧ t.engine n = { out := (s.engine n).out } ∧
      Instr.unitResetComplete 3 n ∈ t.pending) ∧
    (∃ t, exec (.resetUnitFabricSegment q seq) s = .next t ∧ job 4 t) ∧
    (portOwner s n = none → ∃ t, exec (.resetUnitLinkPort q seq) s = .next t ∧ rf t (fLnkPstat_state n) = 4) ∧
    (s.rjobs = [] →
      (clusterStopped s (clusterOfCore n) = true → rf s (fPwrDomctl_state (domainOf (clusterOfCore n))) ≠ 2 →
        (∀ d ∈ (s.dma (clusterOfCore n)).active ++ (s.dma (clusterOfCore n)).queue, d.core ≠ n) →
        UnitLeavesReset s q seq (.resetUnitCore q seq) 0 n fun u => u.core n = { store := (s.core n).store }) ∧
      (clusterStopped s n = true → rf s (fPwrDomctl_state (domainOf n)) ≠ 2 → (s.dma n).active = [] →
        UnitLeavesReset s q seq (.resetUnitCluster q seq) 1 n fun u => (u.dma n).queue = [] ∧ (u.dma n).active = [] ∧
          ∀ k < 32, u.core (32 * n + k) = {}) ∧
      (n < 16 → stopped s n = true → confidential s n = false → isCascade s n = false →
        (∀ cl ∈ clustersOf s n, rf s (fPwrDomctl_state (domainOf cl)) = 0 ∧ (s.dma cl).active = []) →
        UnitLeavesReset s q seq (.resetUnitPartition q seq) 2 n fun u => clustersOf u n = clustersOf s n ∧ ∀ c ∈ coresOf s n, u.core c = {}) ∧
      ((s.engine n).busy = false → UnitLeavesReset s q seq (.resetUnitCopyEngine q seq) 3 n fun u => u.engine n = { out := (s.engine n).out }) ∧
      (n < 8 → (∀ i < 4, let y := s.slice (4 * n + i); y.miss = [] ∧ y.out = [] ∧ ∀ ln ∈ y.lines, ln.dirty = false) →
        UnitLeavesReset s q seq (.resetUnitFabricSegment q seq) 4 n fun u => ∀ i < 4, (u.slice (4 * n + i)).lines = [] ∧
          rb u (fSbfCtl_en (4 * n + i)) = false ∧ rb u (fSbfCtl_clean (4 * n + i)) = false) ∧
      (n < 8 → portOwner s n = none → portUp s n = false → ∃ t u, exec (.resetUnitLinkPort q seq) s = .next t ∧
        exec (.unitResetComplete 5 n) (wf t (fLnkPstat_state n) 2) = .next u ∧ Ended u q seq .ok 0))) ∧
  (∀ (s : State) (k n : Nat) (j : RJob), s.rjobs.find? (fun y => decide (y.kind = k ∧ y.idx = n)) = some j →
    (k = 0 → j.absorbed = false → (∀ d ∈ (s.dma (clusterOfCore n)).active ++ (s.dma (clusterOfCore n)).queue, d.core ≠ n) →
      ∃ u, exec (.unitResetComplete k n) s = .next (resetEnd u 0 n) ∧ (u.core n).sregs = [] ∧ (u.core n).vregs = [] ∧
        (u.core n).credits = 16 ∧ (u.core n).store = (s.core n).store ∧ (u.core n).resetting = false) ∧
    (k = 1 → j.absorbed = false → (s.dma n).active = [] →
      exec (.unitResetComplete k n) s = .next (resetEnd (clusterResetKeep s n) 1 n)) ∧
    (k = 2 → (∀ cl ∈ clustersOf s n, rf s (fPwrDomctl_state (domainOf cl)) = 0 ∧ (s.dma cl).active = []) →
      exec (.unitResetComplete k n) s = .next (resetEnd (partitionRegs ((clustersOf s n).foldl clusterResetKeep s) n) 2 n)) ∧
    (k = 3 → exec (.unitResetComplete k n) s = .next (resetEnd s 3 n)) ∧
    (∀ u, k = 4 → j.absorbed = false → (∀ i < 4, (s.slice (4 * n + i)).miss = [] ∧ (s.slice (4 * n + i)).out = []) →
      walkSlices s { op := 2, scope := 0 } ((List.range 4).map (4 * n + ·)) = (u, []) →
      exec (.unitResetComplete k n) s = .next (resetEnd (segmentClear u n) 4 n)) ∧
    (k = 5 → rf s (fLnkPstat_state n) = 2 → exec (.unitResetComplete k n) s = .next (resetEnd s 5 n)) ∧
    (k = 4 → j.absorbed = true → j.start + 10 ^ 7 ≤ s.devtime.toNat →
      ∃ u, exec (.segmentDrainTimeout n) s = .next (resetEnd (segmentClear u n) 4 n)) ∧
    (k = 4 → j.start + 10 ^ 7 ≤ s.devtime.toNat → (∀ i < 4, ∀ ln ∈ (s.slice (4 * n + i)).lines, ln.dirty = false) →
      ∃ t, exec (.segmentDrainTimeout n) s = .next t ∧
        (∀ i < 4, (t.slice (4 * n + i)).miss = [] ∧ (t.slice (4 * n + i)).lines = []) ∧
        (∀ y ∈ t.rjobs, ¬ (y.kind = 4 ∧ y.idx = n)) ∧
        ∀ e, s.rjobs = [j] → entryOf s j.q j.seq = some e → e.reply = none → (∀ i < 4, (s.slice (4 * n + i)).miss = []) →
          Ended t j.q j.seq .ok 0) ∧
    (k = 4 → s.devtime.toNat < j.start + 10 ^ 7 → exec (.segmentDrainTimeout n) s = .next s))

/-- R326 to R329, R339: field tests. A SELF_TEST of a usable core, of a cluster of a stopped partition or of a free copy engine
begins; a block that passes gives way to the next, the last ends the test OK with its signature, and a failing one ends it
CHECK_MISMATCH with an event of the unit; so a SELF_TEST all of whose blocks pass ends OK; a test not finished in 1 s ends TIMEOUT. The sweep begins when it is enabled, and a
vertical port that has retrained shows its width. R325, R337: a request to quarantine a partition that runs nothing takes effect at
once, and lifting it ends it; a clock request that is withdrawn no longer limits the partition's clock. R366: READ_TELEMETRY writes
the header and entries of a selector to the destination, cut to the length asked for, and ends OK with the number of bytes written;
a function other than PF0 reads selector 3 alone. It rests in part on the model's readings in log entry 33. -/
def Obligations.TestsQuarantineTelemetry : Prop :=
  ((∀ (s : State) (q seq : Nat) (x : BitVec 512), EntryWaits s q seq x →
    let idx := pk x 10 2
    let f : FTest := { kind := pk x 8 1, idx := idx, code := pk x 12 2, entry := some (q, seq), start := s.devtime.toNat }
    (pk x 8 1 = 0 → coreUsable s idx = true → rf s (fPwrDomctl_state (domainOf (clusterOfCore idx))) = 0 →
      ∃ t, exec (.selfTest q seq) s = .next t ∧ f ∈ t.ftests) ∧
    (pk x 8 1 = 1 → clusterStopped s idx = true → rf s (fPwrDomctl_state (domainOf idx)) = 0 →
      ∃ t, exec (.selfTest q seq) s = .next t ∧ f ∈ t.ftests) ∧
    (pk x 8 1 = 2 → (s.engine idx).busy = false → (s.engine idx).testing = false →
      ∃ t, exec (.selfTest q seq) s = .next t ∧ f ∈ t.ftests ∧ (t.engine idx).testing = true) ∧
    (pk x 8 1 = 0 → coreUsable s idx = false → exec (.selfTest q seq) s = .next (finish s q seq .invalid 0 0)) ∧
    ((∀ y ∈ s.ftests, ¬ (y.kind = pk x 8 1 ∧ y.idx = idx)) →
      (pk x 8 1 = 0 ∧ coreUsable s idx = true ∧ clusterStopped s (clusterOfCore idx) = true ∧
          rf s (fPwrDomctl_state (domainOf (clusterOfCore idx))) = 0) ∨
        (pk x 8 1 = 1 ∧ clusterStopped s idx = true ∧ rf s (fPwrDomctl_state (domainOf idx)) = 0) ∨
        (pk x 8 1 = 2 ∧ (s.engine idx).busy = false ∧ (s.engine idx).testing = false) →
      ∃ t u, exec (.selfTest q seq) s = .next t ∧
        runs (List.replicate (testBlocks f.code).length (.fieldTestBlock f.kind idx false)) t = some u ∧
        Ended u q seq .ok (Config.testSignature f.code).toNat ∧ u.ftests = s.ftests)) ∧
  (∀ (s : State) (kind idx len : Nat) (f : FTest),
    s.ftests.find? (fun f => decide (f.kind = kind ∧ f.idx = idx)) = some f → (testBlocks f.code)[f.blk]? = some len →
    blockMay s f len = true →
    (f.blk + 1 < (testBlocks f.code).length → ∃ t, exec (.fieldTestBlock kind idx false) s = .next t ∧
      { f with blk := f.blk + 1 } ∈ t.ftests) ∧
    (f.blk + 1 = (testBlocks f.code).length → exec (.fieldTestBlock kind idx false) s =
      .next (testEnd s f .ok 0 (Config.testSignature f.code).toNat)) ∧
    exec (.fieldTestBlock kind idx true) s = .next (testEnd
      (errEvent s .fieldTest .checkMismatch (testUnit kind idx) 0 f.code f.blk) f .checkMismatch (f.blk + 1) 0)) ∧
  (∀ (s : State) (kind idx : Nat) (f : FTest),
    s.ftests.find? (fun f => decide (f.kind = kind ∧ f.idx = idx ∧ f.start + 10 ^ 9 ≤ s.devtime.toNat)) = some f →
    exec (.fieldTestTimeout kind idx) s = .next (testEnd s f .timeout 0 0)) ∧
  (∀ s : State, ∃ t, exec .testSweepEnable s = .next t ∧ rb t fErrFtest_en = true) ∧
  (∀ (s : State) (cl spin spout width lanes : Nat), s.errs.vpDue.contains cl = true → width < 3 →
    ∃ t u, exec (.verticalPortRetrain cl spin spout width lanes) s = .next (audit t u) ∧ u.target = tgtOff (offDfmVpstat cl) ∧
      u.kind = 4 ∧ u.new = (t.reg (offDfmVpstat cl)).toNat) ∧
  (∀ (s : State) (cl spin spout width lanes : Nat), s.errs.vpDue.contains cl = true → cl < 512 → spin < 16 → spout < 16 → width < 4 →
    ∃ t, exec (.verticalPortRetrain cl spin spout width lanes) s = .next t ∧ rf t (fDfmVpstat_spin cl) = spin ∧
      rf t (fDfmVpstat_spout cl) = spout ∧ rf t (fDfmVpstat_width cl) = width ∧ t.errs.vpDue.contains cl = false)) ∧
  (∀ (s : State) (p : Nat), p < 16 →
    ((s.part p).run = none → rb s (fErrPart_quar p) = false → ∃ t, exec (.quarantineRequest p) s = .next t ∧
      rb t (fErrPart_quar p) = true ∧ rb t (fErrPart_qact p) = true) ∧
    (rb s (fErrPart_quar p) = true → ∃ t, exec (.quarantineClear p) s = .next t ∧
      rb t (fErrPart_quar p) = false ∧ rb t (fErrPart_qact p) = false) ∧
    (s.met.set = [] → ∃ t, exec (.clockRequestWithdraw p) s = .next t ∧ (t.part p).errLim = 0 ∧
      rb t (fErrPart_clkreq p) = false)) ∧
  (∀ (s t : State) (q seq : Nat) (x : BitVec 512), EntryWaits s q seq x →
    (qFn s q = 0 ∨ pk x 8 1 = 3 →
      let b := (telemetryBlock s (pk x 8 1) (if qFn s q = 0 then none else some (qPart s q))).take (pk x 32 4)
      writeRange s (cpAcc s q x) (piecesFrom (pkAddr x 24) b.length) b = (t, none) →
      exec (.readTelemetry q seq) s = .next (done t q seq 0 b.length)) ∧
    (q < 64 → qFn s q = 0 ∨ pk x 8 1 = 3 →
      let b := (telemetryBlock s (pk x 8 1) (if qFn s q = 0 then none else some (qPart s q))).take (pk x 32 4)
      (∀ y ∈ piecesFrom (pkAddr x 24) b.length, ScratchServes s (cpAcc s q x) y.1 y.2) →
      ∃ t, exec (.readTelemetry q seq) s = .next t ∧ Ended t q seq .ok b.length ∧
        ∀ i y, b[i]? = some y → memGet t.mem (pkAddr x 24 + i) = y) ∧
    (qFn s q ≠ 0 → pk x 8 1 ≠ 3 → exec (.readTelemetry q seq) s = .next (finish s q seq .accessViolation 0 0)))

/-! Queues. -/

/-- R236, R238 to R240, R249, R250: doorbells, fetch, replies and release. A tail that leaves at most N - 1 entries in the ring is
taken, any other leaves the index and sets dberr, and so for a head. The queue whose turn it is starts its next entry under the next
sequence number; the reply of the oldest entry, once it has ended, goes to the completion ring and the entry leaves its queue; a
release lets a halted queue fetch again, unless a failed entry is still to be reported. R239, R254, R301: a queue of PF0 that is enabled before the end of BASE stays as it is;
after it a queue begins empty with sequence number 0 and keeps the last doorbell values. Disabling an enabled queue aborts what it
has started; an FLR does so for every queue of its function, whose replies are discarded, and ends the owner of its partition. It
rests in part on the model's readings in log entry 57. -/
def Obligations.HostQueues : Prop :=
  ((∀ (s : State) (fn j v q : Nat), queueAt s fn j = some q →
    (v < ringN s q → ringHolds s q v ≤ ringN s q - 1 → ∃ t, exec (.doorbellSqTail fn j v) s = .next t ∧ (t.queue q).tail = v ∧
      t.regs = s.regs) ∧
    (ringN s q ≤ v ∨ ringN s q - 1 < ringHolds s q v → ∃ t, exec (.doorbellSqTail fn j v) s = .next t ∧
      (t.queue q).tail = (s.queue q).tail ∧ rb t (fCmdSqstat_dberr q) = true) ∧
    (v < ringN s q → (v + ringN s q - (s.queue q).head % ringN s q) % ringN s q ≤ repliesHeld s q →
      ∃ t, exec (.doorbellCqHead fn j v) s = .next t ∧ (t.queue q).head = v ∧ t.regs = s.regs) ∧
    (ringN s q ≤ v ∨ repliesHeld s q < (v + ringN s q - (s.queue q).head % ringN s q) % ringN s q →
      ∃ t, exec (.doorbellCqHead fn j v) s = .next t ∧ (t.queue q).head = (s.queue q).head ∧
        rb t (fCmdSqstat_dberr q) = true)) ∧
  (∀ (s u : State) (q : Nat) (pkt : BitVec 512), nextQueue s = some q → rf s (fLnkQfwd_target q) = 0 →
    (waitsForAll pkt = true → (s.queue q).entries = []) →
    translateOne s (qPasid s q) (rf s (fCmdSqbase_base q) * 4096 + 64 * ((s.queue q).nextseq % ringN s q)) false = (u, .hit) →
    ∃ t, exec (.entryFetch q pkt) s = .next (beginEntry t q pkt) ∧ t.lastQ = q) ∧
  (∀ (s : State) (q : Nat) (pkt : BitVec 512), nextQueue s = some q → rf s (fLnkQfwd_target q) = 0 →
    (waitsForAll pkt = true → (s.queue q).entries = []) →
    (∃ y ∈ s.host.cache, y.covers (qPasid s q) (rf s (fCmdSqbase_base q) * 4096 + 64 * ((s.queue q).nextseq % ringN s q)) = true ∧
      y.r = true) → (s.queue q).nextseq ∉ (s.queue q).aborts → pkOk pkt = true → opServed s (pkOpcode pkt) = true →
    mayGive s q pkt = true → ∃ t e, exec (.entryFetch q pkt) s = .next t ∧ t.lastQ = q ∧
      (t.queue q).nextseq = ((s.queue q).nextseq + 1) % 2 ^ 32 ∧ (t.queue q).entries.getLast? = some e ∧
      e.seq = (s.queue q).nextseq ∧ e.pkt = pkt ∧ e.reply = none ∧ opCmd q (s.queue q).nextseq pkt ∈ t.pending) ∧
  (∀ (s : State) (q : Nat) (pkt : BitVec 512), nextQueue s ≠ some q → exec (.entryFetch q pkt) s = .next s) ∧
  (∀ (s u : State) (q : Nat) (e : Entry) (r : Reply) (es : List Entry), q < 64 → (s.queue q).entries = e :: es → e.reply = some r →
    (s.queue q).discard = false → (s.queue q).ringFault = false → repliesHeld s q < ringN s q - 1 →
    translateOne s (qPasid s q) (rf s (fCmdCqbase_base q) * 4096 + 32 * ((s.queue q).written % ringN s q)) true = (u, .hit) →
    ∃ t, exec (.replyWrite q) s = .next (popEntry t q true) ∧ t.hostMem = tset u.hostMem (qPasid s q)
      (memWrite (hostCells u (qPasid s q)) (rf s (fCmdCqbase_base q) * 4096 + 32 * ((s.queue q).written % ringN s q)) 32
        (replyWord e r ((s.queue q).written / ringN s q % 2 == 0)))) ∧
  (∀ (s : State) (q : Nat) (e : Entry) (r : Reply) (es : List Entry), q < 64 → (s.queue q).entries = e :: es → e.reply = some r →
    (s.queue q).discard = false → (s.queue q).ringFault = false → repliesHeld s q < ringN s q - 1 →
    let va := rf s (fCmdCqbase_base q) * 4096 + 32 * ((s.queue q).written % ringN s q)
    (∃ y ∈ s.host.cache, y.covers (qPasid s q) va = true ∧ y.w = true) → ∃ t, exec (.replyWrite q) s = .next t ∧
      memRead (hostCells t (qPasid s q)) va 32 = replyWord e r ((s.queue q).written / ringN s q % 2 == 0) % 256 ^ 32 ∧
      (t.queue q).entries = es ∧ (t.queue q).written = (s.queue q).written + 1) ∧
  (∀ (s : State) (j : Nat), j < 64 → rb s (fCmdSqstat_halt j) = true → metHas s (fCmdSqstat_halt j) = false →
    ∃ t, exec (.queueRelease 0 j) s = .next t ∧ rb t (fCmdSqstat_halt j) = false ∧
      (t.queue j).stop = ((s.queue j).failed.isSome && !(s.queue j).entries.isEmpty) ∧ (t.queue j).entries = (s.queue j).entries)) ∧
  ((∀ (s : State) (j : Nat) (v : BitVec 64), j < 64 → qFn s j = 0 → rb s (fCmdSqcfg_en j) = false → rb s fBseBoot_cmd = true →
    ∃ t, exec (.queueEnable 0 j v) s = .next t ∧ rb t (fCmdSqcfg_en j) = true ∧ (t.queue j).entries = [] ∧
      (t.queue j).nextseq = 0 ∧ (t.queue j).tail = 0 ∧ (t.queue j).lastTail = (s.queue j).lastTail) ∧
  (∀ (s : State) (j : Nat), j < 64 → rb s (fCmdSqcfg_en j) = true →
    ∃ u, exec (.queueDisable 0 j) s = .next (shutQueue u j false)) ∧
  (∀ (s : State) (j : Nat), j < 64 → rb s (fCmdSqcfg_en j) = true → (s.queue j).entries = [] → s.met.sw = [] →
    ∃ t, exec (.queueDisable 0 j) s = .next t ∧ rb t (fCmdSqcfg_en j) = false ∧ (t.queue j).entries = []) ∧
  (∀ s : State, (∀ q ∈ queuesOfFn s 0, rb s (fCmdSqcfg_en q) = false) → exec (.flr 0) s = .next s) ∧
  (∀ s : State, (∀ q ∈ queuesOfFn s 0, (s.queue q).entries = []) → s.met.sw = [] → ∃ t, exec (.flr 0) s = .next t ∧
    ∀ q ∈ queuesOfFn s 0, rb t (fCmdSqcfg_en q) = false) ∧
  (∀ (s : State) (fn : Nat), 1 ≤ fn → fn ≤ 16 → (∀ q ∈ queuesOfFn s fn, rb s (fCmdSqcfg_en q) = false) →
    confidential s (fn - 1) = true → exec (.flr fn) s = .next (ownerEnd s (fn - 1) none 0)))

/-! Requests and responses of the base fabric. -/

/-- R199, R200, R202, R208, R209, R308, R320: a request of one line of this device that passes its checks, and whose memory is not
changing, acts on the line and is answered, at once or, for a line of the far tier or the host window, when its slice holds the line;
a read of a line that the slice does not hold enters the miss table, and one that fails its checks is answered with the error. Flits
that fail their check come in as poisoned. R199, R208 to R210: a request of this device to a line of scratch that is served changes
just the bytes it asks for, and its response follows. -/
def Obligations.LineRequestsAnswered : Prop :=
  (∀ (s : State) (rq : Req) (fl : Flits) (u t : State) (m : Nat) (g : Got),
    checkFlits s (unitOfNode rq.src) (servingUnit s (resolve s rq.addr)) rq.addr fl = (u, m) → resolve u rq.addr = resolve s rq.addr →
    let a := resolve s rq.addr
    let q := fun (k : Nat) => accOf u rq k []
    let node := servingNode u a
    let direct := rangeOf a = .near ∨ rangeOf a = .cmem ∨ rangeOf a = .scratch ∨ rangeOf a = .regs
    let cached := rangeOf a = .far ∨ (rangeOf a = .host ∧ nodePos rq.src = selfPos u)
    let sl := sliceOf (a / 256)
    let rd := LineOp.read (rq.addr % 256) (bits rq.imm.toNat 0 8 + 1)
    let n := 32 * min fl.n 8
    let served := fun (v : State) (k len : Nat) (op : LineOp) (c : Instr) =>
      checkReq v (q k) a len op.isAtomic = none → changing v a = false →
      (direct ∧ access v (q k) a len op = (t, g) ∧ g ≠ .wait ∨
        cached ∧ lookSlice v sl (q k) (a / 256) op = (t, .done g) ∧ ∃ d p r, g = .ok d p r) →
      exec c s = .next (respond t node rq op g)
    (u = s → served s 1 (bits rq.imm.toNat 0 8 + 1) rd (.read rq [])) ∧
    (∀ l, u = s → cached → checkReq s (q 1) a (bits rq.imm.toNat 0 8 + 1) false = none → changing s a = false →
      lookSlice s sl (q 1) (a / 256) rd = (t, l) → (∀ g, l ≠ .done g) →
      exec (.read rq []) s = .next (missRequest t sl (.read rq []) (q 1) rq.tag (a / 256) rd)) ∧
    (∀ st, u = s → direct ∨ cached → checkReq s (q 1) a (bits rq.imm.toNat 0 8 + 1) false = some st →
      exec (.read rq []) s = .next (respond (reqFault s (q 1) a st) node rq rd (.err st))) ∧
    served u 2 n (.write (rq.addr % 256) n (fl.data.toNat % 2 ^ (8 * n))
      (markPieces (rq.addr % 256) (flitBytes n (fl.data.toNat % 2 ^ (8 * n)) m))) (.write rq fl []) ∧
    (u = s → fl.n = 1 → rangeOf a ≠ .regs → served s 3 1 (.masked (bits rq.imm.toNat 0 32 * 2 ^ (rq.addr % 256 / 32 * 32))
      (fl.data.toNat % 2 ^ 256 * 2 ^ (8 * (rq.addr % 256 / 32 * 32))) (if m = 0 then 0 else 2 ^ (rq.addr % 256 / 32)))
      (.writeMasked rq fl [])) ∧
    (u = s → fl.n = 1 → rangeOf a = .regs → rq.addr % 32 = 0 →
      (∀ i < 8, bits rq.imm.toNat (4 * i) 4 = 0 ∨ bits rq.imm.toNat (4 * i) 4 = 15) →
      served s 3 4 (.masked (bits rq.imm.toNat 0 32 * 2 ^ (rq.addr % 256 / 32 * 32))
        (fl.data.toNat % 2 ^ 256 * 2 ^ (8 * (rq.addr % 256 / 32 * 32))) (if m = 0 then 0 else 2 ^ (rq.addr % 256 / 32)))
      (.writeMasked rq fl [])) ∧
    (u = s → rq.addr % 256 = 0 → served s 5 256 .zero (.zeroLine rq [])) ∧
    (∀ o, let ty := bits rq.imm.toNat 4 4
      let c := match o with
        | 1 => Instr.atomicAdd rq fl [] | 2 => .atomicMin rq fl [] | 3 => .atomicMax rq fl [] | 4 => .atomicSwap rq fl []
        | _ => .atomicCas rq fl []
      1 ≤ o → o ≤ 5 → atomicAllowed o ty = true → a % atomicBytes ty = 0 → fl.n = 1 →
      served u 4 (atomicBytes ty) (.atomic o ty (a % 256) (bits fl.data.toNat 0 64) (bits fl.data.toNat 64 64) (decide (m ≠ 0))) c) ∧
    (atomicAllowed 6 (bits rq.imm.toNat 4 4) = true → a % 256 = 0 → fl.n = 8 →
      served u 4 256 (.lineAdd (bits rq.imm.toNat 4 4) fl.data.toNat (decide (m ≠ 0))) (.lineadd rq fl []))) ∧
  (∀ (s : State) (rq : Req) (fl : Flits), nodePos rq.src = selfPos s → rq.part < 16 → rq.cls < 8 → psnAny s.psn (rq.addr / 256 * 256) 256 = false →
    let a := rq.addr
    let node := servingNode s a
    let ok := fun (opc n : Nat) => ScratchServes s (accOf s rq opc []) a n
    let n := bits rq.imm.toNat 0 8 + 1
    let k := bits rq.imm.toNat 0 32
    let ty := bits rq.imm.toNat 4 4
    let w := atomicBytes ty
    let x := memRead s.mem a w
    let A := bits fl.data.toNat 0 64 % 2 ^ (8 * w)
    let B := bits fl.data.toNat 64 64 % 2 ^ (8 * w)
    let atom := fun (o : Nat) (c : Instr) (new : Nat → Prop) => atomicAllowed o ty = true → a % w = 0 → fl.n = 1 → ok 4 w →
      ∃ t, exec c s = .next t ∧ new (memRead t.mem a w) ∧ MemSameOutside s t a w ∧
        Instr.atomicResult rq.src rq.tag (BitVec.ofNat 64 x) ∈ t.pending
    (ok 1 n → ∃ t, exec (.read rq []) s = .next t ∧ t.mem = s.mem ∧
      Instr.readData node rq.src rq.tag (a % 256) n true (flitsOf (a % 256) n (memRead s.mem a n) 0) ∈ t.pending) ∧
    (a % 256 = 0 → ok 5 256 → ∃ t, exec (.zeroLine rq []) s = .next t ∧ memRead t.mem a 256 = 0 ∧ MemSameOutside s t a 256 ∧
      Instr.writeAck rq.src rq.tag ∈ t.pending) ∧
    (FlitsClean fl →
      (fl.n ≤ 8 → ok 2 (32 * fl.n) → ∃ t, exec (.write rq fl []) s = .next t ∧
        memRead t.mem a (32 * fl.n) = fl.data.toNat % 2 ^ (256 * fl.n) ∧ MemSameOutside s t a (32 * fl.n) ∧
        Instr.writeAck rq.src rq.tag ∈ t.pending) ∧
      (fl.n = 1 → ok 3 1 → ∃ t, exec (.writeMasked rq fl []) s = .next t ∧ MemSameOutside s t (a / 32 * 32) 32 ∧
        (∀ i < 32, memGet t.mem (a / 32 * 32 + i) =
          if k / 2 ^ i % 2 = 1 then BitVec.ofNat 8 (fl.data.toNat / 2 ^ (8 * i)) else memGet s.mem (a / 32 * 32 + i)) ∧
        Instr.writeAck rq.src rq.tag ∈ t.pending) ∧
      atom 1 (.atomicAdd rq fl []) (fun y => ty = 0 → y = (x + A) % 2 ^ 32) ∧
      atom 2 (.atomicMin rq fl [])
        (fun y => ty = 0 → (BitVec.ofNat 32 y).toInt = min (BitVec.ofNat 32 x).toInt (BitVec.ofNat 32 A).toInt) ∧
      atom 3 (.atomicMax rq fl [])
        (fun y => ty = 0 → (BitVec.ofNat 32 y).toInt = max (BitVec.ofNat 32 x).toInt (BitVec.ofNat 32 A).toInt) ∧
      atom 4 (.atomicSwap rq fl []) (fun y => y = A) ∧ atom 5 (.atomicCas rq fl []) (fun y => y = if x = B then A else x) ∧
      (atomicAllowed 6 ty = true → a % 256 = 0 → fl.n = 8 → ok 4 256 → ∃ t, exec (.lineadd rq fl []) s = .next t ∧
        MemSameOutside s t a 256 ∧ Instr.atomicResult rq.src rq.tag 0 ∈ t.pending ∧ (ty = 0 → ∀ i < 64,
          (BitVec.ofNat 32 (memRead t.mem (a + 4 * i) 4)).toInt = max (-2 ^ 31) (min (2 ^ 31 - 1)
            ((BitVec.ofNat 32 (memRead s.mem (a + 4 * i) 4)).toInt + (BitVec.ofNat 32 (bits fl.data.toNat (32 * i) 32)).toInt))))))

/-- R209, R210: an atomic on a line that is not poisoned answers the element as it was and changes no other bit of the line. ADD of INT32
wraps, MIN and MAX compare as signed integers, SWAP stores its operand, CAS stores it where the element equals the comparison. -/
def Obligations.AtomicsChangeOneElement : Prop :=
  ∀ (ln : CLine) (o ty off a b : Nat), ln.psn = false → off + atomicBytes ty ≤ 256 →
    let k := 8 * atomicBytes ty
    let r := (LineOp.atomic o ty off a b false).apply ln
    let x := bits ln.data (8 * off) k
    let new := bits r.1.data (8 * off) k
    r.2 = .ok 0 0 x ∧
    (∀ lo w, lo + w ≤ 8 * off ∨ 8 * off + k ≤ lo → bits r.1.data lo w = bits ln.data lo w) ∧
    (o = 1 → ty = 0 → new = (x + a) % 2 ^ 32) ∧
    (o = 2 → ty = 0 → (BitVec.ofNat 32 new).toInt = min (BitVec.ofNat 32 x).toInt (BitVec.ofNat 32 a).toInt) ∧
    (o = 3 → ty = 0 → (BitVec.ofNat 32 new).toInt = max (BitVec.ofNat 32 x).toInt (BitVec.ofNat 32 a).toInt) ∧
    (o = 4 → new = a % 2 ^ k) ∧
    (o = 5 → new = if x = b % 2 ^ k then a % 2 ^ k else x)

/-- R200, R201, R203 to R205: a prefetch is answered at once. A sector of a missed line that arrives is kept until all four are
there, when the line is placed and its requests answered; a line whose fetch fails answers each of its requests with the error. A
dirty victim, or a dirty line that has left its way, leaves once its writeback is taken: a far-tier line is then in memory; a
side-buffer line leaves when its age is over. R144, R201, R209, R409: a
response reaches what its requester holds for the tag: data whose flits pass their checks, an acknowledgement, the element as it
was, or the error, after which a copy engine makes no further request of its command. A control packet enters its endpoint's queue
of four, or waits. It rests in part on the model's readings in log entry 24. -/
def Obligations.MissesAndResponses : Prop :=
  ((∀ (s : State) (rq : Req), checkReq s (accOf s rq 1 []) (resolve s rq.addr) 1 false = none →
    ∃ t, exec (.sbPrefetch rq) s = .next (sendRsp t (servingNode t (resolve s rq.addr)) rq 0x21 0 0 0 true noFlits) ∧
      t.mem = s.mem) ∧
  (∀ (s u : State) (sl line pas k : Nat) (ecc : Eccs) (m : Miss) (d p r : Nat) (st : Status),
    (s.slice sl).missOf line pas = some m →
    (m.got = [] → fetchLine s { m.acc with ecc := ecc } line = (u, .ok d p r) → m.waiters = [] →
      exec (.missSectorArrival sl line pas k ecc) s =
        .next (putMiss u sl { m with data := d, psn := decide (p ≠ 0), got := [k] })) ∧
    (m.got.length = 3 → k ∉ m.got → m.waiters = [] → ∃ v, exec (.missSectorArrival sl line pas k ecc) s =
      .next (fillMiss v sl { m with psn := m.psn, got := m.got ++ [k] } (.missSectorArrival sl line pas k ecc))) ∧
    (m.got = [] → fetchLine s { m.acc with ecc := ecc } line = (u, .err st) → m.waiters = [] →
      exec (.missSectorArrival sl line pas k ecc) s = .next (wake (dropMiss u sl line pas)))) ∧
  (∀ (s : State) (sl line pas k : Nat) (m : Miss), (s.slice sl).missOf line pas = some m →
    (m.got = [] → FarReads s m.acc.key line →
      let put := { m with data := memRead s.mem (lineAddr line) 256, psn := false, got := [k] }
      (m.waiters = [] → ∃ t, exec (.missSectorArrival sl line pas k []) s = .next t ∧ t.mem = s.mem ∧
        (t.slice sl).missOf line pas = some put) ∧
      (∀ w off n, m.waiters = [w] → w.early = true → w.op = .read off n → sectorsIn off n = [k] → off + n ≤ 256 →
        w.acc.foreign = false → w.acc.node < 1024 → m.acc.part < 16 → m.acc.cls < 8 →
        ∃ t, exec (.missSectorArrival sl line pas k []) s = .next t ∧ (t.slice sl).missOf line pas = some put ∧ Instr.readData (0x200 + sl + 1024 * selfPos s)
            (w.acc.node + 1024 * selfPos s) w.tag off n true
            (flitsOf off n (memRead s.mem (lineAddr line + off) n) 0) ∈ t.pending)) ∧
    (m.got.length = 3 → k ∉ m.got → m.waiters = [] → m.treat = [] → m.side = true →
      ∃ t, exec (.missSectorArrival sl line pas k []) s = .next t ∧ (t.slice sl).missOf line pas = none ∧
        ⟨m.no, s.devtime.toNat, freshLine m.acc line m.data m.psn false⟩ ∈ (t.slice sl).side)) ∧
  (∀ (s u : State) (sl line pas : Nat) (ecc : Eccs) (v : Victim) (d p r : Nat),
    (s.slice sl).victim.find? (fun v => v.wb && v.ln.is line pas) = some v → writeBack s ecc v.ln = (u, .ok d p r) →
    ∃ t, exec (.writebackAccepted sl line pas ecc) s = .next t ∧ (t.slice sl).victim = (s.slice sl).victim.erase v ∧ t.mem = u.mem) ∧
  (∀ (s : State) (sl line pas : Nat), rangeOf (lineAddr line) = .far → hbmAsleep s (lineAddr line) = false →
    let out := fun (t : State) (ln : CLine) => memRead t.mem (lineAddr line) 256 = ln.data % 2 ^ 2048 ∧
      psnAny t.psn (lineAddr line) 256 = ln.psn ∧ MemSameOutside s t (lineAddr line) 256
    (∀ v, (s.slice sl).victim.find? (fun v => v.wb && v.ln.is line pas) = some v → ∃ t,
      exec (.writebackAccepted sl line pas []) s = .next t ∧ (t.slice sl).victim = (s.slice sl).victim.erase v ∧ out t v.ln) ∧
    (∀ ln, (s.slice sl).victim.find? (fun v => v.wb && v.ln.is line pas) = none →
      (s.slice sl).out.find? (fun ln => ln.is line pas) = some ln → ∃ t,
      exec (.writebackAccepted sl line pas []) s = .next t ∧ (t.slice sl).out = (s.slice sl).out.erase ln ∧ out t ln)) ∧
  (∀ (s : State) (sl line pas : Nat), ∃ t, exec (.sideBufferExpiry sl line pas) s = .next t ∧
    (∀ y ∈ (t.slice sl).side, y ∈ (s.slice sl).side ∧
      ¬ (y.ln.is line pas = true ∧ y.came + rf s fSbfCfg_pfage * 1000 ≤ s.devtime.toNat)) ∧ t.mem = s.mem)) ∧
  (∀ (s : State) (src dst tag off n : Nat) (fl : Flits),
    let has := fun (t : State) => tget ({} : Rsp) t.rsp (rspKey dst tag)
    (checkFlits s (unitOfNode src) (unitOfNode dst) off fl = (s, 0) → ∀ last, ∃ t,
      exec (.readData src dst tag off n last fl) s = .next t ∧
      (has t).parts = (has s).parts ++ [(off, n, fl.data.toNat % 2 ^ (8 * n), 0)] ∧ (last = true → (has t).done = true)) ∧
    (∃ t, exec (.writeAck dst tag) s = .next t ∧ (has t).done = true ∧ t.mem = s.mem) ∧
    (∀ imm, ∃ t, exec (.atomicResult dst tag imm) s = .next t ∧ (has t).done = true ∧ (has t).imm = imm.toNat) ∧
    (∀ addr code, ∃ t, exec (.errorResponse dst tag addr code) s = .next t ∧ (has t).status = Status.ofCode code ∧
      (has t).done = true ∧
      (asksFor s dst tag = false → 0x228 ≤ dst → dst < 0x238 → (s.engine (dst - 0x228)).busy = true →
        (s.engine (dst - 0x228)).fail = none → (t.engine (dst - 0x228)).fail = some (Status.ofCode code, addr)) ∧
      (asksFor s dst tag = false → dst < 0x200 → ∀ d ∈ (s.dma dst).active, d.id = tag → d.done = none →
        { d with done := some (Status.ofCode code) } ∈ (t.dma dst).active)) ∧
    (∀ imm, (tget [] s.ctlq dst).length < 4 → ∃ t, exec (.control src dst imm) s = .next t ∧
      tget [] t.ctlq dst = tget [] s.ctlq dst ++ [imm]) ∧
    (∀ imm, 4 ≤ (tget [] s.ctlq dst).length → ∃ t, exec (.control src dst imm) s = .next t ∧ t.ctlq = s.ctlq ∧
      t.waiting = s.waiting ++ [.control src dst imm]))

/-! Background work of the memories. -/

/-- R159, R170 to R172, R221, R226: refreshes wait while their bank is wanted, at most eight in the near tier, and are done otherwise; a
scrub read that finds nothing moves its unit on by one line and changes nothing else; calibration windows open and close; what waited
its whole budget goes ahead; writes that have waited in an inhibited queue are discarded when the table has room; a stack whose report
is missing throttles at level 2, and an inlet reading counts from -10 to 80 degrees; a regulator window ends at its time, and the next begins there. -/
def Obligations.BackgroundWork : Prop :=
  (∀ (s : State) (e c bank : Nat) (busy : Bool), ∃ x, exec (.nearRefresh e c bank busy) s = .next (s.setNear (128 * e + c) x) ∧
    tget 0 x.refr bank = (if busy then min 8 (tget 0 (s.near (128 * e + c)).refr bank + 1) else 0) ∧
    x.wq = (s.near (128 * e + c)).wq ∧ x.scrubAt = (s.near (128 * e + c)).scrubAt) ∧
  (∀ (s : State) (e c : Nat), rb s fNtcCtl_scrub = true → exec (.nearScrub e c false .ok) s =
    .next (s.setNear (128 * e + c) { s.near (128 * e + c) with scrubAt := ((s.near (128 * e + c)).scrubAt + 1) % 393216 })) ∧
  (∀ (s : State) (on : Bool), exec (.nearCalibration on) s = .next { s with nearCal := on } ∧
    exec (.farCalibration on) s = .next { s with farCal := on }) ∧
  (∀ (s : State) (pc : Nat) (busy : Bool), exec (.farRefresh pc busy) s =
    .next (s.setFar pc { s.far pc with refr := if busy then (s.far pc).refr + 1 else 0 })) ∧
  (∀ (s : State) (pc : Nat), exec (.farScrub pc false .ok) s =
    .next (s.setFar pc { s.far pc with scrubAt := ((s.far pc).scrubAt + 1) % 3145728 })) ∧
  (∀ (s : State) (sl : Nat), rb s fSbfCfg_scrub = true → exec (.sliceScrub sl false .ok) s =
    .next (s.setSlice sl { s.slice sl with scrubAt := ((s.slice sl).scrubAt + 1) % 65536 })) ∧
  (∀ (s : State) (n bank : Nat), n < 512 → exec (.deferralBudgetExpiry (0x4A00 + n) bank false .ok) s =
    .next (s.setFar n { s.far n with refr := (s.far n).refr - 1 })) ∧
  (∀ (s : State) (sl bank : Nat), sl < 32 → exec (.deferralBudgetExpiry (0x4C40 + sl) bank true .ok) s =
    .next (s.setSlice sl { s.slice sl with scrubAt := ((s.slice sl).scrubAt + 1) % 65536 })) ∧
  (∀ (s : State) (e c seq : Nat) (w : NWrite),
    let x := s.near (128 * e + c)
    let gone := x.wq.filter fun y => decide (w.seq ≤ y.seq)
    let fits := x.table.length + ((gone.map (·.line)).eraseDups.filter fun l => !x.table.any fun t => decide (t.1 = l)).length ≤ 64
    let gives := fun c' : Instr => ∃ t, exec c' s = .next t ∧ (t.near (128 * e + c)).wq = x.wq.filter (fun y => decide (y.seq < w.seq)) ∧
      (t.near (128 * e + c)).deferred = false ∧ ∀ y ∈ gone, ∃ n, (y.line, n) ∈ (t.near (128 * e + c)).table
    (x.wq.find? (fun y => decide (y.seq = seq)) = some w → inhibited s (128 * e + c) = true → x.deferred = false →
      w.due ≤ s.devtime.toNat → (fits → gives (.inhibitTimeout e c seq)) ∧
        (¬ fits → ∃ u, exec (.inhibitTimeout e c seq) s = .next u ∧ (u.near (128 * e + c)).deferred = true ∧
          (u.near (128 * e + c)).wq = x.wq)) ∧
    (x.deferred = true → x.wq.find? (fun y => decide (y.due ≤ s.devtime.toNat)) = some w → fits → gives (.deferredDiscard e c))) ∧
  (∀ (s : State) (temps : List (Option Nat)) (inlet : Option Int), ∃ t, exec (.housekeepingRound temps inlet) s = .next t ∧
    t.inlet = (inlet.filter fun v => decide (-1280 ≤ v ∧ v ≤ 10240)) ∧ ∀ h < 8, ((temps[h]?).getD none = none → rf t (fHbcStat_thr h) = 2) ∧
      ∀ c, temps[h]? = some (some c) → rf t (fHbcStat_temp h) = c % 2 ^ (fHbcStat_temp h).w) ∧
  (∀ s : State, s.qos.fin ≤ s.devtime.toNat → ∃ t, exec .regulatorWindowEnd s = .next t ∧ t.qos.start = s.qos.fin ∧
    t.qos.served = [] ∧ t.qos.demand = [])

/-! The maintenance ring. -/

/-- R145 to R147: a read or a write of a register whose station is powered is answered by the station; a good response ends its
request; a message that fails its check is counted, and the request repeated, and after three attempts the ring fault is recorded.
Alerts reach the master, and a broadcast writes every station that owns the offset. It rests in part on the model's readings in log
entries 9, 63. -/
def Obligations.RingMessages : Prop :=
  (∀ (s : State) (tag off i d : Nat) (r : RegSpec), regAt off = some (r, i, d) → regOff s (off / 4 * 4 - d) = false →
    (let u := ringNote s { tag := tag, write := false, off := off }
     ∃ t, exec (.ringRead tag off (ringCrc 1 tag (ringWords off))) s = .next t ∧ t.pending = s.pending ++
       [.ringReadResponse tag (BitVec.ofNat 32 (regRead1 u off).2) (ringCrc 3 tag (ringWords (regRead1 u off).2))]) ∧
    (∀ x : BitVec 32, ∃ t, exec (.ringWrite tag off x (ringCrc 2 tag (ringWords off ++ ringWords x.toNat))) s = .next t ∧
      t.pending = s.pending ++ [.registerWrite fnFirmware off 32 (x.setWidth 64), .ringWriteAcknowledge tag (ringCrc 4 tag [])])) ∧
  (∀ (s : State) (tag : Nat) (r : RingReq), ringOf s tag = some r →
    (∀ x : BitVec 32, ∃ t, exec (.ringReadResponse tag x (ringCrc 3 tag (ringWords x.toNat))) s = .next t ∧
      tget 0 t.ring.reads tag = x.toNat ∧ ringOf t tag = none) ∧
    (∃ t, exec (.ringWriteAcknowledge tag (ringCrc 4 tag [])) s = .next t ∧ ringOf t tag = none ∧ t.regs = s.regs) ∧
    (∀ st, ∃ t, exec (.ringError tag st (ringCrc 7 tag [st])) s = .next t ∧ tget 0 t.ring.errors tag = st ∧ ringOf t tag = none) ∧
    (∀ crc, crc ≠ ringCrc 4 tag [] → ∃ t, exec (.ringWriteAcknowledge tag crc) s = .next t ∧
      t.pending = s.pending ++ [.ringRequestRetry tag]) ∧
    (r.bad = true → r.tries < 3 → ∃ t, exec (.ringRequestRetry tag) s = .next t ∧
      t.pending = s.pending ++ [if r.write then writeMsg tag r.off r.data else readMsg tag r.off] ∧
      ∃ y, ringOf t tag = some y ∧ y.tries = r.tries + 1 ∧ y.bad = false) ∧
    (r.bad = true → 3 ≤ r.tries → ∃ t, exec (.ringRequestRetry tag) s =
      .next (errEvent t .ring .timeout unitRing 0 (ringStation r.off) 0) ∧ rb t fMshRingstat_fault = true ∧ ringOf t tag = none)) ∧
  (∀ (s : State) (station cause : Nat), exec (.ringAlert station cause (ringCrc 5 0 [station, cause])) s =
    .next { s with ring := { s.ring with alerts := s.ring.alerts ++ [(station, cause)] } }) ∧
  (∀ (s : State) (station cause : Nat) (crc : BitVec 16), crc ≠ ringCrc 5 0 [station, cause] →
    exec (.ringAlert station cause crc) s = .next (ringBadCrc s)) ∧
  (∀ (s : State) (tag off : Nat) (x : BitVec 32),
    exec (.ringBroadcastWrite tag off x (ringCrc 6 tag (ringWords off ++ ringWords x.toNat))) s =
      .next (s.emit ((broadcastTargets s off).map fun a => .registerWrite fnFirmware a 32 (x.setWidth 64))) ∧
    ∀ cl < 512, ∀ r i d, off < 0x1000 → regAt (offCluId cl + off) = some (r, i, d) →
      regOff s ((offCluId cl + off) / 4 * 4 - d) = false → ∃ t,
        exec (.ringBroadcastWrite tag off x (ringCrc 6 tag (ringWords off ++ ringWords x.toNat))) s = .next t ∧
        Instr.registerWrite fnFirmware (offCluId cl + off) 32 (x.setWidth 64) ∈ t.pending)

/-! The host's accesses. -/

/-- R231 to R234, R261, R276: what the responder serves. A BAR4 read that the memory answers completes with its bytes, a posted write within
one line is stored; a request outside what BAR4 serves completes with Unsupported Request, and one without an answer for 20 µs
completes with all ones and poison. A configuration word is written or returned, the bits of a BAR below its size reading as its type (Table 9-2); a VF's
BAR0 reads as zero beyond its queues, BAR2 as the doorbells last written, and what the host port does not support is an
Unsupported Request; a read of the low half of DEVTIME keeps the high
half. R255 to R258: translations. A completion with a permission enters the cache, first to be found, and the pages it serves no
longer wait; the response to a page request has its pages translated again, or fails them, as a timeout does; an invalidation drops
what covers its range and, with no line of it left, is complete. It rests in part on the model's readings in log entries 34, 61. -/
def Obligations.HostPort : Prop :=
  ((∀ (s u : State) (id off n : Nat) (ecc : Eccs) (bs : List (Byte × Bool)), s.host.up = true →
    bar4Bad s (bar4Find s id off n false) off = false →
    bar4ReadRange s (bar4Find s id off n false) ecc = (u, bs, none) → ∃ t, exec (.bar4Read id off n ecc) s = .next t ∧
    t.host.cpl = some { data := natOf (bs.map (·.1)), psn := bs.any (·.2) }) ∧
  (∀ (s : State) (id off n : Nat) (ecc : Eccs), s.host.up = true → bar4Bad s (bar4Find s id off n false) off = true →
    ∃ t, exec (.bar4Read id off n ecc) s = .next t ∧ t.host.cpl = some { ur := true } ∧ t.mem = s.mem) ∧
  (∀ (s : State) (id off n : Nat), let x := bar4Find s id off n false
    s.host.up = true → recovering s = false → bar4Bad s x off = false →
    (∀ y ∈ piecesFrom x.addr x.n, ScratchServes s (bar4Acc x) y.1 y.2 ∧ psnAny s.psn (y.1 / 256 * 256) 256 = false) →
    ∃ t, exec (.bar4Read id off n []) s = .next t ∧ t.host.cpl = some { data := memRead s.mem x.addr x.n } ∧ t.mem = s.mem ∧
      ∀ y ∈ t.host.bar4, y.id ≠ id) ∧
  (∀ (s u : State) (id off d p r : Nat) (bytes : List (BitVec 8)) (ecc : Eccs), s.host.up = true →
    let x := bar4Find s id off bytes.length true
    bar4Bad s x off = false → recovering s = false → bytes ≠ [] → x.addr % 256 + bytes.length ≤ 256 →
    writeBytes s { bar4Acc x with ecc := ecc } x.addr bytes.length (natOf bytes) 0 = (u, .ok d p r) →
    exec (.bar4Write id off bytes false ecc) s = .next (bar4Drop u id)) ∧
  (∀ (s : State) (id off : Nat) (bytes : List (BitVec 8)), let x := bar4Find s id off bytes.length true
    s.host.up = true → recovering s = false → bar4Bad s x off = false → ScratchServes s (bar4Acc x) x.addr bytes.length →
    ∃ t, exec (.bar4Write id off bytes false []) s = .next t ∧ memRead t.mem x.addr bytes.length = natOf bytes ∧
      MemSameOutside s t x.addr bytes.length ∧ ∀ y ∈ t.host.bar4, y.id ≠ id) ∧
  (∀ (s : State) (id : Nat) (r : Bar4), s.host.bar4.find? (fun r => decide (r.id = id ∧ r.sent + 20000 ≤ s.devtime.toNat)) = some r →
    r.write = false → ∃ t, exec (.bar4Timeout id) s = .next t ∧ t.host.cpl = some { data := 256 ^ r.n - 1, psn := true }) ∧
  (∀ (s : State) (v : BitVec 64), ∃ t, exec (.bar4WindowWrite v) s = .next t ∧
    rf t fCmdBar4_base = bits v.toNat fCmdBar4_base.lo fCmdBar4_base.w ∧
    rf t fCmdBar4_part = bits v.toNat fCmdBar4_part.lo fCmdBar4_part.w) ∧
  (∀ (s : State) (fn off : Nat) (v : BitVec 32), s.host.up = true → fn < 17 → off < 1024 →
    (∃ t, exec (.configAccess fn off .config v) s = .next t ∧ t.host.cpl = some { data := (cfgRead s fn off).toNat }) ∧
    (∃ t, exec (.configAccess fn off .configWrite v) s = .next t ∧ t.host.cpl = some {} ∧
      cfgRead t fn off = cfgKeep fn off (Config.cfgWrite fn off (cfgRead s fn off) v)) ∧
    (∃ t, exec (.configAccess fn off .unlisted v) s = .next t ∧ t.host.cpl = some { ur := true } ∧ t.regs = s.regs) ∧
    (∀ q, queueAt s fn (off / 0x1000) = some q → off % 0x1000 = 0 → ∃ t, exec (.configAccess fn off (.bar2 true) v) s = .next t ∧
      t.host.cpl = some { data := (s.queue q).lastTail + (s.queue q).lastHead * 2 ^ 32 }) ∧
    (0 < fn → vfOffset s fn off = none → vfOffset s fn (off + 4) = none → ∃ t, exec (.configAccess fn off (.bar0 true) v) s = .next t ∧
      t.host.cpl = some {})) ∧
  (∀ s : State, (cfgRead s 0 4).toNat % 2 ^ 26 = 4 ∧ (cfgRead s 0 6).toNat % 2 ^ 20 = 4 ∧ (cfgRead s 0 8).toNat = 12 ∧
    (cfgRead s 0 9).toNat % 2 ^ 4 = 0) ∧
  (∀ s : State, ∃ t, exec .pcieLinkUp s = .next t ∧ t.host.up = true) ∧
  (∀ s : State, s.host.up = true → ∃ t, exec .devtimeLowRead s = .next t ∧
    t.host.cpl = some { data := s.devtime.toNat % 2 ^ 32 } ∧ t.host.hiLatch = some (s.devtime.toNat / 2 ^ 32))) ∧
  ((∀ (s : State) (pasid va lg : Nat) (r w : Bool), r = true ∨ w = true →
    let x : Xlat := ⟨pasid, va / 2 ^ lg * 2 ^ lg, lg, r, w⟩
    ∃ t, exec (.atsTranslationCompletion pasid va lg r w) s = .next t ∧ t.host.cache.head? = some x ∧
      t.host.cache.length ≤ 4096 ∧ t.pending = s.waiting ++ s.pending ∧
      ∀ y ∈ s.host.waits, x.covers y.pasid (4096 * y.page) = true → y.phase = .ats → x.allows y.write = true → y ∉ t.host.waits) ∧
  (∀ (s : State) (idx : Nat) (ok : Bool), ∃ t, exec (.prgResponse idx ok) s = .next t ∧
    t.host.waits = s.host.waits.map (fun y => if y.phase = .pri idx then
      (if ok then { y with phase := .ats2 } else { y with phase := .failed, sent := s.devtime.toNat }) else y) ∧
    t.pending = s.waiting ++ s.pending) ∧
  (∀ (s : State) (idx : Nat) (y : XWait), y ∈ s.host.waits → y.phase = .pri idx →
    y.sent + rf s fCmdPrito_ms * 10 ^ 6 ≤ s.devtime.toNat → exec (.priTimeout idx) s = exec (.prgResponse idx false) s) ∧
  (∀ (s : State) (id pasid va lg : Nat), invBusy s pasid va lg = false → id ∉ s.host.invs → rf s fLnkCasc_topo = 0 →
    tget [] s.host.invWait id = [] →
    let x : Xlat := ⟨pasid, va / 2 ^ lg * 2 ^ lg, lg, false, false⟩
    let w := hostWalk 3 (hostBase + x.va) (2 ^ lg) pasid
    (∀ sl ∈ allSlices, ∀ ln ∈ (s.slice sl).lines, w.covers ln.line ln.pasid ln.key = true → ln.dirty = false) →
    ∃ t, exec (.atsInvalidation id pasid va lg) s = .next t ∧ id ∉ t.host.invs ∧ t.hostMem = s.hostMem ∧
      t.host.cache = (s.host.cache.filter fun y => !(decide (y.pasid = pasid) && (y.covers pasid x.va || x.covers pasid y.va))) ∧
      ∀ sl ∈ allSlices, ∀ ln ∈ (s.slice sl).lines, w.covers ln.line ln.pasid ln.key = true →
        (t.slice sl).find ln.line ln.pasid = .absent))

/-! Registers. -/

/-- R4 to R6, R8, R9 (Tables 0-4, 0-5): what a software write of the masked bits leaves in a register. A read-only field, one outside
the mask and every reserved bit stand; a write-one-to-clear field loses the ones written but for those that the hardware set in the same
cycle, a write-one-to-set field gains them; a read-write field without a limit takes the bits written, a counter of them the
increments of the same cycle too; a field that its block's commit has locked stands. -/
def Obligations.WritesFollowAccessTypes : Prop :=
  ∀ (s : State) (fn off v mask i : Nat) (r : RegSpec), regFind off = some (r, i) →
    let t := regStoreAt s fn off v mask
    let was := fun (lo w : Nat) => bits (s.reg off).toNat lo w
    let is := fun (lo w : Nat) => bits (t.reg off).toNat lo w
    (∀ f ∈ r.fields,
      let m := bits mask f.lo f.w
      let n := bits v f.lo f.w
      (m = 0 ∨ f.acc = .ro ∨ f.acc = .rc ∨ f.acc = .wo → is f.lo f.w = was f.lo f.w) ∧
      (f.acc = .w1c → is f.lo f.w = Nat.lor (Nat.land (was f.lo f.w) (2 ^ f.w - 1 - Nat.land n m))
        (Nat.land (was f.lo f.w) (bits (tget 0 s.met.set off) f.lo f.w))) ∧
      (f.acc = .w1s → is f.lo f.w = Nat.lor (was f.lo f.w) (Nat.land n m)) ∧
      (f.clamp = .none → (f.acc = .rw ∧ f.ctr = false) ∨ (f.acc = .rwl ∧ lockedReg s r.name i = false) → m = 2 ^ f.w - 1 →
        is f.lo f.w = n) ∧
      (f.clamp = .none → f.acc = .rw → f.ctr = true → m = 2 ^ f.w - 1 →
        let k := tget (0, false) s.met.inc (512 * off + f.lo)
        is f.lo f.w = if k.2 then min (2 ^ f.w - 1) (n + k.1) else (n + k.1) % 2 ^ f.w) ∧
      (f.acc = .rwl → lockedReg s r.name i = true → is f.lo f.w = was f.lo f.w)) ∧
    (∀ b < 256, (∀ f ∈ r.fields, b < f.lo ∨ f.lo + f.w ≤ b) → is b 1 = was b 1) ∧
    (∀ o, o ≠ off → t.reg o = s.reg o)

/-- R7: a read of an offset where no register and no window is assigned returns zero, and a write to it is discarded; nothing else
happens. -/
def Obligations.UnassignedOffsets : Prop :=
  ∀ (s : State) (off : Nat) (v : BitVec 64), off % 4 = 0 → regAt off = none → windowRead s off = none →
    regRead1 s off = (s, 0) ∧
    (s.host.up = true → rb s fBseBoot_cmd = true → exec (.registerWrite 0 off 32 v) s = .next s)

/-- R5, R332, R372: a register write as it arrives. After the end of BASE a write of PF0 to a plain register stores it by its access
types; before, it is held with its DEVTIME, or lost where 64 are. CLU_CFG takes the values of the write that commits it and keeps
them afterwards, and the error queue's head moves as written. It rests in part on the model's readings in log entry 64. -/
def Obligations.RegisterWritesArrive : Prop :=
  (∀ (s : State) (v : BitVec 64), s.host.up = true → rb s fBseBoot_cmd = true → exec (.registerWrite 0 offCmdPrito 32 v) s =
    .next (regStoreAt s 0 offCmdPrito (v.toNat % 2 ^ 32) (2 ^ 32 - 1))) ∧
  (∀ (s : State) (fn off w : Nat) (v : BitVec 64), s.host.up = true → fn < 17 → rb s fBseBoot_cmd = false → recovering s = false →
    (s.sec.held.length < 64 → exec (.registerWrite fn off w v) s =
      .next { s with sec := { s.sec with held := s.sec.held ++ [⟨s.devtime.toNat, fn, off, w, v.toNat⟩] } }) ∧
    (64 ≤ s.sec.held.length → exec (.registerWrite fn off w v) s =
      .next { s with sec := { s.sec with heldLost := s.sec.heldLost + 1 } })) ∧
  (∀ (s : State) (cl : Nat) (v : BitVec 32), cl < 512 → ∃ t, exec (.cluCfgCommit cl v) s = .next t ∧
    rb t (fCluCfg_commit cl) = true ∧
    (rb s (fCluCfg_commit cl) = false → rf t (fCluCfg_part cl) = bits v.toNat 0 4 ∧ rf t (fCluCfg_en cl) = bits v.toNat 4 1) ∧
    (rb s (fCluCfg_commit cl) = true → rf t (fCluCfg_part cl) = rf s (fCluCfg_part cl) ∧
      rf t (fCluCfg_en cl) = rf s (fCluCfg_en cl))) ∧
  (∀ (s : State) (n : Nat), ∃ t, exec (.errorQueueHeadWrite n) s = .next t ∧ rf t fErrStat_head = n % 2048 ∧
    rf t fErrStat_tail = rf s fErrStat_tail)

/-- R212, R214 to R216, R218, R220, R304 (Tables 8-11 to 8-15, 11-13): the shared buffer's operations and grants. A maintenance
operation that its table allows starts, and its end follows: INVALIDATE and PURGE_KEY leave none of the lines they cover, FLUSH and
CLEAN_INV of every line write the dirty ones back, and CLEAN_INV then leaves none; scratch ways in number up to twelve change with four cache ways left
in every slice; a block whose owner changes reads as zeros; a far-tier block's owner changes after the block's lines have been
cleaned; a slice whose tags are not valid cannot be enabled, and a way comes back only with its tags invalidated. R223, R226,
R230: a guarantee within the limit of 13,100 GB/s over all classes is stored, any other refused with gerr set; a new window length
waits for its window; the miss queue's head moves unless it would leave more than 64 records. -/
def Obligations.BufferAndRegulationRegisters : Prop :=
  ((∀ (s : State) (v : BitVec 32) (k : Nat), rb s fSbfMaint_busy = false → 1 ≤ k → k ≤ 4 →
    let c := match k with
      | 1 => Instr.maintInvalidate v | 2 => .maintFlush v | 3 => .maintCleanInv v | _ => .maintPurgeKey v
    (maintAllowed k (bits v.toNat 4 3) = true → ∃ t, exec c s = .next t ∧ Instr.maintDone ∈ t.pending ∧
      ∃ w sls, t.walk = some (w, sls) ∧ w.op = k ∧ w.scope = bits v.toNat 4 3) ∧
    (maintAllowed k (bits v.toNat 4 3) = false → ∃ t, exec c s = .next t ∧ rb t fSbfMaint_err = true ∧ t.walk = s.walk)) ∧
  (∀ (s : State) (w : Walk) (sls : List Nat), rb s fSbfMaint_busy = true → s.walk = some (w, sls) → w.left = [] →
    (∀ sl ∈ sls, sl < 32) →
    ∃ t, exec .maintDone s = .next t ∧ rb t fSbfMaint_busy = false ∧ t.walk = none) ∧
  (∀ (s : State) (v : BitVec 32) (k : Nat), rb s fSbfMaint_busy = false → 1 ≤ k → k ≤ 4 → maintAllowed k (bits v.toNat 4 3) = true →
    let c := match k with
      | 1 => Instr.maintInvalidate v | 2 => .maintFlush v | 3 => .maintCleanInv v | _ => .maintPurgeKey v
    let held := allSlices.flatMap fun sl => (s.slice sl).lines.filter (·.dirty)
    let goes := fun Q : State → Walk → List Nat → Prop => ∃ t u w sls, exec c s = .next t ∧ t.walk = some (w, sls) ∧
      exec .maintDone t = .next u ∧ rb u fSbfMaint_busy = false ∧ u.walk = none ∧ Q u w sls
    let none' := fun (u : State) (w : Walk) (sls : List Nat) => ∀ sl ∈ sls, ∀ ln ∈ (s.slice sl).lines,
      w.covers ln.line ln.pasid ln.key = true → (u.slice sl).find ln.line ln.pasid = .absent
    let whole := bits v.toNat 4 3 = 0 ∧ bits v.toNat fSbfMaint_all.lo fSbfMaint_all.w = 1
    (k = 1 ∨ k = 4 → goes fun u w sls => none' u w sls ∧ (k = 1 ∧ whole → ∀ sl < 32, rb u (fSbfCtl_clean sl) = true)) ∧
    (whole → held = [] → k = 2 ∨ k = 3 → goes fun u w sls => u.hostMem = s.hostMem ∧ (k = 3 → none' u w sls) ∧
      (k = 2 → ∀ sl ∈ sls, (u.slice sl).lines = (s.slice sl).lines)) ∧
    (∀ ln, whole → held = [ln] → k = 2 ∨ k = 3 → rangeOf (lineAddr ln.line) = .far → hbmAsleep s (lineAddr ln.line) = false →
      goes fun u w sls => memRead u.mem (lineAddr ln.line) 256 = ln.data % 2 ^ 2048 ∧ (k = 3 → none' u w sls))) ∧
  (∀ (s : State) (w : Nat), w < 16 → scrRefused s w = false → w ≠ rf s fSbfScr_ways → ∃ t, exec (.scratchWaysWrite w) s = .next t ∧
    rf t fSbfScr_ways = w ∧ rb t fSbfScr_busy = true ∧ Instr.scratchChangeDone ∈ t.pending) ∧
  (∀ (s : State) (w : Nat), w < 16 → scrRefused s w = true → ∃ t, exec (.scratchWaysWrite w) s = .next t ∧
    rb t fSbfScr_err = true ∧ rf t fSbfScr_ways = rf s fSbfScr_ways) ∧
  (∀ s : State, (∀ x ∈ s.slices, x.2.out = []) → ∃ t, exec .scratchChangeDone s = .next t ∧ rb t fSbfScr_busy = false ∧
    t.pending = s.waiting ++ s.pending) ∧
  (∀ (s : State) (b v : Nat), b < 96 → v ≤ 16 → b ≠ 0 ∨ rb s fBseBoot_cmd = false ∨ v = 16 → rf s (fSbfScrgrant_owner b) ≠ v → ∃ t, exec (.scratchGrantWrite b v) s = .next t ∧
    rf t (fSbfScrgrant_owner b) = v ∧ (∀ a < 0x400000, memGet t.mem (scrBase + b * 0x400000 + a) = 0) ∧
    rb t (fSbfScrgrant_zeroing b) = true) ∧
  (∀ (s : State) (b : Nat), b < 96 → ∃ t, exec (.scratchZeroingDone b) s = .next t ∧ rb t (fSbfScrgrant_zeroing b) = false ∧
    t.mem = s.mem) ∧
  (∀ (s : State) (b v : Nat), b < 384 → v ≤ 16 → rf s (fSecFtgrant_owner b) ≠ v →
    (rf s (fSecFtgrant_owner b) < 16 → confidential s (rf s (fSecFtgrant_owner b)) = false) →
    ∃ t, exec (.farGrantWrite b v) s = .next t ∧ tget 31 t.ftPend b = v ∧ Instr.farGrantChangeDone b ∈ t.pending) ∧
  (∀ (s : State) (b : Nat), b < 384 → rb s (fSecFtgrant_busy b) = true → (∀ sl ∈ allSlices, ∀ ln ∈ (s.slice sl).lines,
      (grantWalk b).covers ln.line ln.pasid ln.key = true → ln.dirty = false) →
    ∃ t, exec (.farGrantChangeDone b) s = .next t ∧ rf t (fSecFtgrant_owner b) = tget 31 s.ftPend b % 32 ∧
      rb t (fSecFtgrant_busy b) = false) ∧
  (∀ (s : State) (sl v : Nat), sl < 32 → ∃ t, exec (.sliceEnableWrite sl v) s = .next t ∧
    (rb s (fSbfCtl_clean sl) = true ∨ v % 2 = 0 → rf t (fSbfCtl_en sl) = v % 2) ∧
    (rb s (fSbfCtl_clean sl) = false → v % 2 = 1 → rb t (fSbfCtl_noinv sl) = true ∧
      rf t (fSbfCtl_en sl) = rf s (fSbfCtl_en sl))) ∧
  (∀ (s : State) (sl w : Nat), sl < 32 → w < 16 → w ∉ (s.slice sl).locked →
    (rf s (fSbfWaydis_mask sl) / 2 ^ w % 2 = 0 → ∃ t, exec (.wayDisableWrite sl w) s = .next (repair (wayOut t sl w) (unitWay sl w) 6 0 (wayLoc 0 w)) ∧
      rf t (fSbfWaydis_mask sl) = rf s (fSbfWaydis_mask sl)) ∧
    (rf s (fSbfWaydis_mask sl) / 2 ^ w % 2 = 1 → rf s (fSbfWaystat_inv sl) / 2 ^ w % 2 = 1 →
      ∃ t, exec (.wayEnableWrite sl w) s = .next t ∧ rf t (fSbfWaydis_mask sl) = rf s (fSbfWaydis_mask sl) - 2 ^ w) ∧
    (rf s (fSbfWaydis_mask sl) / 2 ^ w % 2 = 1 → rf s (fSbfWaystat_inv sl) / 2 ^ w % 2 = 0 →
      ∃ t, exec (.wayEnableWrite sl w) s = .next t ∧ rb t (fSbfCtl_noinv sl) = true ∧
        rf t (fSbfWaydis_mask sl) = rf s (fSbfWaydis_mask sl)))) ∧
  ((∀ (s : State) (p c : Nat) (v : BitVec 32), p < 16 → c < 8 →
    (guarSum s (8 * p + c) + bits v.toNat 16 14 ≤ 13100 → ∃ t, exec (.qosClassWrite p c v) s = .next t ∧
      rf t (fQosClass_guar (8 * p + c)) = bits v.toNat 16 14) ∧
    (13100 < guarSum s (8 * p + c) + bits v.toNat 16 14 → ∃ t, exec (.qosClassWrite p c v) s = .next t ∧
      rb t fQosMissstat_gerr = true ∧ rf t (fQosClass_guar (8 * p + c)) = rf s (fQosClass_guar (8 * p + c)))) ∧
  (∀ (s : State) (us : Nat), 1 ≤ us → us ≤ 1000 → ∃ t, exec (.qosWinWrite us) s = .next t ∧ rf t fQosWin_us = us ∧
    rf t fQosWin_cur = rf s fQosWin_cur) ∧
  (∀ (s : State) (v : Nat), s.met.inc = [] → (rf s fQosMissstat_tail + 128 - v % 128) % 128 ≤ 64 → ∃ t, exec (.missQueueHeadWrite v) s = .next t ∧
    rf t fQosMissstat_head = v % 128 ∧ rf t fQosMissstat_tail = rf s fQosMissstat_tail))

/-! Links and the cascade. -/

/-- R267 to R269, R272, R292, R377: a port trains when every step goes well, comes up when its window of test frames passes, goes
down with the cause of the step that fails, or on a loss of signal, and retrains 100 ms after a failure. R263 to R267, R273, R283,
R287, R288: frames, packets and the mailbox. A good frame at a port that is up is delivered, one at any other port is not; a port
that is up sends a frame with the next number, and one that went down tells its peer; a request over a link without a response for
10 µs fails where its requester is, and is forgotten where it only passed; transit is set up between two ports of one owner that is
stopped. A write of go forms the transfer of the send buffer; it ends when it is acknowledged; one that meets another's goes on or
waits by its position, and fails at the sixteenth attempt. A transfer for this device is taken when its check holds, it is authentic
and the buffer is free. It rests in part on the model's readings in log entries 77, 90, 91. -/
def Obligations.LinkPorts : Prop :=
  ((∀ (s : State) (p m : Nat) (t : Train), p < 8 → mayTrain s p = true → isMember s = false → rb s fLnkCasc_master = true →
    t.lanes = true → t.frames = true → identityOk s p t = true → t.auth = true → t.differs = false → t.oneWay ≤ 214000 →
    t.time = some m → ∃ u, exec (.portTraining p t) s = .next u ∧ rf u (fLnkPstat_state p) = 1 ∧
      (linkPort u p).trained = true ∧ (linkPort u p).provision = false ∧ (linkPort u p).secret = t.secret) ∧
  (∀ (s : State) (p : Nat) (t : Train), mayTrain s p = true → t.lanes = false →
    exec (.portTraining p t) s = .next (portDown s p 4)) ∧
  (∀ (s : State) (p : Nat), p < 8 → (linkPort s p).trained = true →
    (∃ u, exec (.errorRateGate p false) s = .next (portDown u p 1) ∧ (linkPort u p).trained = false) ∧
    (isMember s = false → (linkPort s p).provision = false → ∃ u, exec (.errorRateGate p true) s = .next (creadyCheck u) ∧
      rf u (fLnkPstat_state p) = 2) ∧
    ((linkPort s p).provision = true → ∃ u, exec (.errorRateGate p true) s = .next u ∧ rf u (fLnkPstat_state p) = 2 ∧
      (linkPort u p).trained = false)) ∧
  (∀ (s : State) (p : Nat), rf s (fLnkPstat_state p) = 3 →
    ((linkPort s p).failedAt + 10 ^ 8 ≤ s.devtime.toNat → ∃ t, exec (.portRetrain p) s = .next t ∧
      rf t (fLnkPstat_state p) = 4) ∧
    (s.devtime.toNat < (linkPort s p).failedAt + 10 ^ 8 → exec (.portRetrain p) s = .next s)) ∧
  (∀ (s : State) (p : Nat), exec (.signalLoss p) s = .next (if rf s (fLnkPstat_state p) = 2 then portDown s p 0 else s))) ∧
  ((∀ (s : State) (p : Nat) (x : Frame), rf s (fLnkPstat_state p) ≠ 2 → exec (.frameReceive p x) s = .next s) ∧
  (∀ (s : State) (p : Nat) (x : Frame), rf s (fLnkPstat_state p) = 2 → x.ucw = 0 → x.tagOk = true →
    ∃ u, exec (.frameReceive p x) s = .next (deliverFrame u p x) ∧ (linkPort u p).bad = 0) ∧
  (∀ (s : State) (p : Nat), rf s (fLnkPstat_state p) = 2 → ∃ t, exec (.frameTransmit p) s = .next t ∧
    (linkPort t p).fnum = ((linkPort s p).fnum + 1) % 2 ^ 32) ∧
  (∀ (s : State) (p : Nat), rf s (fLnkPstat_state p) ≠ 2 → (linkPort s p).sendDown = true →
    ∃ t f, exec (.frameTransmit p) s = .next t ∧ (linkPort t p).sent = some f ∧ f.down = true ∧
      (linkPort t p).sendDown = false) ∧
  (∀ (s : State) (src tag : Nat) (o : OutReq),
    s.outReqs.find? (fun o => decide (o.src = src ∧ o.tag = tag ∧ o.sent + reqLimit s o ≤ s.devtime.toNat)) = some o →
    (nodePos o.src = selfPos s → exec (.serviceRequestTimeout src tag) s =
      .next (failReq { s with outReqs := s.outReqs.filter fun y => decide (y ≠ o) } o .timeout)) ∧
    (nodePos o.src ≠ selfPos s → exec (.serviceRequestTimeout src tag) s =
      .next { s with outReqs := s.outReqs.filter fun y => decide (y ≠ o) })) ∧
  (∀ (s : State) (p : Nat) (v : BitVec 32), p < 8 → (∀ q, portOwner s p = some q → stopped s q = true) →
    (bits v.toNat 26 1 = 0 ∨ ((portOwner s p).isSome = true ∧ portOwner s p = portOwner s (bits v.toNat 23 3))) →
    ∃ t, exec (.transitConfigWrite p v) s = .next t ∧ rf t (fLnkPcfg_thru p) = bits v.toNat 26 1 ∧
      rf t (fLnkPcfg_src p) = bits v.toNat 23 3 ∧ rf t (fLnkPcfg_op p) = bits v.toNat 20 3) ∧
  (∀ s : State, rb s fLnkMbx_busy = false → ∃ t, exec .mailboxSend s = .next t ∧ rb t fLnkMbx_busy = true ∧
    rb t fLnkMbx_go = true ∧ t.links.mbx.out = some (mailboxOut s)) ∧
  (∀ (s : State) (o : MbxOut), rf s fBsePhase_cur = 3 → s.links.mbx.out = some o → o.crc < 2 ^ 16 →
    s.links.mbx.idleAt ≤ s.devtime.toNat →
    ∃ t, exec (.mailboxTransfer ⟨o.role, selfPos s⟩ o.dst o.bytes (BitVec.ofNat 16 o.crc) true) s = .next t ∧
      rb t fLnkMbx_busy = false ∧ rb t fLnkMbx_go = false ∧ t.links.mbx.out = none) ∧
  (∀ (s : State) (role : Bool) (src : Nat) (bytes : List (BitVec 8)), rf s fBsePhase_cur = 3 → src < 64 → src ≠ selfPos s →
    rb s fLnkMbx_rxv = false →
    (∃ t, exec (.mailboxTransfer ⟨role, src⟩ (selfPos s) bytes (BitVec.ofNat 16 (mailboxCrc src (selfPos s) bytes)) true) s = .next t ∧
      t.links.mbx.rx = bytes ∧ t.links.mbx.acked = true ∧ rb t fLnkMbx_rxv = true ∧ rf t fLnkMbx_rsrc = src) ∧
    (∃ t, exec (.mailboxTransfer ⟨role, src⟩ (selfPos s) bytes (BitVec.ofNat 16 (mailboxCrc src (selfPos s) bytes)) false) s = .next t ∧
      t.links.mbx.rx = s.links.mbx.rx ∧ t.links.mbx.acked = false)) ∧
  (∀ (s : State) (role : Bool) (src dst : Nat) (bytes : List (BitVec 8)) (crc : BitVec 16) (ok : Bool) (o : MbxOut),
    rf s fBsePhase_cur = 3 → src ≠ selfPos s → s.links.mbx.out = some o →
    ∃ t, exec (.mailboxTransfer ⟨role, src⟩ dst bytes crc ok) s = .next t ∧ t.links.mbx.out = some { o with met := some src } ∧
      t.links.mbx.idleAt = s.devtime.toNat + mailboxIdle) ∧
  (∀ (s : State) (o : MbxOut), s.links.mbx.out = some o →
    (selfPos s = 0 ∨ (∀ m, o.met = some m → selfPos s ≤ m) → exec .mailboxRetry s = .next (incSat s fLnkMbx_coll 1)) ∧
    (∀ m, o.met = some m → selfPos s ≠ 0 → m < selfPos s →
      (o.tries < 15 → ∃ t, exec .mailboxRetry s = .next t ∧
        t.links.mbx.out = some { o with tries := o.tries + 1, met := none }) ∧
      (15 ≤ o.tries → ∃ t, exec .mailboxRetry s = .next t ∧ t.links.mbx.out = none ∧ rb t fLnkMbx_fail = true ∧
        rb t fLnkMbx_busy = false))))

/-- R274, R277, R280, R281, R289 to R291: the steps of a cascade. READY of every device gives GO; its start time comes to every
device once, and the step starts when DEVTIME reaches it; an abort spreads; with a detour that applies its images are checked and loaded
and the step is done again, without one it ends LINK_DOWN; the verification of a detour list records its digest. Link waits and pauses hold the partition until what they wait for arrives, or end its run after 10
ms. R275, R276: DEVTIME in a cascade. The master sends its time on every port that is up; a member that hears it goes on by at most
one nanosecond, and not at all while it is within 2 ns. DEVTIME never goes back by a message. It rests in part on the model's
readings in log entries 13, 64, 65, 89. -/
def Obligations.CascadeStepsAndTime : Prop :=
  ((∀ (s : State) (p : Nat), stepOpen s p = true → exec (.abortMarker p) s = .next (irq (abortAndTell s p) 0 67)) ∧
  (∀ (s : State) (p : Nat) (elems : List DetourElem), isMember s = false → (s.part p).aborted = true → detouring s p = false →
    (s.part p).abortAt + 10 ^ 6 ≤ s.devtime.toNat →
    (rb s fLnkCasc_autodet = false ∨ confidential s p = true ∨ (failedLinks s p).length ≠ 1 →
      exec (.detour p false none elems) s = .next (detourFail s p)) ∧
    (∀ l e, rb s fLnkCasc_autodet = true → confidential s p = false → failedLinks s p = [l] → detourEntry s l = some e →
      exec (.detour p false none elems) s = .next (startJob s e (some p) elems (.detour p false none elems)))) ∧
  (∀ (s u : State) (p : Nat) (elems : List DetourElem) (j : DetourJob), isMember s = false → (s.part p).aborted = true →
    s.links.jobs.find? (fun j => decide (j.part = some p)) = some j → j.loading = true → j.ordered = false →
    (∀ y ∈ j.elems, y.pos = selfPos s) → loadOwn s p j.elems = (u, some true) → u.links.jobs = s.links.jobs → selfPos u = selfPos s →
    ∃ t T, exec (.detour p false (some j.entry) elems) s = .next t ∧ Instr.goMarker p ((u.part p).step.toNat + 1) T ∈ t.pending ∧
      (t.part p).aborted = false ∧ detouring t p = false) ∧
  (∀ (s u : State) (p : Nat) (y : DetourElem) (ok : Bool), isMember s = true → loadElem s p y = (u, some ok) →
    exec (.detour p true none [y]) s = .next (tellMaster u 0x4D (p + 16 * selfPos u + 1024 * bit ok) noFlits)) ∧
  (∀ (s w : State) (e : Nat) (v : BitVec 256) (y : DetourElem) (ok : Bool) (d : BitVec 64), e < 32 → isMember s = false →
    y.pos = selfPos s → bits v.toNat 63 1 = 1 →
    (let u := clrB (regStoreAt s 0 (offLnkDetour e) v.toNat (2 ^ 256 - 1)) (fLnkDetour_ready e)
     elemAnswer u (partOfElem u) true y = (w, some (ok, d))) → selfPos w = selfPos s →
    ∃ t, exec (.detourRegister e v [y]) s = .next t ∧
      (ok = true → rb t (fLnkDetour_ready e) = true ∧ rf t (fLnkDetour_digest e) = (Config.detourDigest [d]).toNat) ∧
      (ok = false → rb t (fLnkDetour_err e) = true)) ∧
  (∀ (s : State) (e : Nat) (v : BitVec 256) (elems : List DetourElem), e < 32 → isMember s = false → bits v.toNat 63 1 = 0 →
    exec (.detourRegister e v elems) s = .next (regStoreAt s 0 (offLnkDetour e) v.toNat (2 ^ 256 - 1))) ∧
  (∀ (s : State) (p k b : Nat), isCascade s p = true → isMember s = true → (s.part p).run.isSome = true → (s.part p).inStep = false →
    (s.part p).aborted = false → flitsLeft s p = false → txEmpty s p = true → behind s = [] → routePort s 0 = some b →
    ∃ t, exec (.readyMarker p k (selfPos s)) s = .next t ∧ Mark.ready p k (selfPos s) ∈ (linkPort t b).newMarks ∧
      (t.part p).run = none ∧ (t.part p).ownReady = true) ∧
  (∀ (s : State) (p pos : Nat), isCascade s p = true → pos ≠ selfPos s → isMember s = false → (s.part p).run.isSome = true →
    exec (.readyMarker p (s.part p).step.toNat pos) s =
      .next (tryGo (s.setPart p { s.part p with readyPos := pos :: (s.part p).readyPos }) p)) ∧
  (∀ (s : State) (p k t : Nat), isCascade s p = true → (s.part p).goSeen ≠ some (k, t) →
    isMember s = true ∨ (s.part p).run.isSome = true →
    ∃ u, exec (.goMarker p k t) s = .next u ∧ (u.part p).goAt = some t ∧ (u.part p).goSeen = some (k, t) ∧
      exec (.goMarker p k t) u = .next u) ∧
  (∀ (s : State) (p t : Nat), (s.part p).goAt = some t → t ≤ s.devtime.toNat → (s.part p).run.isSome = true →
    ∃ u, exec (.cascadeStepStart p) s = .next u ∧ (u.part p).inStep = true ∧ (u.part p).m = 0) ∧
  (∀ s : State, rf s fBsePhase_cur = 3 → rb s fLnkCasc_extgo = true → ∃ t, exec .stepMarkerInput s = .next t ∧
    ∀ p < 16, (s.part p).goWait = true → debugHeld s p = false → (s.part p).farDbg = [] → (s.part p).farQuar = false →
      (t.part p).goWait = false ∧
      Instr.goMarker p ((s.part p).step.toNat + 1) (s.devtime.toNat + rf s fLnkCasc_bdelay) ∈ t.pending) ∧
  (∀ (s : State) (b j p : Nat), portOwner s b = some p →
    (∀ n, n = takesAhead (gatewayLane b j).2 (holdLead s p) (s.router (gatewayLane b j).1) → (s.part p).run.isSome = true →
      (s.part p).inStep = true → (s.part p).go = true → rxHeld s b j < n → (∀ w ∈ (s.part p).linkWait, w.1 ≠ 4 * b + j) →
      ∃ t, exec (.linkWaitHold b j) s = .next t ∧ (t.part p).linkWait = (s.part p).linkWait ++
        [(4 * b + j, s.devtime.toNat, tget 0 (linkPort s b).got j + n - rxHeld s b j)]) ∧
    (∀ w ∈ (s.part p).linkWait, w.1 = 4 * b + j → w.2.1 + 10 ^ 7 ≤ s.devtime.toNat →
      exec (.linkWaitTimeout b j) s = .next (failRun s p .timeout)) ∧
    ((s.part p).run.isSome = true → 4 * b + j ∉ (s.part p).linkPause → ∃ t, exec (.linkPause b j) s = .next t ∧
      (t.part p).linkPause = (s.part p).linkPause ++ [4 * b + j]) ∧
    (∃ t, exec (.linkResume b j) s = .next t ∧ 4 * b + j ∉ (t.part p).linkPause))) ∧
  ((∀ s : State, rf s fLnkCasc_topo ≠ 0 → isMember s = false →
    exec .devtimeBroadcast s = .next (floodMark s (.devtime s.devtime.toNat))) ∧
  (∀ (s : State) (t : Nat), isMember s = true → s.links.heard < t → ∃ u, exec (.devtimeMessage t) s = .next u ∧
    u.links.heard = t ∧ (u.devtime = s.devtime ∨ u.devtime = s.devtime + 1) ∧
    (((s.devtime.toNat : Int) - t).natAbs ≤ 2 → u.devtime = s.devtime ∧ u.links.slew = false) ∧
    (5 < ((s.devtime.toNat : Int) - t).natAbs → u.links.slew = true)) ∧
  (∀ (s : State) (t : Nat), isMember s = true → t ≤ s.links.heard → exec (.devtimeMessage t) s = .next s))

/-! Starts, resets and phases. -/

/-- R14, R367 to R370, R372, R385, R386: power-on and PERST_N clear the cores, partitions, queues and device memory and keep the
host's memory, the defect list and the audit log; below power-on DEVTIME goes on. The release of PERST_N samples the straps and
begins with STARTER; a stage that ends gives way to the next, one that reports a cause or passes its limit ends the start in FAILED,
or in RECOVERY where no image authenticates; from the end of BASE host writes act. A member restarts once every image is written.
R382, R384 to R386, R403: the sideband phase changes after a guard interval, by the changes allowed from it; any other request sets
err. A provisioning member counts each image that authenticates and restarts after the last; a recovery image that authenticates
sets ok. It rests in part on the model's readings in log entry 67. -/
def Obligations.StartsResetsPhases : Prop :=
  ((∀ s : State, ∃ t, exec .powerOn s = .next t ∧ t.devtime = 0 ∧ t.cores = [] ∧ t.parts = [] ∧ t.queues = [] ∧ t.mem = [] ∧
    t.hostMem = s.hostMem ∧ t.errs.defects = s.errs.defects ∧ t.aud.wseq = s.aud.wseq) ∧
  (∀ (s : State) (orderly : Bool), s.boot.perst = false → ∃ t, exec (.perstNAssert orderly) s = .next t ∧ t.devtime = s.devtime ∧
    t.cores = [] ∧ t.parts = [] ∧ t.queues = [] ∧ t.mem = [] ∧ t.hostMem = s.hostMem ∧ t.errs.defects = s.errs.defects ∧
    t.boot.perst = true ∧ t.boot.orderly = orderly ∧ rb t fBseBoot_dirty = !orderly) ∧
  (∀ (s : State) (pos : Nat) (master fast saved : Bool), s.boot.perst = true → pos < 64 →
    ∃ t, exec (.perstNRelease pos master fast saved) s = .next t ∧ rf t fBseStrap_pos = pos ∧ rb t fBseStrap_role = master ∧
      rb t fBseStrap_fast = fast ∧ rb t fBseStrap_agree = (decide (pos = 0) == master) ∧ selfPos t = pos ∧
      rb t fLnkCasc_master = master ∧ rf t fBseBoot_stage = 1 ∧ t.boot.perst = false ∧ t.boot.start = s.devtime.toNat) ∧
  (∀ s : State, 0 < s.boot.images → ∃ t, exec .selfRestart s = .next t ∧ rf t fBseBoot_stage = 1 ∧ t.cores = [] ∧ t.mem = [] ∧
    t.devtime = s.devtime) ∧
  (∀ (s : State) (rep : StageRep), 1 ≤ rf s fBseBoot_stage → rf s fBseBoot_stage ≤ 9 →
    (2 ≤ rep.err → rep.err ≤ 7 → ∃ t, exec (.stageAdvance rep) s = .next t ∧ rf t fBseBoot_stage = 0xF ∧
      rf t fBseBoot_err = rep.err ∧ rf t fBseBoot_fstage = rf s fBseBoot_stage) ∧
    (rep.err = 1 → ∃ t, exec (.stageAdvance rep) s = .next t ∧ rf t fBseBoot_stage = 0xE) ∧
    (∀ copies, rep.err = 0 → rep.units = [] → rep.images = [copies] → rf s fBseBoot_stage = 1 →
      ((∃ x ∈ copies.take 2, imageOk s 0 x = true) → ∃ t, exec (.stageAdvance rep) s = .next t ∧ rf t fBseBoot_stage = 2) ∧
      ((∀ x ∈ copies.take 2, imageOk s 0 x = false) → ∃ t, exec (.stageAdvance rep) s = .next t ∧ rf t fBseBoot_stage = 0xE ∧
        rf t fBseBoot_err = 1)) ∧
    (rep.err = 0 → rep.units = [] → rf s fBseBoot_stage = 7 ∨ rf s fBseBoot_stage = 8 →
      ∃ t, exec (.stageAdvance rep) s = .next t ∧ rf t fBseBoot_stage = rf s fBseBoot_stage + 1) ∧
    (rep.err = 0 → rep.units = [] → rf s fBseBoot_stage = 3 → ∃ t, exec (.stageAdvance rep) s = .next t ∧
      rf t fBseBoot_stage = 4 ∧ rb t fBseBoot_cmd = true ∧ t.aud.live = true)) ∧
  (∀ s : State, 1 ≤ rf s fBseBoot_stage → rf s fBseBoot_stage ≤ 9 → rf s fBseBoot_stage ≠ 5 →
    (s.boot.start + stageLimit (rf s fBseBoot_stage) * 10 ^ 6 ≤ s.devtime.toNat → ∃ t, exec .stageTimeout s = .next t ∧
      rf t fBseBoot_stage = 0xF ∧ rf t fBseBoot_err = 2) ∧
    (s.devtime.toNat < s.boot.start + stageLimit (rf s fBseBoot_stage) * 10 ^ 6 → exec .stageTimeout s = .next s))) ∧
  ((∀ (s : State) (req : Nat) (casc : Bool), 1 ≤ req → req ≤ 3 →
    (phaseMay s req = true → ∃ t, exec (.phaseRequest req casc) s = .next t ∧ rf t fBsePhase_cur = 1 ∧ t.boot.phaseTo = req ∧
      t.boot.phaseAt = s.devtime.toNat + 100000) ∧
    (phaseMay s req = false → ∃ t, exec (.phaseRequest req casc) s = .next t ∧ rb t fBsePhase_err = true ∧
      rf t fBsePhase_cur = rf s fBsePhase_cur)) ∧
  (∀ s : State, rf s fBsePhase_cur = 1 → (s.boot.phaseAt ≤ s.devtime.toNat → ∃ t, exec .phaseChangeComplete s = .next t ∧
      rf t fBsePhase_cur = s.boot.phaseTo % 4) ∧
    (s.devtime.toNat < s.boot.phaseAt → exec .phaseChangeComplete s = .next s)) ∧
  (∀ (s : State) (p : Nat) (img : Image) (last : Bool), (linkPort s p).provision = true → portUp s p = true →
    (isMember s = true → imageOk s img.kind img = true → ∃ t, exec (.firmwareTransfer p img last) s = .next t ∧
      t.boot.images = s.boot.images + 1 ∧ t.pending = s.pending ++ if last then [.selfRestart] else []) ∧
    (isMember s = true → imageOk s img.kind img = false → exec (.firmwareTransfer p img last) s = .next (portDown s p 6)) ∧
    (isMember s = false → imageOk s img.kind img = true →
      exec (.firmwareTransfer p img last) s = .next (wf s fBseFwdist_busy (bit (!last))))) ∧
  (∀ (s : State) (v : BitVec 32) (imgs : List Image), rf s fBseBoot_stage = 0xE → rb s fBseRecov_busy = false →
    ∃ t, exec (.recoveryInstall v imgs) s = .next t ∧ rb t fBseRecov_busy = false ∧
      (recoveryOk s (bits v.toNat 26 2) imgs = true → rb t fBseRecov_ok = true) ∧
      (recoveryOk s (bits v.toNat 26 2) imgs = false → rb t fBseRecov_err = true)))

/-! Power, clocks and temperature. -/

/-- R351 to R353, R358, R360 to R362, R397: a measured interval enters the history and the load, ten intervals above 1,575 W trip
the device, and the average above the limit takes one clock step from the next partition, given back 10 ms after it has been 50 W
below. Both power-fail inputs, or their difference for 1,000 samples, or the loss of REFCLK have the device act on failing power; a
shorter difference is counted; a relay seen stops the cascade. R342 to R344: the smallest slack of each domain is kept; a re-plan,
daily or asked for, writes a day into the ledger of each domain and starts the slack afresh. It rests in part on the model's
readings in log entry 28. -/
def Obligations.PowerAndCave : Prop :=
  ((∀ (s : State) (doms : List Nat) (losses : Nat) (parts : List Nat),
    let total := doms.foldl (· + ·) 0 + losses
    (total ≤ 1575000 → ∃ t, exec (.powerMeasure doms losses parts) s = .next t ∧ t.pwr.hist = (total :: s.pwr.hist).take 100 ∧
      t.pwr.load = total - min 800000 (s.pwr.floor - s.pwr.load) ∧ t.pwr.floor = max s.pwr.floor t.pwr.load ∧ t.pwr.above = 0) ∧
    (1575000 < total → 9 ≤ s.pwr.above → ∃ t, exec (.powerMeasure doms losses parts) s = .next t ∧ t.pwr.tripped = true)) ∧
  (∀ (s : State) (p : Nat), let avg := s.pwr.hist.foldl (· + ·) 0 / s.pwr.hist.length
    s.pwr.hist ≠ [] →
    (capLimitMw s < avg → s.pwr.cuts = [] → capVictim s = some p → ∃ t, exec .powerCapCheck s = .next t ∧ t.pwr.cuts = [p] ∧
      (t.part p).capLim = (s.part p).capLim + 1) ∧
    (∀ t0 r, avg + 50000 ≤ capLimitMw s → s.pwr.lowAt = some t0 → t0 + 10 ^ 7 ≤ s.devtime.toNat → s.pwr.cuts = p :: r →
      ∃ t, exec .powerCapCheck s = .next t ∧ t.pwr.cuts = r ∧ (t.part p).capLim = (s.part p).capLim - 1)) ∧
  (∀ (s : State) (a b : Bool), exec (.pfailDecide a b) s =
    (let u := wf (wf s fPwrPfstat_a (bit a)) fPwrPfstat_b (bit b)
     .next (if a || b then powerFail u else u))) ∧
  (∀ s : State, ∃ t, exec .pfailDiscrepancyEnd s = .next t ∧ rb t fPwrPfstat_a = false ∧ rb t fPwrPfstat_b = false ∧
    rf t fPwrPfstat_disc = min (2 ^ fPwrPfstat_disc.w - 1) (rf s fPwrPfstat_disc + 1)) ∧
  (∀ s : State, powerFailed s = false → rf s fBsePhase_cur = 3 → ∃ t, exec .relaySeen s = .next t ∧ rf t fPwrPfstat_state = 2) ∧
  (∀ s : State, ∃ u, exec .refclkLoss s = .next (powerFail u) ∧ rb u fBsePinstat_refloss = true) ∧
  (∀ s : State, powerFailed s = false → (powerFail s).pwr.floor = 0 ∧ ∀ p < 16, ((powerFail s).part p).run = none)) ∧
  ((∀ (s : State) (slacks : List Nat), ∃ t, exec (.pathMonitorSample slacks) s = .next t ∧ ∀ d < 100,
    rf t (fMrgDom_smin d) = match slacks[d]? with
      | some x => min x (rf s (fMrgDom_smin d))
      | none => rf s (fMrgDom_smin d)) ∧
  (∀ (s : State) (slacks : List Nat), rb s fMrgStat_busy = true ∨ s.pwr.cave.day < rf s fMrgStat_opsec / 86400 →
    ∃ t, exec (.caveReplan slacks) s = .next t ∧ rb t fMrgStat_busy = false ∧ rb t fMrgStat_replan = false ∧
      t.pwr.cave.day = rf s fMrgStat_opsec / 86400 ∧ ∀ d < 100, rf t (fMrgDom_smin d) = 0xFFFF ∧
        ∃ y, (tget [] t.pwr.cave.ledger d).getLast? = some y ∧ y.day = rf s fMrgStat_opsec / 86400 ∧ y.smin = rf s (fMrgDom_smin d)) ∧
  (∀ s : State, rb s fMrgStat_busy = false → ∃ t, exec .caveReplanRequest s = .next t ∧ rb t fMrgStat_busy = true ∧
    rb t fMrgStat_replan = true))

/-- R354 to R358, R366, R402: a sensor's first valid sample sets its node's estimate; one that fails its check or leaves its range
breaks the sensor, and the first eight after a wake are passed over. Each tick of the model takes the network's values; telemetry
streams selectors 0 and 1 while the pins are in SERVICE. It rests in part on the model's readings in log entry 16. -/
def Obligations.TemperaturesAreWatched : Prop :=
  (∀ (s : State) (n : Nat) (t : Int) (ok : Bool), n < 368 → (thmNode s n).alone = false → rb s (fThmNode_brk n) = false →
    (0 < (thmNode s n).skip → ∃ u, exec (.sensorSample n t ok) s = .next u ∧ (thmNode u n).skip = (thmNode s n).skip - 1 ∧
      u.regs = s.regs) ∧
    ((thmNode s n).skip = 0 → ok = false ∨ t < -5120 ∨ 19200 < t → exec (.sensorSample n t ok) s = .next (sensorBreak s n)) ∧
    ((thmNode s n).skip = 0 → ok = true → -5120 ≤ t → t ≤ 19200 → nodeValid s n = false →
      ∃ u, exec (.sensorSample n t ok) s = .next u ∧ nodeEst u n = t ∧ nodeValid u n = true)) ∧
  (∀ (s : State) (net : List Int), ∃ u, exec (.thermalModelTick net) s = .next u ∧
    ∀ n < 376, (thmNode u n).net = (net[n]?).getD 0) ∧
  (∀ s : State, rf s fBsePhase_cur = 3 → ∃ u, exec .telemetryStream s = .next u ∧ u.pwr.stream.length = 2340 ∧ u.regs = s.regs) ∧
  (∀ s : State, rf s fBsePhase_cur ≠ 3 → exec .telemetryStream s = .next s)

/-- R347, R348, R365: power domains. A demand wakes a domain from IDLE or OFF, with its uncore for a compute domain; when the wake
ends it is ON and what waited goes on; a state asked for under Table 13-2, or IDLE after the idle time, is entered once the trace of
its clusters has been written. It rests in part on the model's readings in log entries 30, 54. -/
def Obligations.DomainsSleepAndWake : Prop :=
  (∀ (s : State) (d : Nat), d < 100 → domState s d = 0 → exec (.domainWake d) s = .next s) ∧
  (∀ (s : State) (d : Nat), d < 100 → domState s d = 1 ∨ domState s d = 2 → ∃ t, exec (.domainWake d) s = .next t ∧ domState t d = 3 ∧
    tfind t.pwr.doms d = some { target := 0, waking := true, from' := domState s d, since := s.devtime.toNat } ∧
    (d < 64 → Instr.domainWake (64 + d / 16) ∈ t.pending)) ∧
  (∀ (s : State) (d : Nat) (x : Dom), d < 100 → tfind s.pwr.doms d = some x → x.waking = true →
    (d < 64 → domState s (64 + d / 16) = 0) → ∃ t, exec (.domainWakeComplete d) s = .next t ∧ domState t d = 0 ∧
      tfind t.pwr.doms d = none ∧ t.waiting = []) ∧
  (∀ (s : State) (d : Nat) (x : Dom), d < 100 → tfind s.pwr.doms d = some x → x.waking = false → x.again = false →
    x.target < 3 → traceQuiet s (domClusters d) = true → ∃ t, exec (.domainEntryComplete d) s = .next t ∧ domState t d = x.target ∧
      tfind t.pwr.doms d = none) ∧
  (∀ (s : State) (d : Nat), rb s (fPwrDomctl_auto d) = true → domAllows d 1 = true → domMay s d 1 = true → domState s d = 0 →
    tget 0 s.pwr.used d + rf s (fPwrDomctl_idle d) * 1000 ≤ s.devtime.toNat → exec (.domainAutoIdle d) s = .next (domEnter s d 1)) ∧
  (∀ (s : State) (d st : Nat), d < 100 → 1 ≤ st → st ≤ 2 → domAllows d st = true → domMay s d st = true → domState s d = 0 →
    ∃ u, exec (.domainStateRequest d st) s = .next (domEnter u d st) ∧ rf u (fPwrDomctl_req d) = st ∧ domState u d = 0) ∧
  (∀ (s : State) (cl : Nat), rb s (fTrcCtl_en cl) = true → 512 ≤ (s.traceBuf cl).recs.length →
    (traceRing s cl = none → s.met.sw = [] → ∃ t, exec (.traceFlush cl) s = .next t ∧ rb t (fTrcStat_derr cl) = true ∧
      rb t (fTrcCtl_en cl) = false) ∧
    (∀ a n q, traceRing s cl = some (a, n, q) → cl < 512 → (s.traceBuf cl).lost = 0 →
      (∀ off < n, off % 16 = 0 → ScratchServes s q (a + off) 16) →
      ∃ t, exec (.traceFlush cl) s = .next t ∧ (t.traceBuf cl).recs = [] ∧
        rf t (fTrcStat_wptr cl) = (rf s (fTrcStat_wptr cl) + (s.traceBuf cl).recs.length) % 2 ^ (fTrcStat_wptr cl).w) ∧
    (∀ a n q, traceRing s cl = some (a, n, q) →
      ((traceWrite s cl a n q (s.traceBuf cl).recs).traceBuf cl).lost = 0 →
      exec (.traceFlush cl) s = .next (traceWrite s cl a n q (s.traceBuf cl).recs)))

/-! Security, audit and debug. -/

/-- R298 to R300: Rind answers from the end of RIND to READY. A session is opened while fewer than 17 are open, a further one is told
Busy, and it is ended by its requester or by the loss of three heartbeats, and its owners with it; a message that needs a session is
refused without one; measurements, challenges and quotes carry a signature under Rind's keys, and a stream's key is one of Rind's own;
certificates, versions, capabilities, algorithms, key updates and interface reports are answered. R301, R304: TDI states. LOCK of an
assigned, stopped partition that is unlocked makes the session its owner and the partition confidential, with debug and trace off;
START of a locked one runs it; STOP ends the owner, or takes a partition out of ERROR; only the owner's session sets its policy. It
rests in part on the model's readings in log entries 5, 6, 45, 92. -/
def Obligations.SessionsAndInterfaces : Prop :=
  (∀ (s : State) (sid : Nat), spdmUp s = true →
    (∀ tr, sessionOpen s sid = false → s.sec.sessions.length < 17 → ∃ t, exec (.keyExchange ⟨sid, tr⟩) s = .next t ∧
      Answers t sid true (fun r => r.sig = aliasSign s false (digestBytes tr)) ∧
      t.sec.sessions = s.sec.sessions ++ [{ id := sid, seen := s.devtime.toNat, key := s.keyCount, transcript := tr }]) ∧
    (∀ tr, 17 ≤ s.sec.sessions.length → ∃ t, exec (.keyExchange ⟨sid, tr⟩) s = .next t ∧
      Answers t sid false (fun r => r.body = .busy) ∧ t.sec.sessions = s.sec.sessions) ∧
    (∀ tr, sessionOpen s sid = true → ∃ t, exec (.keyExchange ⟨sid, tr⟩) s = .next t ∧ Answers t sid false (fun _ => True) ∧
      t.sec.sessions = s.sec.sessions) ∧
    (sessionOpen s sid = true → ownedBy s sid = [] → ∃ t, exec (.endSession sid) s = .next t ∧ Answers t sid true (fun _ => True) ∧
      sessionOpen t sid = false) ∧
    (sessionOpen s sid = false → ∃ t, exec (.endSession sid) s = .next t ∧ Answers t sid false (fun _ => True) ∧
      t.sec.sessions = s.sec.sessions) ∧
    (∀ x ∈ s.sec.sessions, x.id = sid → x.seen + 30 * 10 ^ 9 ≤ s.devtime.toNat →
      exec (.heartbeatLoss sid) s = .next (sessionEnd s sid)) ∧
    ((∀ x ∈ s.sec.sessions, x.id = sid → s.devtime.toNat < x.seen + 30 * 10 ^ 9) → exec (.heartbeatLoss sid) s = .next s) ∧
    (sessionOpen s sid = true → ∃ t, exec (.heartbeat sid) s = .next t ∧ Answers t sid true (fun _ => True) ∧
      ∀ x ∈ t.sec.sessions, x.id = sid → x.seen = s.devtime.toNat) ∧
    (∀ i, (1 ≤ i ∧ i ≤ 6) ∨ (16 ≤ i ∧ i < 48) → ∃ t, exec (.getMeasurements sid (.measurements i)) s = .next t ∧
      Answers t sid true fun r => r.blocks = [(i, measBlock s i)] ∧ r.sig = aliasSign s false (digestBytes (measBlock s i))) ∧
    (∀ nonce : BitVec 256, ∃ t, exec (.getMeasurements sid (.challenge 0 nonce)) s = .next t ∧
      Answers t sid true fun r => r.sig = aliasSign s false (bytesOf 32 nonce.toNat)) ∧
    (∃ t, exec (.getMeasurements sid (.certificate 0)) s = .next t ∧
      Answers t sid true fun r => r.body = .certs (certChain s false)) ∧
    (∃ t, exec (.getMeasurements sid .version) s = .next t ∧ Answers t sid true fun r => r.body = .version 1 3) ∧
    (∃ t, exec (.getMeasurements sid .capabilities) s = .next t ∧ Answers t sid true fun r =>
      r.body = .capabilities [.cert, .chal, .meas, .keyEx, .encrypt, .mac, .keyUpd, .hbeat, .chunk]) ∧
    (∃ t, exec (.getMeasurements sid .algorithms) s = .next t ∧ Answers t sid true fun r =>
      r.body = .algorithms [.ecdsaP384, .sha384, .ecdheSecp384r1, .aes256Gcm]) ∧
    (sessionOpen s sid = true →
      (∃ t, exec (.getMeasurements sid .keyUpdate) s = .next t ∧ Answers t sid true (fun _ => True) ∧
        t.sec.sessions = s.sec.sessions.map fun x => if x.id = sid then { x with gen := x.gen + 1 } else x) ∧
      (∀ n r, tfind s.sec.reports n = some r → ∃ t, exec (.getMeasurements sid (.interfaceReport n)) s = .next t ∧
        Answers t sid true fun y => y.body = .report r) ∧
      (∀ n, ∃ t, exec (.getMeasurements sid (.interfaceState n)) s = .next t ∧
        Answers t sid true fun y => y.body = .tdi (tdiOf s n)) ∧
      (∃ t, exec (.pqQuote sid) s = .next t ∧ Answers t sid true fun r => r.blocks.map (·.1) = [1, 2, 3, 4, 5, 6] ∧
        r.body = .certs (certChain s true) ∧ r.sig.isSome = s.sec.keys.isSome) ∧
      ∀ n < 17, ∃ t, exec (.ideKm sid n) s = .next t ∧ Answers t sid true (fun _ => True) ∧
        tfind t.sec.ide n = some s.keyCount ∧ t.keyCount = s.keyCount + 1)) ∧
  (∀ (s : State) (sid n : Nat), spdmUp s = true → sessionOpen s sid = true → n < 16 →
    (tdiOf s n = 0 → assigned s n = true → stopped s n = true → ∃ t, exec (.lockInterfaceRequest sid n) s = .next t ∧
      tdiOf t n = 1 ∧ rb t (fSecPbind_conf n) = true ∧ rb t (fSecPbind_dbg n) = false ∧ rb t (fSecPbind_trc n) = false ∧
      tfind t.sec.owners n = some sid) ∧
    (tdiOf s n = 1 → tfind s.sec.owners n = some sid → ∃ t, exec (.startInterfaceRequest sid n) s = .next t ∧ tdiOf t n = 2) ∧
    (tdiOf s n ≠ 3 → tfind s.sec.owners n = some sid → exec (.stopInterfaceRequest sid n) s =
      .next (doeOk (ownerEnd s n none 0) sid true)) ∧
    (tdiOf s n = 3 → ∃ t, exec (.stopInterfaceRequest sid n) s = .next t ∧ tdiOf t n = 0) ∧
    (∀ dbg trc, tfind s.sec.owners n = some sid → ∃ t, exec (.setPolicy sid n dbg trc) s = .next t ∧
      rb t (fSecPbind_dbg n) = dbg ∧ rb t (fSecPbind_trc n) = trc) ∧
    (∀ dbg trc, tfind s.sec.owners n ≠ some sid → ∃ t, exec (.setPolicy sid n dbg trc) s = .next t ∧
      rb t (fSecPbind_dbg n) = rb s (fSecPbind_dbg n) ∧ rb t (fSecPbind_trc n) = rb s (fSecPbind_trc n)))

/-- R312 to R316: an entry of the audit log lies in the ring at its number modulo 65,536 and joins the chain; the read pointer stays
between the oldest entry held and the next number; a full checkpoint seals 4,096 entries over the hash of the one before. It rests
in part on the model's readings in log entry 42. -/
def Obligations.AuditLogKeepsEntries : Prop :=
  (∀ (s : State) (e : AEnt), s.aud.live = true → s.aud.gap = none → s.aud.wseq - s.aud.rd < 65536 →
    let t := audit s e
    let w := e.word s.aud.wseq (e.time.getD (s.aud.stamp.getD s.devtime.toNat))
    t.aud.wseq = s.aud.wseq + 1 ∧ t.aud.buf = s.aud.buf ++ [w] ∧
    memRead t.mem (scrBase + s.aud.wseq % 65536 * 64) 64 = w.toNat ∧
    (∀ a, a < scrBase + s.aud.wseq % 65536 * 64 ∨ scrBase + s.aud.wseq % 65536 * 64 + 64 ≤ a → memGet t.mem a = memGet s.mem a)) ∧
  (∀ (s : State) (v : BitVec 64), oldestHeld s ≤ s.aud.wseq → ∃ t, exec (.auditReadPointerWrite v) s = .next t ∧
    oldestHeld s ≤ t.aud.rd ∧ t.aud.rd ≤ s.aud.wseq ∧
    (oldestHeld s ≤ v.toNat → v.toNat ≤ s.aud.wseq → t.aud.rd = v.toNat)) ∧
  (∀ (s : State) (k : Nat), 4096 ≤ s.aud.buf.length → (s.aud.wseq - s.aud.buf.length) / 4096 = k →
    let h := sha384 (digestBytes s.aud.h ++ (s.aud.buf.take 4096).flatMap fun e => bytesOf 64 e.toNat)
    ∃ t, exec (.checkpointSeal k true) s = .next t ∧ t.aud.h = h ∧ t.aud.buf = s.aud.buf.drop 4096 ∧
      t.aud.done = s.aud.wseq - (s.aud.buf.length - 4096) - 1 ∧
      ∃ n c, tfind t.aud.ckpts n = some c ∧ c.h = h ∧ c.prev = s.aud.h ∧ c.part = false) ∧
  (∀ (s : State) (k : Nat), ∃ t, exec (.checkpointSelect k) s = .next t ∧ rf t fAudStat_cksel = k % 2048 ∧ t.aud.ready = true)

/-- R49, R118, R119, R304: debug. A halt and a resume mark the core's debug hold; a step lets a held partition run one core cycle; a core of a confidential partition whose owner does not allow debug is not reached; a register of a stopped core is
written through its selector, and the generator's state is written at once, zero as one. It rests in part on the model's readings in
log entry 40. -/
def Obligations.DebugReachesCores : Prop :=
  ∀ (s : State) (c : Nat), c < 16384 →
    (debugBarred s c = false → ∃ t, exec (.debugHalt c) s = .next t ∧ (t.core c).dbg = true ∧ (t.core c).sregs = (s.core c).sregs) ∧
    (debugBarred s c = true → ∃ t, exec (.debugHalt c) s = .next t ∧ t.cores = s.cores) ∧
    (∃ t, exec (.debugResume c) s = .next t ∧ (t.core c).dbg = false ∧ (t.core c).sregs = (s.core c).sregs) ∧
    (∀ p, debugBarred s c = false → corePart s c = some p → (s.part p).held = true → debugHeld s p = true →
      ∃ t, exec (.debugStep c) s = .next t ∧ (t.part p).single = true ∧ t.cores = s.cores) ∧
    (∀ v : BitVec 64, dbgOpen s c = true → rf s (fCoreDbgsel_sel c) < 0x20 → ∃ t, exec (.debugDataWrite c v) s = .next t ∧
      (t.core c).s (rf s (fCoreDbgsel_sel c)) = v ∧
      ∀ n, n ≠ rf s (fCoreDbgsel_sel c) → (t.core c).s n = (s.core c).s n) ∧
    (∀ v : BitVec 64, dbgOpen s c = false → exec (.debugDataWrite c v) s = .next s) ∧
    (∀ v : BitVec 32, ∃ t, exec (.srstateWrite c v) s = .next t ∧ rf t (fCoreSrstate_state c) = max 1 v.toNat ∧ t.cores = s.cores)
end

