-- ==== Sys2Proof/Laws/State.lean ====
section
/-! SUPPORT. What each update of the state leaves alone: one lemma a field and update, by definition. -/
namespace Sys2Proof.Machine

@[simp] theorem State.setReg_pending (s : State) (off : Nat) (v : BitVec 256) : (s.setReg off v).pending = s.pending := rfl
@[simp] theorem State.setReg_mem (s : State) (off : Nat) (v : BitVec 256) : (s.setReg off v).mem = s.mem := rfl
@[simp] theorem State.setReg_psn (s : State) (off : Nat) (v : BitVec 256) : (s.setReg off v).psn = s.psn := rfl
@[simp] theorem State.setReg_cores (s : State) (off : Nat) (v : BitVec 256) : (s.setReg off v).cores = s.cores := rfl
@[simp] theorem State.setReg_latches (s : State) (off : Nat) (v : BitVec 256) : (s.setReg off v).latches = s.latches := rfl
@[simp] theorem State.setReg_banks (s : State) (off : Nat) (v : BitVec 256) : (s.setReg off v).banks = s.banks := rfl
@[simp] theorem State.setReg_routers (s : State) (off : Nat) (v : BitVec 256) : (s.setReg off v).routers = s.routers := rfl
@[simp] theorem State.setReg_parts (s : State) (off : Nat) (v : BitVec 256) : (s.setReg off v).parts = s.parts := rfl
@[simp] theorem State.setReg_dmas (s : State) (off : Nat) (v : BitVec 256) : (s.setReg off v).dmas = s.dmas := rfl
@[simp] theorem State.setReg_gwTx (s : State) (off : Nat) (v : BitVec 256) : (s.setReg off v).gwTx = s.gwTx := rfl
@[simp] theorem State.setReg_queues (s : State) (off : Nat) (v : BitVec 256) : (s.setReg off v).queues = s.queues := rfl
@[simp] theorem State.setReg_engines (s : State) (off : Nat) (v : BitVec 256) : (s.setReg off v).engines = s.engines := rfl
@[simp] theorem State.setReg_msix (s : State) (off : Nat) (v : BitVec 256) : (s.setReg off v).msix = s.msix := rfl
@[simp] theorem State.setReg_errs (s : State) (off : Nat) (v : BitVec 256) : (s.setReg off v).errs = s.errs := rfl
@[simp] theorem State.setReg_trace (s : State) (off : Nat) (v : BitVec 256) : (s.setReg off v).trace = s.trace := rfl
@[simp] theorem State.setReg_nears (s : State) (off : Nat) (v : BitVec 256) : (s.setReg off v).nears = s.nears := rfl
@[simp] theorem State.setReg_fars (s : State) (off : Nat) (v : BitVec 256) : (s.setReg off v).fars = s.fars := rfl
@[simp] theorem State.setReg_slices (s : State) (off : Nat) (v : BitVec 256) : (s.setReg off v).slices = s.slices := rfl
@[simp] theorem State.setReg_scrOld (s : State) (off : Nat) (v : BitVec 256) : (s.setReg off v).scrOld = s.scrOld := rfl
@[simp] theorem State.setReg_walk (s : State) (off : Nat) (v : BitVec 256) : (s.setReg off v).walk = s.walk := rfl
@[simp] theorem State.setReg_nearCal (s : State) (off : Nat) (v : BitVec 256) : (s.setReg off v).nearCal = s.nearCal := rfl
@[simp] theorem State.setReg_farCal (s : State) (off : Nat) (v : BitVec 256) : (s.setReg off v).farCal = s.farCal := rfl
@[simp] theorem State.setReg_hbmOk (s : State) (off : Nat) (v : BitVec 256) : (s.setReg off v).hbmOk = s.hbmOk := rfl
@[simp] theorem State.setReg_inlet (s : State) (off : Nat) (v : BitVec 256) : (s.setReg off v).inlet = s.inlet := rfl
@[simp] theorem State.setReg_ftPend (s : State) (off : Nat) (v : BitVec 256) : (s.setReg off v).ftPend = s.ftPend := rfl
@[simp] theorem State.setReg_lineKey (s : State) (off : Nat) (v : BitVec 256) : (s.setReg off v).lineKey = s.lineKey := rfl
@[simp] theorem State.setReg_slotKey (s : State) (off : Nat) (v : BitVec 256) : (s.setReg off v).slotKey = s.slotKey := rfl
@[simp] theorem State.setReg_keyCount (s : State) (off : Nat) (v : BitVec 256) : (s.setReg off v).keyCount = s.keyCount := rfl
@[simp] theorem State.setReg_host (s : State) (off : Nat) (v : BitVec 256) : (s.setReg off v).host = s.host := rfl
@[simp] theorem State.setReg_hostMem (s : State) (off : Nat) (v : BitVec 256) : (s.setReg off v).hostMem = s.hostMem := rfl
@[simp] theorem State.setReg_hostPsn (s : State) (off : Nat) (v : BitVec 256) : (s.setReg off v).hostPsn = s.hostPsn := rfl
@[simp] theorem State.setReg_asks (s : State) (off : Nat) (v : BitVec 256) : (s.setReg off v).asks = s.asks := rfl
@[simp] theorem State.setReg_met (s : State) (off : Nat) (v : BitVec 256) : (s.setReg off v).met = s.met := rfl
@[simp] theorem State.setReg_msgs (s : State) (off : Nat) (v : BitVec 256) : (s.setReg off v).msgs = s.msgs := rfl
@[simp] theorem State.setReg_upsets (s : State) (off : Nat) (v : BitVec 256) : (s.setReg off v).upsets = s.upsets := rfl
@[simp] theorem State.setReg_askTag (s : State) (off : Nat) (v : BitVec 256) : (s.setReg off v).askTag = s.askTag := rfl
@[simp] theorem State.setReg_rsp (s : State) (off : Nat) (v : BitVec 256) : (s.setReg off v).rsp = s.rsp := rfl
@[simp] theorem State.setReg_ctlq (s : State) (off : Nat) (v : BitVec 256) : (s.setReg off v).ctlq = s.ctlq := rfl
@[simp] theorem State.setReg_linkTx (s : State) (off : Nat) (v : BitVec 256) : (s.setReg off v).linkTx = s.linkTx := rfl
@[simp] theorem State.setReg_links (s : State) (off : Nat) (v : BitVec 256) : (s.setReg off v).links = s.links := rfl
@[simp] theorem State.setReg_outReqs (s : State) (off : Nat) (v : BitVec 256) : (s.setReg off v).outReqs = s.outReqs := rfl
@[simp] theorem State.setReg_waiting (s : State) (off : Nat) (v : BitVec 256) : (s.setReg off v).waiting = s.waiting := rfl
@[simp] theorem State.setReg_qos (s : State) (off : Nat) (v : BitVec 256) : (s.setReg off v).qos = s.qos := rfl
@[simp] theorem State.setReg_sec (s : State) (off : Nat) (v : BitVec 256) : (s.setReg off v).sec = s.sec := rfl
@[simp] theorem State.setReg_aud (s : State) (off : Nat) (v : BitVec 256) : (s.setReg off v).aud = s.aud := rfl
@[simp] theorem State.setReg_pwr (s : State) (off : Nat) (v : BitVec 256) : (s.setReg off v).pwr = s.pwr := rfl
@[simp] theorem State.setReg_ring (s : State) (off : Nat) (v : BitVec 256) : (s.setReg off v).ring = s.ring := rfl
@[simp] theorem State.setReg_boot (s : State) (off : Nat) (v : BitVec 256) : (s.setReg off v).boot = s.boot := rfl
@[simp] theorem State.setReg_rjobs (s : State) (off : Nat) (v : BitVec 256) : (s.setReg off v).rjobs = s.rjobs := rfl
@[simp] theorem State.setReg_ftests (s : State) (off : Nat) (v : BitVec 256) : (s.setReg off v).ftests = s.ftests := rfl
@[simp] theorem State.setReg_fwd (s : State) (off : Nat) (v : BitVec 256) : (s.setReg off v).fwd = s.fwd := rfl
@[simp] theorem State.setReg_lastQ (s : State) (off : Nat) (v : BitVec 256) : (s.setReg off v).lastQ = s.lastQ := rfl
@[simp] theorem State.setReg_devtime (s : State) (off : Nat) (v : BitVec 256) : (s.setReg off v).devtime = s.devtime := rfl
@[simp] theorem State.setReg_half (s : State) (off : Nat) (v : BitVec 256) : (s.setReg off v).half = s.half := rfl
@[simp] theorem State.setReg_free (s : State) (off : Nat) (v : BitVec 256) : (s.setReg off v).free = s.free := rfl

@[simp] theorem State.setCore_pending (s : State) (c : Nat) (k : Core) : (s.setCore c k).pending = s.pending := rfl
@[simp] theorem State.setCore_regs (s : State) (c : Nat) (k : Core) : (s.setCore c k).regs = s.regs := rfl
@[simp] theorem State.setCore_mem (s : State) (c : Nat) (k : Core) : (s.setCore c k).mem = s.mem := rfl
@[simp] theorem State.setCore_psn (s : State) (c : Nat) (k : Core) : (s.setCore c k).psn = s.psn := rfl
@[simp] theorem State.setCore_latches (s : State) (c : Nat) (k : Core) : (s.setCore c k).latches = s.latches := rfl
@[simp] theorem State.setCore_banks (s : State) (c : Nat) (k : Core) : (s.setCore c k).banks = s.banks := rfl
@[simp] theorem State.setCore_routers (s : State) (c : Nat) (k : Core) : (s.setCore c k).routers = s.routers := rfl
@[simp] theorem State.setCore_parts (s : State) (c : Nat) (k : Core) : (s.setCore c k).parts = s.parts := rfl
@[simp] theorem State.setCore_dmas (s : State) (c : Nat) (k : Core) : (s.setCore c k).dmas = s.dmas := rfl
@[simp] theorem State.setCore_gwTx (s : State) (c : Nat) (k : Core) : (s.setCore c k).gwTx = s.gwTx := rfl
@[simp] theorem State.setCore_queues (s : State) (c : Nat) (k : Core) : (s.setCore c k).queues = s.queues := rfl
@[simp] theorem State.setCore_engines (s : State) (c : Nat) (k : Core) : (s.setCore c k).engines = s.engines := rfl
@[simp] theorem State.setCore_msix (s : State) (c : Nat) (k : Core) : (s.setCore c k).msix = s.msix := rfl
@[simp] theorem State.setCore_errs (s : State) (c : Nat) (k : Core) : (s.setCore c k).errs = s.errs := rfl
@[simp] theorem State.setCore_trace (s : State) (c : Nat) (k : Core) : (s.setCore c k).trace = s.trace := rfl
@[simp] theorem State.setCore_nears (s : State) (c : Nat) (k : Core) : (s.setCore c k).nears = s.nears := rfl
@[simp] theorem State.setCore_fars (s : State) (c : Nat) (k : Core) : (s.setCore c k).fars = s.fars := rfl
@[simp] theorem State.setCore_slices (s : State) (c : Nat) (k : Core) : (s.setCore c k).slices = s.slices := rfl
@[simp] theorem State.setCore_scrOld (s : State) (c : Nat) (k : Core) : (s.setCore c k).scrOld = s.scrOld := rfl
@[simp] theorem State.setCore_walk (s : State) (c : Nat) (k : Core) : (s.setCore c k).walk = s.walk := rfl
@[simp] theorem State.setCore_nearCal (s : State) (c : Nat) (k : Core) : (s.setCore c k).nearCal = s.nearCal := rfl
@[simp] theorem State.setCore_farCal (s : State) (c : Nat) (k : Core) : (s.setCore c k).farCal = s.farCal := rfl
@[simp] theorem State.setCore_hbmOk (s : State) (c : Nat) (k : Core) : (s.setCore c k).hbmOk = s.hbmOk := rfl
@[simp] theorem State.setCore_inlet (s : State) (c : Nat) (k : Core) : (s.setCore c k).inlet = s.inlet := rfl
@[simp] theorem State.setCore_ftPend (s : State) (c : Nat) (k : Core) : (s.setCore c k).ftPend = s.ftPend := rfl
@[simp] theorem State.setCore_lineKey (s : State) (c : Nat) (k : Core) : (s.setCore c k).lineKey = s.lineKey := rfl
@[simp] theorem State.setCore_slotKey (s : State) (c : Nat) (k : Core) : (s.setCore c k).slotKey = s.slotKey := rfl
@[simp] theorem State.setCore_keyCount (s : State) (c : Nat) (k : Core) : (s.setCore c k).keyCount = s.keyCount := rfl
@[simp] theorem State.setCore_host (s : State) (c : Nat) (k : Core) : (s.setCore c k).host = s.host := rfl
@[simp] theorem State.setCore_hostMem (s : State) (c : Nat) (k : Core) : (s.setCore c k).hostMem = s.hostMem := rfl
@[simp] theorem State.setCore_hostPsn (s : State) (c : Nat) (k : Core) : (s.setCore c k).hostPsn = s.hostPsn := rfl
@[simp] theorem State.setCore_asks (s : State) (c : Nat) (k : Core) : (s.setCore c k).asks = s.asks := rfl
@[simp] theorem State.setCore_met (s : State) (c : Nat) (k : Core) : (s.setCore c k).met = s.met := rfl
@[simp] theorem State.setCore_msgs (s : State) (c : Nat) (k : Core) : (s.setCore c k).msgs = s.msgs := rfl
@[simp] theorem State.setCore_upsets (s : State) (c : Nat) (k : Core) : (s.setCore c k).upsets = s.upsets := rfl
@[simp] theorem State.setCore_askTag (s : State) (c : Nat) (k : Core) : (s.setCore c k).askTag = s.askTag := rfl
@[simp] theorem State.setCore_rsp (s : State) (c : Nat) (k : Core) : (s.setCore c k).rsp = s.rsp := rfl
@[simp] theorem State.setCore_ctlq (s : State) (c : Nat) (k : Core) : (s.setCore c k).ctlq = s.ctlq := rfl
@[simp] theorem State.setCore_linkTx (s : State) (c : Nat) (k : Core) : (s.setCore c k).linkTx = s.linkTx := rfl
@[simp] theorem State.setCore_links (s : State) (c : Nat) (k : Core) : (s.setCore c k).links = s.links := rfl
@[simp] theorem State.setCore_outReqs (s : State) (c : Nat) (k : Core) : (s.setCore c k).outReqs = s.outReqs := rfl
@[simp] theorem State.setCore_waiting (s : State) (c : Nat) (k : Core) : (s.setCore c k).waiting = s.waiting := rfl
@[simp] theorem State.setCore_qos (s : State) (c : Nat) (k : Core) : (s.setCore c k).qos = s.qos := rfl
@[simp] theorem State.setCore_sec (s : State) (c : Nat) (k : Core) : (s.setCore c k).sec = s.sec := rfl
@[simp] theorem State.setCore_aud (s : State) (c : Nat) (k : Core) : (s.setCore c k).aud = s.aud := rfl
@[simp] theorem State.setCore_pwr (s : State) (c : Nat) (k : Core) : (s.setCore c k).pwr = s.pwr := rfl
@[simp] theorem State.setCore_ring (s : State) (c : Nat) (k : Core) : (s.setCore c k).ring = s.ring := rfl
@[simp] theorem State.setCore_boot (s : State) (c : Nat) (k : Core) : (s.setCore c k).boot = s.boot := rfl
@[simp] theorem State.setCore_rjobs (s : State) (c : Nat) (k : Core) : (s.setCore c k).rjobs = s.rjobs := rfl
@[simp] theorem State.setCore_ftests (s : State) (c : Nat) (k : Core) : (s.setCore c k).ftests = s.ftests := rfl
@[simp] theorem State.setCore_fwd (s : State) (c : Nat) (k : Core) : (s.setCore c k).fwd = s.fwd := rfl
@[simp] theorem State.setCore_lastQ (s : State) (c : Nat) (k : Core) : (s.setCore c k).lastQ = s.lastQ := rfl
@[simp] theorem State.setCore_devtime (s : State) (c : Nat) (k : Core) : (s.setCore c k).devtime = s.devtime := rfl
@[simp] theorem State.setCore_half (s : State) (c : Nat) (k : Core) : (s.setCore c k).half = s.half := rfl
@[simp] theorem State.setCore_free (s : State) (c : Nat) (k : Core) : (s.setCore c k).free = s.free := rfl

@[simp] theorem State.setRouter_pending (s : State) (c : Nat) (r : Router) : (s.setRouter c r).pending = s.pending := rfl
@[simp] theorem State.setRouter_regs (s : State) (c : Nat) (r : Router) : (s.setRouter c r).regs = s.regs := rfl
@[simp] theorem State.setRouter_mem (s : State) (c : Nat) (r : Router) : (s.setRouter c r).mem = s.mem := rfl
@[simp] theorem State.setRouter_psn (s : State) (c : Nat) (r : Router) : (s.setRouter c r).psn = s.psn := rfl
@[simp] theorem State.setRouter_cores (s : State) (c : Nat) (r : Router) : (s.setRouter c r).cores = s.cores := rfl
@[simp] theorem State.setRouter_latches (s : State) (c : Nat) (r : Router) : (s.setRouter c r).latches = s.latches := rfl
@[simp] theorem State.setRouter_banks (s : State) (c : Nat) (r : Router) : (s.setRouter c r).banks = s.banks := rfl
@[simp] theorem State.setRouter_parts (s : State) (c : Nat) (r : Router) : (s.setRouter c r).parts = s.parts := rfl
@[simp] theorem State.setRouter_dmas (s : State) (c : Nat) (r : Router) : (s.setRouter c r).dmas = s.dmas := rfl
@[simp] theorem State.setRouter_gwTx (s : State) (c : Nat) (r : Router) : (s.setRouter c r).gwTx = s.gwTx := rfl
@[simp] theorem State.setRouter_queues (s : State) (c : Nat) (r : Router) : (s.setRouter c r).queues = s.queues := rfl
@[simp] theorem State.setRouter_engines (s : State) (c : Nat) (r : Router) : (s.setRouter c r).engines = s.engines := rfl
@[simp] theorem State.setRouter_msix (s : State) (c : Nat) (r : Router) : (s.setRouter c r).msix = s.msix := rfl
@[simp] theorem State.setRouter_errs (s : State) (c : Nat) (r : Router) : (s.setRouter c r).errs = s.errs := rfl
@[simp] theorem State.setRouter_trace (s : State) (c : Nat) (r : Router) : (s.setRouter c r).trace = s.trace := rfl
@[simp] theorem State.setRouter_nears (s : State) (c : Nat) (r : Router) : (s.setRouter c r).nears = s.nears := rfl
@[simp] theorem State.setRouter_fars (s : State) (c : Nat) (r : Router) : (s.setRouter c r).fars = s.fars := rfl
@[simp] theorem State.setRouter_slices (s : State) (c : Nat) (r : Router) : (s.setRouter c r).slices = s.slices := rfl
@[simp] theorem State.setRouter_scrOld (s : State) (c : Nat) (r : Router) : (s.setRouter c r).scrOld = s.scrOld := rfl
@[simp] theorem State.setRouter_walk (s : State) (c : Nat) (r : Router) : (s.setRouter c r).walk = s.walk := rfl
@[simp] theorem State.setRouter_nearCal (s : State) (c : Nat) (r : Router) : (s.setRouter c r).nearCal = s.nearCal := rfl
@[simp] theorem State.setRouter_farCal (s : State) (c : Nat) (r : Router) : (s.setRouter c r).farCal = s.farCal := rfl
@[simp] theorem State.setRouter_hbmOk (s : State) (c : Nat) (r : Router) : (s.setRouter c r).hbmOk = s.hbmOk := rfl
@[simp] theorem State.setRouter_inlet (s : State) (c : Nat) (r : Router) : (s.setRouter c r).inlet = s.inlet := rfl
@[simp] theorem State.setRouter_ftPend (s : State) (c : Nat) (r : Router) : (s.setRouter c r).ftPend = s.ftPend := rfl
@[simp] theorem State.setRouter_lineKey (s : State) (c : Nat) (r : Router) : (s.setRouter c r).lineKey = s.lineKey := rfl
@[simp] theorem State.setRouter_slotKey (s : State) (c : Nat) (r : Router) : (s.setRouter c r).slotKey = s.slotKey := rfl
@[simp] theorem State.setRouter_keyCount (s : State) (c : Nat) (r : Router) : (s.setRouter c r).keyCount = s.keyCount := rfl
@[simp] theorem State.setRouter_host (s : State) (c : Nat) (r : Router) : (s.setRouter c r).host = s.host := rfl
@[simp] theorem State.setRouter_hostMem (s : State) (c : Nat) (r : Router) : (s.setRouter c r).hostMem = s.hostMem := rfl
@[simp] theorem State.setRouter_hostPsn (s : State) (c : Nat) (r : Router) : (s.setRouter c r).hostPsn = s.hostPsn := rfl
@[simp] theorem State.setRouter_asks (s : State) (c : Nat) (r : Router) : (s.setRouter c r).asks = s.asks := rfl
@[simp] theorem State.setRouter_met (s : State) (c : Nat) (r : Router) : (s.setRouter c r).met = s.met := rfl
@[simp] theorem State.setRouter_msgs (s : State) (c : Nat) (r : Router) : (s.setRouter c r).msgs = s.msgs := rfl
@[simp] theorem State.setRouter_upsets (s : State) (c : Nat) (r : Router) : (s.setRouter c r).upsets = s.upsets := rfl
@[simp] theorem State.setRouter_askTag (s : State) (c : Nat) (r : Router) : (s.setRouter c r).askTag = s.askTag := rfl
@[simp] theorem State.setRouter_rsp (s : State) (c : Nat) (r : Router) : (s.setRouter c r).rsp = s.rsp := rfl
@[simp] theorem State.setRouter_ctlq (s : State) (c : Nat) (r : Router) : (s.setRouter c r).ctlq = s.ctlq := rfl
@[simp] theorem State.setRouter_linkTx (s : State) (c : Nat) (r : Router) : (s.setRouter c r).linkTx = s.linkTx := rfl
@[simp] theorem State.setRouter_links (s : State) (c : Nat) (r : Router) : (s.setRouter c r).links = s.links := rfl
@[simp] theorem State.setRouter_outReqs (s : State) (c : Nat) (r : Router) : (s.setRouter c r).outReqs = s.outReqs := rfl
@[simp] theorem State.setRouter_waiting (s : State) (c : Nat) (r : Router) : (s.setRouter c r).waiting = s.waiting := rfl
@[simp] theorem State.setRouter_qos (s : State) (c : Nat) (r : Router) : (s.setRouter c r).qos = s.qos := rfl
@[simp] theorem State.setRouter_sec (s : State) (c : Nat) (r : Router) : (s.setRouter c r).sec = s.sec := rfl
@[simp] theorem State.setRouter_aud (s : State) (c : Nat) (r : Router) : (s.setRouter c r).aud = s.aud := rfl
@[simp] theorem State.setRouter_pwr (s : State) (c : Nat) (r : Router) : (s.setRouter c r).pwr = s.pwr := rfl
@[simp] theorem State.setRouter_ring (s : State) (c : Nat) (r : Router) : (s.setRouter c r).ring = s.ring := rfl
@[simp] theorem State.setRouter_boot (s : State) (c : Nat) (r : Router) : (s.setRouter c r).boot = s.boot := rfl
@[simp] theorem State.setRouter_rjobs (s : State) (c : Nat) (r : Router) : (s.setRouter c r).rjobs = s.rjobs := rfl
@[simp] theorem State.setRouter_ftests (s : State) (c : Nat) (r : Router) : (s.setRouter c r).ftests = s.ftests := rfl
@[simp] theorem State.setRouter_fwd (s : State) (c : Nat) (r : Router) : (s.setRouter c r).fwd = s.fwd := rfl
@[simp] theorem State.setRouter_lastQ (s : State) (c : Nat) (r : Router) : (s.setRouter c r).lastQ = s.lastQ := rfl
@[simp] theorem State.setRouter_devtime (s : State) (c : Nat) (r : Router) : (s.setRouter c r).devtime = s.devtime := rfl
@[simp] theorem State.setRouter_half (s : State) (c : Nat) (r : Router) : (s.setRouter c r).half = s.half := rfl
@[simp] theorem State.setRouter_free (s : State) (c : Nat) (r : Router) : (s.setRouter c r).free = s.free := rfl

@[simp] theorem State.setPart_pending (s : State) (p : Nat) (x : Part) : (s.setPart p x).pending = s.pending := rfl
@[simp] theorem State.setPart_regs (s : State) (p : Nat) (x : Part) : (s.setPart p x).regs = s.regs := rfl
@[simp] theorem State.setPart_mem (s : State) (p : Nat) (x : Part) : (s.setPart p x).mem = s.mem := rfl
@[simp] theorem State.setPart_psn (s : State) (p : Nat) (x : Part) : (s.setPart p x).psn = s.psn := rfl
@[simp] theorem State.setPart_cores (s : State) (p : Nat) (x : Part) : (s.setPart p x).cores = s.cores := rfl
@[simp] theorem State.setPart_latches (s : State) (p : Nat) (x : Part) : (s.setPart p x).latches = s.latches := rfl
@[simp] theorem State.setPart_banks (s : State) (p : Nat) (x : Part) : (s.setPart p x).banks = s.banks := rfl
@[simp] theorem State.setPart_routers (s : State) (p : Nat) (x : Part) : (s.setPart p x).routers = s.routers := rfl
@[simp] theorem State.setPart_dmas (s : State) (p : Nat) (x : Part) : (s.setPart p x).dmas = s.dmas := rfl
@[simp] theorem State.setPart_gwTx (s : State) (p : Nat) (x : Part) : (s.setPart p x).gwTx = s.gwTx := rfl
@[simp] theorem State.setPart_queues (s : State) (p : Nat) (x : Part) : (s.setPart p x).queues = s.queues := rfl
@[simp] theorem State.setPart_engines (s : State) (p : Nat) (x : Part) : (s.setPart p x).engines = s.engines := rfl
@[simp] theorem State.setPart_msix (s : State) (p : Nat) (x : Part) : (s.setPart p x).msix = s.msix := rfl
@[simp] theorem State.setPart_errs (s : State) (p : Nat) (x : Part) : (s.setPart p x).errs = s.errs := rfl
@[simp] theorem State.setPart_trace (s : State) (p : Nat) (x : Part) : (s.setPart p x).trace = s.trace := rfl
@[simp] theorem State.setPart_nears (s : State) (p : Nat) (x : Part) : (s.setPart p x).nears = s.nears := rfl
@[simp] theorem State.setPart_fars (s : State) (p : Nat) (x : Part) : (s.setPart p x).fars = s.fars := rfl
@[simp] theorem State.setPart_slices (s : State) (p : Nat) (x : Part) : (s.setPart p x).slices = s.slices := rfl
@[simp] theorem State.setPart_scrOld (s : State) (p : Nat) (x : Part) : (s.setPart p x).scrOld = s.scrOld := rfl
@[simp] theorem State.setPart_walk (s : State) (p : Nat) (x : Part) : (s.setPart p x).walk = s.walk := rfl
@[simp] theorem State.setPart_nearCal (s : State) (p : Nat) (x : Part) : (s.setPart p x).nearCal = s.nearCal := rfl
@[simp] theorem State.setPart_farCal (s : State) (p : Nat) (x : Part) : (s.setPart p x).farCal = s.farCal := rfl
@[simp] theorem State.setPart_hbmOk (s : State) (p : Nat) (x : Part) : (s.setPart p x).hbmOk = s.hbmOk := rfl
@[simp] theorem State.setPart_inlet (s : State) (p : Nat) (x : Part) : (s.setPart p x).inlet = s.inlet := rfl
@[simp] theorem State.setPart_ftPend (s : State) (p : Nat) (x : Part) : (s.setPart p x).ftPend = s.ftPend := rfl
@[simp] theorem State.setPart_lineKey (s : State) (p : Nat) (x : Part) : (s.setPart p x).lineKey = s.lineKey := rfl
@[simp] theorem State.setPart_slotKey (s : State) (p : Nat) (x : Part) : (s.setPart p x).slotKey = s.slotKey := rfl
@[simp] theorem State.setPart_keyCount (s : State) (p : Nat) (x : Part) : (s.setPart p x).keyCount = s.keyCount := rfl
@[simp] theorem State.setPart_host (s : State) (p : Nat) (x : Part) : (s.setPart p x).host = s.host := rfl
@[simp] theorem State.setPart_hostMem (s : State) (p : Nat) (x : Part) : (s.setPart p x).hostMem = s.hostMem := rfl
@[simp] theorem State.setPart_hostPsn (s : State) (p : Nat) (x : Part) : (s.setPart p x).hostPsn = s.hostPsn := rfl
@[simp] theorem State.setPart_asks (s : State) (p : Nat) (x : Part) : (s.setPart p x).asks = s.asks := rfl
@[simp] theorem State.setPart_met (s : State) (p : Nat) (x : Part) : (s.setPart p x).met = s.met := rfl
@[simp] theorem State.setPart_msgs (s : State) (p : Nat) (x : Part) : (s.setPart p x).msgs = s.msgs := rfl
@[simp] theorem State.setPart_upsets (s : State) (p : Nat) (x : Part) : (s.setPart p x).upsets = s.upsets := rfl
@[simp] theorem State.setPart_askTag (s : State) (p : Nat) (x : Part) : (s.setPart p x).askTag = s.askTag := rfl
@[simp] theorem State.setPart_rsp (s : State) (p : Nat) (x : Part) : (s.setPart p x).rsp = s.rsp := rfl
@[simp] theorem State.setPart_ctlq (s : State) (p : Nat) (x : Part) : (s.setPart p x).ctlq = s.ctlq := rfl
@[simp] theorem State.setPart_linkTx (s : State) (p : Nat) (x : Part) : (s.setPart p x).linkTx = s.linkTx := rfl
@[simp] theorem State.setPart_links (s : State) (p : Nat) (x : Part) : (s.setPart p x).links = s.links := rfl
@[simp] theorem State.setPart_outReqs (s : State) (p : Nat) (x : Part) : (s.setPart p x).outReqs = s.outReqs := rfl
@[simp] theorem State.setPart_waiting (s : State) (p : Nat) (x : Part) : (s.setPart p x).waiting = s.waiting := rfl
@[simp] theorem State.setPart_qos (s : State) (p : Nat) (x : Part) : (s.setPart p x).qos = s.qos := rfl
@[simp] theorem State.setPart_sec (s : State) (p : Nat) (x : Part) : (s.setPart p x).sec = s.sec := rfl
@[simp] theorem State.setPart_aud (s : State) (p : Nat) (x : Part) : (s.setPart p x).aud = s.aud := rfl
@[simp] theorem State.setPart_pwr (s : State) (p : Nat) (x : Part) : (s.setPart p x).pwr = s.pwr := rfl
@[simp] theorem State.setPart_ring (s : State) (p : Nat) (x : Part) : (s.setPart p x).ring = s.ring := rfl
@[simp] theorem State.setPart_boot (s : State) (p : Nat) (x : Part) : (s.setPart p x).boot = s.boot := rfl
@[simp] theorem State.setPart_rjobs (s : State) (p : Nat) (x : Part) : (s.setPart p x).rjobs = s.rjobs := rfl
@[simp] theorem State.setPart_ftests (s : State) (p : Nat) (x : Part) : (s.setPart p x).ftests = s.ftests := rfl
@[simp] theorem State.setPart_fwd (s : State) (p : Nat) (x : Part) : (s.setPart p x).fwd = s.fwd := rfl
@[simp] theorem State.setPart_lastQ (s : State) (p : Nat) (x : Part) : (s.setPart p x).lastQ = s.lastQ := rfl
@[simp] theorem State.setPart_devtime (s : State) (p : Nat) (x : Part) : (s.setPart p x).devtime = s.devtime := rfl
@[simp] theorem State.setPart_half (s : State) (p : Nat) (x : Part) : (s.setPart p x).half = s.half := rfl
@[simp] theorem State.setPart_free (s : State) (p : Nat) (x : Part) : (s.setPart p x).free = s.free := rfl

@[simp] theorem State.setDma_pending (s : State) (c : Nat) (x : Dma) : (s.setDma c x).pending = s.pending := rfl
@[simp] theorem State.setDma_regs (s : State) (c : Nat) (x : Dma) : (s.setDma c x).regs = s.regs := rfl
@[simp] theorem State.setDma_mem (s : State) (c : Nat) (x : Dma) : (s.setDma c x).mem = s.mem := rfl
@[simp] theorem State.setDma_psn (s : State) (c : Nat) (x : Dma) : (s.setDma c x).psn = s.psn := rfl
@[simp] theorem State.setDma_cores (s : State) (c : Nat) (x : Dma) : (s.setDma c x).cores = s.cores := rfl
@[simp] theorem State.setDma_latches (s : State) (c : Nat) (x : Dma) : (s.setDma c x).latches = s.latches := rfl
@[simp] theorem State.setDma_banks (s : State) (c : Nat) (x : Dma) : (s.setDma c x).banks = s.banks := rfl
@[simp] theorem State.setDma_routers (s : State) (c : Nat) (x : Dma) : (s.setDma c x).routers = s.routers := rfl
@[simp] theorem State.setDma_parts (s : State) (c : Nat) (x : Dma) : (s.setDma c x).parts = s.parts := rfl
@[simp] theorem State.setDma_gwTx (s : State) (c : Nat) (x : Dma) : (s.setDma c x).gwTx = s.gwTx := rfl
@[simp] theorem State.setDma_queues (s : State) (c : Nat) (x : Dma) : (s.setDma c x).queues = s.queues := rfl
@[simp] theorem State.setDma_engines (s : State) (c : Nat) (x : Dma) : (s.setDma c x).engines = s.engines := rfl
@[simp] theorem State.setDma_msix (s : State) (c : Nat) (x : Dma) : (s.setDma c x).msix = s.msix := rfl
@[simp] theorem State.setDma_errs (s : State) (c : Nat) (x : Dma) : (s.setDma c x).errs = s.errs := rfl
@[simp] theorem State.setDma_trace (s : State) (c : Nat) (x : Dma) : (s.setDma c x).trace = s.trace := rfl
@[simp] theorem State.setDma_nears (s : State) (c : Nat) (x : Dma) : (s.setDma c x).nears = s.nears := rfl
@[simp] theorem State.setDma_fars (s : State) (c : Nat) (x : Dma) : (s.setDma c x).fars = s.fars := rfl
@[simp] theorem State.setDma_slices (s : State) (c : Nat) (x : Dma) : (s.setDma c x).slices = s.slices := rfl
@[simp] theorem State.setDma_scrOld (s : State) (c : Nat) (x : Dma) : (s.setDma c x).scrOld = s.scrOld := rfl
@[simp] theorem State.setDma_walk (s : State) (c : Nat) (x : Dma) : (s.setDma c x).walk = s.walk := rfl
@[simp] theorem State.setDma_nearCal (s : State) (c : Nat) (x : Dma) : (s.setDma c x).nearCal = s.nearCal := rfl
@[simp] theorem State.setDma_farCal (s : State) (c : Nat) (x : Dma) : (s.setDma c x).farCal = s.farCal := rfl
@[simp] theorem State.setDma_hbmOk (s : State) (c : Nat) (x : Dma) : (s.setDma c x).hbmOk = s.hbmOk := rfl
@[simp] theorem State.setDma_inlet (s : State) (c : Nat) (x : Dma) : (s.setDma c x).inlet = s.inlet := rfl
@[simp] theorem State.setDma_ftPend (s : State) (c : Nat) (x : Dma) : (s.setDma c x).ftPend = s.ftPend := rfl
@[simp] theorem State.setDma_lineKey (s : State) (c : Nat) (x : Dma) : (s.setDma c x).lineKey = s.lineKey := rfl
@[simp] theorem State.setDma_slotKey (s : State) (c : Nat) (x : Dma) : (s.setDma c x).slotKey = s.slotKey := rfl
@[simp] theorem State.setDma_keyCount (s : State) (c : Nat) (x : Dma) : (s.setDma c x).keyCount = s.keyCount := rfl
@[simp] theorem State.setDma_host (s : State) (c : Nat) (x : Dma) : (s.setDma c x).host = s.host := rfl
@[simp] theorem State.setDma_hostMem (s : State) (c : Nat) (x : Dma) : (s.setDma c x).hostMem = s.hostMem := rfl
@[simp] theorem State.setDma_hostPsn (s : State) (c : Nat) (x : Dma) : (s.setDma c x).hostPsn = s.hostPsn := rfl
@[simp] theorem State.setDma_asks (s : State) (c : Nat) (x : Dma) : (s.setDma c x).asks = s.asks := rfl
@[simp] theorem State.setDma_met (s : State) (c : Nat) (x : Dma) : (s.setDma c x).met = s.met := rfl
@[simp] theorem State.setDma_msgs (s : State) (c : Nat) (x : Dma) : (s.setDma c x).msgs = s.msgs := rfl
@[simp] theorem State.setDma_upsets (s : State) (c : Nat) (x : Dma) : (s.setDma c x).upsets = s.upsets := rfl
@[simp] theorem State.setDma_askTag (s : State) (c : Nat) (x : Dma) : (s.setDma c x).askTag = s.askTag := rfl
@[simp] theorem State.setDma_rsp (s : State) (c : Nat) (x : Dma) : (s.setDma c x).rsp = s.rsp := rfl
@[simp] theorem State.setDma_ctlq (s : State) (c : Nat) (x : Dma) : (s.setDma c x).ctlq = s.ctlq := rfl
@[simp] theorem State.setDma_linkTx (s : State) (c : Nat) (x : Dma) : (s.setDma c x).linkTx = s.linkTx := rfl
@[simp] theorem State.setDma_links (s : State) (c : Nat) (x : Dma) : (s.setDma c x).links = s.links := rfl
@[simp] theorem State.setDma_outReqs (s : State) (c : Nat) (x : Dma) : (s.setDma c x).outReqs = s.outReqs := rfl
@[simp] theorem State.setDma_waiting (s : State) (c : Nat) (x : Dma) : (s.setDma c x).waiting = s.waiting := rfl
@[simp] theorem State.setDma_qos (s : State) (c : Nat) (x : Dma) : (s.setDma c x).qos = s.qos := rfl
@[simp] theorem State.setDma_sec (s : State) (c : Nat) (x : Dma) : (s.setDma c x).sec = s.sec := rfl
@[simp] theorem State.setDma_aud (s : State) (c : Nat) (x : Dma) : (s.setDma c x).aud = s.aud := rfl
@[simp] theorem State.setDma_pwr (s : State) (c : Nat) (x : Dma) : (s.setDma c x).pwr = s.pwr := rfl
@[simp] theorem State.setDma_ring (s : State) (c : Nat) (x : Dma) : (s.setDma c x).ring = s.ring := rfl
@[simp] theorem State.setDma_boot (s : State) (c : Nat) (x : Dma) : (s.setDma c x).boot = s.boot := rfl
@[simp] theorem State.setDma_rjobs (s : State) (c : Nat) (x : Dma) : (s.setDma c x).rjobs = s.rjobs := rfl
@[simp] theorem State.setDma_ftests (s : State) (c : Nat) (x : Dma) : (s.setDma c x).ftests = s.ftests := rfl
@[simp] theorem State.setDma_fwd (s : State) (c : Nat) (x : Dma) : (s.setDma c x).fwd = s.fwd := rfl
@[simp] theorem State.setDma_lastQ (s : State) (c : Nat) (x : Dma) : (s.setDma c x).lastQ = s.lastQ := rfl
@[simp] theorem State.setDma_devtime (s : State) (c : Nat) (x : Dma) : (s.setDma c x).devtime = s.devtime := rfl
@[simp] theorem State.setDma_half (s : State) (c : Nat) (x : Dma) : (s.setDma c x).half = s.half := rfl
@[simp] theorem State.setDma_free (s : State) (c : Nat) (x : Dma) : (s.setDma c x).free = s.free := rfl

@[simp] theorem State.setQueue_pending (s : State) (q : Nat) (x : Queue) : (s.setQueue q x).pending = s.pending := rfl
@[simp] theorem State.setQueue_regs (s : State) (q : Nat) (x : Queue) : (s.setQueue q x).regs = s.regs := rfl
@[simp] theorem State.setQueue_mem (s : State) (q : Nat) (x : Queue) : (s.setQueue q x).mem = s.mem := rfl
@[simp] theorem State.setQueue_psn (s : State) (q : Nat) (x : Queue) : (s.setQueue q x).psn = s.psn := rfl
@[simp] theorem State.setQueue_cores (s : State) (q : Nat) (x : Queue) : (s.setQueue q x).cores = s.cores := rfl
@[simp] theorem State.setQueue_latches (s : State) (q : Nat) (x : Queue) : (s.setQueue q x).latches = s.latches := rfl
@[simp] theorem State.setQueue_banks (s : State) (q : Nat) (x : Queue) : (s.setQueue q x).banks = s.banks := rfl
@[simp] theorem State.setQueue_routers (s : State) (q : Nat) (x : Queue) : (s.setQueue q x).routers = s.routers := rfl
@[simp] theorem State.setQueue_parts (s : State) (q : Nat) (x : Queue) : (s.setQueue q x).parts = s.parts := rfl
@[simp] theorem State.setQueue_dmas (s : State) (q : Nat) (x : Queue) : (s.setQueue q x).dmas = s.dmas := rfl
@[simp] theorem State.setQueue_gwTx (s : State) (q : Nat) (x : Queue) : (s.setQueue q x).gwTx = s.gwTx := rfl
@[simp] theorem State.setQueue_engines (s : State) (q : Nat) (x : Queue) : (s.setQueue q x).engines = s.engines := rfl
@[simp] theorem State.setQueue_msix (s : State) (q : Nat) (x : Queue) : (s.setQueue q x).msix = s.msix := rfl
@[simp] theorem State.setQueue_errs (s : State) (q : Nat) (x : Queue) : (s.setQueue q x).errs = s.errs := rfl
@[simp] theorem State.setQueue_trace (s : State) (q : Nat) (x : Queue) : (s.setQueue q x).trace = s.trace := rfl
@[simp] theorem State.setQueue_nears (s : State) (q : Nat) (x : Queue) : (s.setQueue q x).nears = s.nears := rfl
@[simp] theorem State.setQueue_fars (s : State) (q : Nat) (x : Queue) : (s.setQueue q x).fars = s.fars := rfl
@[simp] theorem State.setQueue_slices (s : State) (q : Nat) (x : Queue) : (s.setQueue q x).slices = s.slices := rfl
@[simp] theorem State.setQueue_scrOld (s : State) (q : Nat) (x : Queue) : (s.setQueue q x).scrOld = s.scrOld := rfl
@[simp] theorem State.setQueue_walk (s : State) (q : Nat) (x : Queue) : (s.setQueue q x).walk = s.walk := rfl
@[simp] theorem State.setQueue_nearCal (s : State) (q : Nat) (x : Queue) : (s.setQueue q x).nearCal = s.nearCal := rfl
@[simp] theorem State.setQueue_farCal (s : State) (q : Nat) (x : Queue) : (s.setQueue q x).farCal = s.farCal := rfl
@[simp] theorem State.setQueue_hbmOk (s : State) (q : Nat) (x : Queue) : (s.setQueue q x).hbmOk = s.hbmOk := rfl
@[simp] theorem State.setQueue_inlet (s : State) (q : Nat) (x : Queue) : (s.setQueue q x).inlet = s.inlet := rfl
@[simp] theorem State.setQueue_ftPend (s : State) (q : Nat) (x : Queue) : (s.setQueue q x).ftPend = s.ftPend := rfl
@[simp] theorem State.setQueue_lineKey (s : State) (q : Nat) (x : Queue) : (s.setQueue q x).lineKey = s.lineKey := rfl
@[simp] theorem State.setQueue_slotKey (s : State) (q : Nat) (x : Queue) : (s.setQueue q x).slotKey = s.slotKey := rfl
@[simp] theorem State.setQueue_keyCount (s : State) (q : Nat) (x : Queue) : (s.setQueue q x).keyCount = s.keyCount := rfl
@[simp] theorem State.setQueue_host (s : State) (q : Nat) (x : Queue) : (s.setQueue q x).host = s.host := rfl
@[simp] theorem State.setQueue_hostMem (s : State) (q : Nat) (x : Queue) : (s.setQueue q x).hostMem = s.hostMem := rfl
@[simp] theorem State.setQueue_hostPsn (s : State) (q : Nat) (x : Queue) : (s.setQueue q x).hostPsn = s.hostPsn := rfl
@[simp] theorem State.setQueue_asks (s : State) (q : Nat) (x : Queue) : (s.setQueue q x).asks = s.asks := rfl
@[simp] theorem State.setQueue_met (s : State) (q : Nat) (x : Queue) : (s.setQueue q x).met = s.met := rfl
@[simp] theorem State.setQueue_msgs (s : State) (q : Nat) (x : Queue) : (s.setQueue q x).msgs = s.msgs := rfl
@[simp] theorem State.setQueue_upsets (s : State) (q : Nat) (x : Queue) : (s.setQueue q x).upsets = s.upsets := rfl
@[simp] theorem State.setQueue_askTag (s : State) (q : Nat) (x : Queue) : (s.setQueue q x).askTag = s.askTag := rfl
@[simp] theorem State.setQueue_rsp (s : State) (q : Nat) (x : Queue) : (s.setQueue q x).rsp = s.rsp := rfl
@[simp] theorem State.setQueue_ctlq (s : State) (q : Nat) (x : Queue) : (s.setQueue q x).ctlq = s.ctlq := rfl
@[simp] theorem State.setQueue_linkTx (s : State) (q : Nat) (x : Queue) : (s.setQueue q x).linkTx = s.linkTx := rfl
@[simp] theorem State.setQueue_links (s : State) (q : Nat) (x : Queue) : (s.setQueue q x).links = s.links := rfl
@[simp] theorem State.setQueue_outReqs (s : State) (q : Nat) (x : Queue) : (s.setQueue q x).outReqs = s.outReqs := rfl
@[simp] theorem State.setQueue_waiting (s : State) (q : Nat) (x : Queue) : (s.setQueue q x).waiting = s.waiting := rfl
@[simp] theorem State.setQueue_qos (s : State) (q : Nat) (x : Queue) : (s.setQueue q x).qos = s.qos := rfl
@[simp] theorem State.setQueue_sec (s : State) (q : Nat) (x : Queue) : (s.setQueue q x).sec = s.sec := rfl
@[simp] theorem State.setQueue_aud (s : State) (q : Nat) (x : Queue) : (s.setQueue q x).aud = s.aud := rfl
@[simp] theorem State.setQueue_pwr (s : State) (q : Nat) (x : Queue) : (s.setQueue q x).pwr = s.pwr := rfl
@[simp] theorem State.setQueue_ring (s : State) (q : Nat) (x : Queue) : (s.setQueue q x).ring = s.ring := rfl
@[simp] theorem State.setQueue_boot (s : State) (q : Nat) (x : Queue) : (s.setQueue q x).boot = s.boot := rfl
@[simp] theorem State.setQueue_rjobs (s : State) (q : Nat) (x : Queue) : (s.setQueue q x).rjobs = s.rjobs := rfl
@[simp] theorem State.setQueue_ftests (s : State) (q : Nat) (x : Queue) : (s.setQueue q x).ftests = s.ftests := rfl
@[simp] theorem State.setQueue_fwd (s : State) (q : Nat) (x : Queue) : (s.setQueue q x).fwd = s.fwd := rfl
@[simp] theorem State.setQueue_lastQ (s : State) (q : Nat) (x : Queue) : (s.setQueue q x).lastQ = s.lastQ := rfl
@[simp] theorem State.setQueue_devtime (s : State) (q : Nat) (x : Queue) : (s.setQueue q x).devtime = s.devtime := rfl
@[simp] theorem State.setQueue_half (s : State) (q : Nat) (x : Queue) : (s.setQueue q x).half = s.half := rfl
@[simp] theorem State.setQueue_free (s : State) (q : Nat) (x : Queue) : (s.setQueue q x).free = s.free := rfl

@[simp] theorem State.setEngine_pending (s : State) (e : Nat) (x : Engine) : (s.setEngine e x).pending = s.pending := rfl
@[simp] theorem State.setEngine_regs (s : State) (e : Nat) (x : Engine) : (s.setEngine e x).regs = s.regs := rfl
@[simp] theorem State.setEngine_mem (s : State) (e : Nat) (x : Engine) : (s.setEngine e x).mem = s.mem := rfl
@[simp] theorem State.setEngine_psn (s : State) (e : Nat) (x : Engine) : (s.setEngine e x).psn = s.psn := rfl
@[simp] theorem State.setEngine_cores (s : State) (e : Nat) (x : Engine) : (s.setEngine e x).cores = s.cores := rfl
@[simp] theorem State.setEngine_latches (s : State) (e : Nat) (x : Engine) : (s.setEngine e x).latches = s.latches := rfl
@[simp] theorem State.setEngine_banks (s : State) (e : Nat) (x : Engine) : (s.setEngine e x).banks = s.banks := rfl
@[simp] theorem State.setEngine_routers (s : State) (e : Nat) (x : Engine) : (s.setEngine e x).routers = s.routers := rfl
@[simp] theorem State.setEngine_parts (s : State) (e : Nat) (x : Engine) : (s.setEngine e x).parts = s.parts := rfl
@[simp] theorem State.setEngine_dmas (s : State) (e : Nat) (x : Engine) : (s.setEngine e x).dmas = s.dmas := rfl
@[simp] theorem State.setEngine_gwTx (s : State) (e : Nat) (x : Engine) : (s.setEngine e x).gwTx = s.gwTx := rfl
@[simp] theorem State.setEngine_queues (s : State) (e : Nat) (x : Engine) : (s.setEngine e x).queues = s.queues := rfl
@[simp] theorem State.setEngine_msix (s : State) (e : Nat) (x : Engine) : (s.setEngine e x).msix = s.msix := rfl
@[simp] theorem State.setEngine_errs (s : State) (e : Nat) (x : Engine) : (s.setEngine e x).errs = s.errs := rfl
@[simp] theorem State.setEngine_trace (s : State) (e : Nat) (x : Engine) : (s.setEngine e x).trace = s.trace := rfl
@[simp] theorem State.setEngine_nears (s : State) (e : Nat) (x : Engine) : (s.setEngine e x).nears = s.nears := rfl
@[simp] theorem State.setEngine_fars (s : State) (e : Nat) (x : Engine) : (s.setEngine e x).fars = s.fars := rfl
@[simp] theorem State.setEngine_slices (s : State) (e : Nat) (x : Engine) : (s.setEngine e x).slices = s.slices := rfl
@[simp] theorem State.setEngine_scrOld (s : State) (e : Nat) (x : Engine) : (s.setEngine e x).scrOld = s.scrOld := rfl
@[simp] theorem State.setEngine_walk (s : State) (e : Nat) (x : Engine) : (s.setEngine e x).walk = s.walk := rfl
@[simp] theorem State.setEngine_nearCal (s : State) (e : Nat) (x : Engine) : (s.setEngine e x).nearCal = s.nearCal := rfl
@[simp] theorem State.setEngine_farCal (s : State) (e : Nat) (x : Engine) : (s.setEngine e x).farCal = s.farCal := rfl
@[simp] theorem State.setEngine_hbmOk (s : State) (e : Nat) (x : Engine) : (s.setEngine e x).hbmOk = s.hbmOk := rfl
@[simp] theorem State.setEngine_inlet (s : State) (e : Nat) (x : Engine) : (s.setEngine e x).inlet = s.inlet := rfl
@[simp] theorem State.setEngine_ftPend (s : State) (e : Nat) (x : Engine) : (s.setEngine e x).ftPend = s.ftPend := rfl
@[simp] theorem State.setEngine_lineKey (s : State) (e : Nat) (x : Engine) : (s.setEngine e x).lineKey = s.lineKey := rfl
@[simp] theorem State.setEngine_slotKey (s : State) (e : Nat) (x : Engine) : (s.setEngine e x).slotKey = s.slotKey := rfl
@[simp] theorem State.setEngine_keyCount (s : State) (e : Nat) (x : Engine) : (s.setEngine e x).keyCount = s.keyCount := rfl
@[simp] theorem State.setEngine_host (s : State) (e : Nat) (x : Engine) : (s.setEngine e x).host = s.host := rfl
@[simp] theorem State.setEngine_hostMem (s : State) (e : Nat) (x : Engine) : (s.setEngine e x).hostMem = s.hostMem := rfl
@[simp] theorem State.setEngine_hostPsn (s : State) (e : Nat) (x : Engine) : (s.setEngine e x).hostPsn = s.hostPsn := rfl
@[simp] theorem State.setEngine_asks (s : State) (e : Nat) (x : Engine) : (s.setEngine e x).asks = s.asks := rfl
@[simp] theorem State.setEngine_met (s : State) (e : Nat) (x : Engine) : (s.setEngine e x).met = s.met := rfl
@[simp] theorem State.setEngine_msgs (s : State) (e : Nat) (x : Engine) : (s.setEngine e x).msgs = s.msgs := rfl
@[simp] theorem State.setEngine_upsets (s : State) (e : Nat) (x : Engine) : (s.setEngine e x).upsets = s.upsets := rfl
@[simp] theorem State.setEngine_askTag (s : State) (e : Nat) (x : Engine) : (s.setEngine e x).askTag = s.askTag := rfl
@[simp] theorem State.setEngine_rsp (s : State) (e : Nat) (x : Engine) : (s.setEngine e x).rsp = s.rsp := rfl
@[simp] theorem State.setEngine_ctlq (s : State) (e : Nat) (x : Engine) : (s.setEngine e x).ctlq = s.ctlq := rfl
@[simp] theorem State.setEngine_linkTx (s : State) (e : Nat) (x : Engine) : (s.setEngine e x).linkTx = s.linkTx := rfl
@[simp] theorem State.setEngine_links (s : State) (e : Nat) (x : Engine) : (s.setEngine e x).links = s.links := rfl
@[simp] theorem State.setEngine_outReqs (s : State) (e : Nat) (x : Engine) : (s.setEngine e x).outReqs = s.outReqs := rfl
@[simp] theorem State.setEngine_waiting (s : State) (e : Nat) (x : Engine) : (s.setEngine e x).waiting = s.waiting := rfl
@[simp] theorem State.setEngine_qos (s : State) (e : Nat) (x : Engine) : (s.setEngine e x).qos = s.qos := rfl
@[simp] theorem State.setEngine_sec (s : State) (e : Nat) (x : Engine) : (s.setEngine e x).sec = s.sec := rfl
@[simp] theorem State.setEngine_aud (s : State) (e : Nat) (x : Engine) : (s.setEngine e x).aud = s.aud := rfl
@[simp] theorem State.setEngine_pwr (s : State) (e : Nat) (x : Engine) : (s.setEngine e x).pwr = s.pwr := rfl
@[simp] theorem State.setEngine_ring (s : State) (e : Nat) (x : Engine) : (s.setEngine e x).ring = s.ring := rfl
@[simp] theorem State.setEngine_boot (s : State) (e : Nat) (x : Engine) : (s.setEngine e x).boot = s.boot := rfl
@[simp] theorem State.setEngine_rjobs (s : State) (e : Nat) (x : Engine) : (s.setEngine e x).rjobs = s.rjobs := rfl
@[simp] theorem State.setEngine_ftests (s : State) (e : Nat) (x : Engine) : (s.setEngine e x).ftests = s.ftests := rfl
@[simp] theorem State.setEngine_fwd (s : State) (e : Nat) (x : Engine) : (s.setEngine e x).fwd = s.fwd := rfl
@[simp] theorem State.setEngine_lastQ (s : State) (e : Nat) (x : Engine) : (s.setEngine e x).lastQ = s.lastQ := rfl
@[simp] theorem State.setEngine_devtime (s : State) (e : Nat) (x : Engine) : (s.setEngine e x).devtime = s.devtime := rfl
@[simp] theorem State.setEngine_half (s : State) (e : Nat) (x : Engine) : (s.setEngine e x).half = s.half := rfl
@[simp] theorem State.setEngine_free (s : State) (e : Nat) (x : Engine) : (s.setEngine e x).free = s.free := rfl

@[simp] theorem State.setTraceBuf_pending (s : State) (c : Nat) (x : TraceBuf) : (s.setTraceBuf c x).pending = s.pending := rfl
@[simp] theorem State.setTraceBuf_regs (s : State) (c : Nat) (x : TraceBuf) : (s.setTraceBuf c x).regs = s.regs := rfl
@[simp] theorem State.setTraceBuf_mem (s : State) (c : Nat) (x : TraceBuf) : (s.setTraceBuf c x).mem = s.mem := rfl
@[simp] theorem State.setTraceBuf_psn (s : State) (c : Nat) (x : TraceBuf) : (s.setTraceBuf c x).psn = s.psn := rfl
@[simp] theorem State.setTraceBuf_cores (s : State) (c : Nat) (x : TraceBuf) : (s.setTraceBuf c x).cores = s.cores := rfl
@[simp] theorem State.setTraceBuf_latches (s : State) (c : Nat) (x : TraceBuf) : (s.setTraceBuf c x).latches = s.latches := rfl
@[simp] theorem State.setTraceBuf_banks (s : State) (c : Nat) (x : TraceBuf) : (s.setTraceBuf c x).banks = s.banks := rfl
@[simp] theorem State.setTraceBuf_routers (s : State) (c : Nat) (x : TraceBuf) : (s.setTraceBuf c x).routers = s.routers := rfl
@[simp] theorem State.setTraceBuf_parts (s : State) (c : Nat) (x : TraceBuf) : (s.setTraceBuf c x).parts = s.parts := rfl
@[simp] theorem State.setTraceBuf_dmas (s : State) (c : Nat) (x : TraceBuf) : (s.setTraceBuf c x).dmas = s.dmas := rfl
@[simp] theorem State.setTraceBuf_gwTx (s : State) (c : Nat) (x : TraceBuf) : (s.setTraceBuf c x).gwTx = s.gwTx := rfl
@[simp] theorem State.setTraceBuf_queues (s : State) (c : Nat) (x : TraceBuf) : (s.setTraceBuf c x).queues = s.queues := rfl
@[simp] theorem State.setTraceBuf_engines (s : State) (c : Nat) (x : TraceBuf) : (s.setTraceBuf c x).engines = s.engines := rfl
@[simp] theorem State.setTraceBuf_msix (s : State) (c : Nat) (x : TraceBuf) : (s.setTraceBuf c x).msix = s.msix := rfl
@[simp] theorem State.setTraceBuf_errs (s : State) (c : Nat) (x : TraceBuf) : (s.setTraceBuf c x).errs = s.errs := rfl
@[simp] theorem State.setTraceBuf_nears (s : State) (c : Nat) (x : TraceBuf) : (s.setTraceBuf c x).nears = s.nears := rfl
@[simp] theorem State.setTraceBuf_fars (s : State) (c : Nat) (x : TraceBuf) : (s.setTraceBuf c x).fars = s.fars := rfl
@[simp] theorem State.setTraceBuf_slices (s : State) (c : Nat) (x : TraceBuf) : (s.setTraceBuf c x).slices = s.slices := rfl
@[simp] theorem State.setTraceBuf_scrOld (s : State) (c : Nat) (x : TraceBuf) : (s.setTraceBuf c x).scrOld = s.scrOld := rfl
@[simp] theorem State.setTraceBuf_walk (s : State) (c : Nat) (x : TraceBuf) : (s.setTraceBuf c x).walk = s.walk := rfl
@[simp] theorem State.setTraceBuf_nearCal (s : State) (c : Nat) (x : TraceBuf) : (s.setTraceBuf c x).nearCal = s.nearCal := rfl
@[simp] theorem State.setTraceBuf_farCal (s : State) (c : Nat) (x : TraceBuf) : (s.setTraceBuf c x).farCal = s.farCal := rfl
@[simp] theorem State.setTraceBuf_hbmOk (s : State) (c : Nat) (x : TraceBuf) : (s.setTraceBuf c x).hbmOk = s.hbmOk := rfl
@[simp] theorem State.setTraceBuf_inlet (s : State) (c : Nat) (x : TraceBuf) : (s.setTraceBuf c x).inlet = s.inlet := rfl
@[simp] theorem State.setTraceBuf_ftPend (s : State) (c : Nat) (x : TraceBuf) : (s.setTraceBuf c x).ftPend = s.ftPend := rfl
@[simp] theorem State.setTraceBuf_lineKey (s : State) (c : Nat) (x : TraceBuf) : (s.setTraceBuf c x).lineKey = s.lineKey := rfl
@[simp] theorem State.setTraceBuf_slotKey (s : State) (c : Nat) (x : TraceBuf) : (s.setTraceBuf c x).slotKey = s.slotKey := rfl
@[simp] theorem State.setTraceBuf_keyCount (s : State) (c : Nat) (x : TraceBuf) : (s.setTraceBuf c x).keyCount = s.keyCount := rfl
@[simp] theorem State.setTraceBuf_host (s : State) (c : Nat) (x : TraceBuf) : (s.setTraceBuf c x).host = s.host := rfl
@[simp] theorem State.setTraceBuf_hostMem (s : State) (c : Nat) (x : TraceBuf) : (s.setTraceBuf c x).hostMem = s.hostMem := rfl
@[simp] theorem State.setTraceBuf_hostPsn (s : State) (c : Nat) (x : TraceBuf) : (s.setTraceBuf c x).hostPsn = s.hostPsn := rfl
@[simp] theorem State.setTraceBuf_asks (s : State) (c : Nat) (x : TraceBuf) : (s.setTraceBuf c x).asks = s.asks := rfl
@[simp] theorem State.setTraceBuf_met (s : State) (c : Nat) (x : TraceBuf) : (s.setTraceBuf c x).met = s.met := rfl
@[simp] theorem State.setTraceBuf_msgs (s : State) (c : Nat) (x : TraceBuf) : (s.setTraceBuf c x).msgs = s.msgs := rfl
@[simp] theorem State.setTraceBuf_upsets (s : State) (c : Nat) (x : TraceBuf) : (s.setTraceBuf c x).upsets = s.upsets := rfl
@[simp] theorem State.setTraceBuf_askTag (s : State) (c : Nat) (x : TraceBuf) : (s.setTraceBuf c x).askTag = s.askTag := rfl
@[simp] theorem State.setTraceBuf_rsp (s : State) (c : Nat) (x : TraceBuf) : (s.setTraceBuf c x).rsp = s.rsp := rfl
@[simp] theorem State.setTraceBuf_ctlq (s : State) (c : Nat) (x : TraceBuf) : (s.setTraceBuf c x).ctlq = s.ctlq := rfl
@[simp] theorem State.setTraceBuf_linkTx (s : State) (c : Nat) (x : TraceBuf) : (s.setTraceBuf c x).linkTx = s.linkTx := rfl
@[simp] theorem State.setTraceBuf_links (s : State) (c : Nat) (x : TraceBuf) : (s.setTraceBuf c x).links = s.links := rfl
@[simp] theorem State.setTraceBuf_outReqs (s : State) (c : Nat) (x : TraceBuf) : (s.setTraceBuf c x).outReqs = s.outReqs := rfl
@[simp] theorem State.setTraceBuf_waiting (s : State) (c : Nat) (x : TraceBuf) : (s.setTraceBuf c x).waiting = s.waiting := rfl
@[simp] theorem State.setTraceBuf_qos (s : State) (c : Nat) (x : TraceBuf) : (s.setTraceBuf c x).qos = s.qos := rfl
@[simp] theorem State.setTraceBuf_sec (s : State) (c : Nat) (x : TraceBuf) : (s.setTraceBuf c x).sec = s.sec := rfl
@[simp] theorem State.setTraceBuf_aud (s : State) (c : Nat) (x : TraceBuf) : (s.setTraceBuf c x).aud = s.aud := rfl
@[simp] theorem State.setTraceBuf_pwr (s : State) (c : Nat) (x : TraceBuf) : (s.setTraceBuf c x).pwr = s.pwr := rfl
@[simp] theorem State.setTraceBuf_ring (s : State) (c : Nat) (x : TraceBuf) : (s.setTraceBuf c x).ring = s.ring := rfl
@[simp] theorem State.setTraceBuf_boot (s : State) (c : Nat) (x : TraceBuf) : (s.setTraceBuf c x).boot = s.boot := rfl
@[simp] theorem State.setTraceBuf_rjobs (s : State) (c : Nat) (x : TraceBuf) : (s.setTraceBuf c x).rjobs = s.rjobs := rfl
@[simp] theorem State.setTraceBuf_ftests (s : State) (c : Nat) (x : TraceBuf) : (s.setTraceBuf c x).ftests = s.ftests := rfl
@[simp] theorem State.setTraceBuf_fwd (s : State) (c : Nat) (x : TraceBuf) : (s.setTraceBuf c x).fwd = s.fwd := rfl
@[simp] theorem State.setTraceBuf_lastQ (s : State) (c : Nat) (x : TraceBuf) : (s.setTraceBuf c x).lastQ = s.lastQ := rfl
@[simp] theorem State.setTraceBuf_devtime (s : State) (c : Nat) (x : TraceBuf) : (s.setTraceBuf c x).devtime = s.devtime := rfl
@[simp] theorem State.setTraceBuf_half (s : State) (c : Nat) (x : TraceBuf) : (s.setTraceBuf c x).half = s.half := rfl
@[simp] theorem State.setTraceBuf_free (s : State) (c : Nat) (x : TraceBuf) : (s.setTraceBuf c x).free = s.free := rfl

@[simp] theorem State.setLatch_pending (s : State) (c : Nat) (l : Latch) : (s.setLatch c l).pending = s.pending := rfl
@[simp] theorem State.setLatch_regs (s : State) (c : Nat) (l : Latch) : (s.setLatch c l).regs = s.regs := rfl
@[simp] theorem State.setLatch_mem (s : State) (c : Nat) (l : Latch) : (s.setLatch c l).mem = s.mem := rfl
@[simp] theorem State.setLatch_psn (s : State) (c : Nat) (l : Latch) : (s.setLatch c l).psn = s.psn := rfl
@[simp] theorem State.setLatch_cores (s : State) (c : Nat) (l : Latch) : (s.setLatch c l).cores = s.cores := rfl
@[simp] theorem State.setLatch_banks (s : State) (c : Nat) (l : Latch) : (s.setLatch c l).banks = s.banks := rfl
@[simp] theorem State.setLatch_routers (s : State) (c : Nat) (l : Latch) : (s.setLatch c l).routers = s.routers := rfl
@[simp] theorem State.setLatch_parts (s : State) (c : Nat) (l : Latch) : (s.setLatch c l).parts = s.parts := rfl
@[simp] theorem State.setLatch_dmas (s : State) (c : Nat) (l : Latch) : (s.setLatch c l).dmas = s.dmas := rfl
@[simp] theorem State.setLatch_gwTx (s : State) (c : Nat) (l : Latch) : (s.setLatch c l).gwTx = s.gwTx := rfl
@[simp] theorem State.setLatch_queues (s : State) (c : Nat) (l : Latch) : (s.setLatch c l).queues = s.queues := rfl
@[simp] theorem State.setLatch_engines (s : State) (c : Nat) (l : Latch) : (s.setLatch c l).engines = s.engines := rfl
@[simp] theorem State.setLatch_msix (s : State) (c : Nat) (l : Latch) : (s.setLatch c l).msix = s.msix := rfl
@[simp] theorem State.setLatch_errs (s : State) (c : Nat) (l : Latch) : (s.setLatch c l).errs = s.errs := rfl
@[simp] theorem State.setLatch_trace (s : State) (c : Nat) (l : Latch) : (s.setLatch c l).trace = s.trace := rfl
@[simp] theorem State.setLatch_nears (s : State) (c : Nat) (l : Latch) : (s.setLatch c l).nears = s.nears := rfl
@[simp] theorem State.setLatch_fars (s : State) (c : Nat) (l : Latch) : (s.setLatch c l).fars = s.fars := rfl
@[simp] theorem State.setLatch_slices (s : State) (c : Nat) (l : Latch) : (s.setLatch c l).slices = s.slices := rfl
@[simp] theorem State.setLatch_scrOld (s : State) (c : Nat) (l : Latch) : (s.setLatch c l).scrOld = s.scrOld := rfl
@[simp] theorem State.setLatch_walk (s : State) (c : Nat) (l : Latch) : (s.setLatch c l).walk = s.walk := rfl
@[simp] theorem State.setLatch_nearCal (s : State) (c : Nat) (l : Latch) : (s.setLatch c l).nearCal = s.nearCal := rfl
@[simp] theorem State.setLatch_farCal (s : State) (c : Nat) (l : Latch) : (s.setLatch c l).farCal = s.farCal := rfl
@[simp] theorem State.setLatch_hbmOk (s : State) (c : Nat) (l : Latch) : (s.setLatch c l).hbmOk = s.hbmOk := rfl
@[simp] theorem State.setLatch_inlet (s : State) (c : Nat) (l : Latch) : (s.setLatch c l).inlet = s.inlet := rfl
@[simp] theorem State.setLatch_ftPend (s : State) (c : Nat) (l : Latch) : (s.setLatch c l).ftPend = s.ftPend := rfl
@[simp] theorem State.setLatch_lineKey (s : State) (c : Nat) (l : Latch) : (s.setLatch c l).lineKey = s.lineKey := rfl
@[simp] theorem State.setLatch_slotKey (s : State) (c : Nat) (l : Latch) : (s.setLatch c l).slotKey = s.slotKey := rfl
@[simp] theorem State.setLatch_keyCount (s : State) (c : Nat) (l : Latch) : (s.setLatch c l).keyCount = s.keyCount := rfl
@[simp] theorem State.setLatch_host (s : State) (c : Nat) (l : Latch) : (s.setLatch c l).host = s.host := rfl
@[simp] theorem State.setLatch_hostMem (s : State) (c : Nat) (l : Latch) : (s.setLatch c l).hostMem = s.hostMem := rfl
@[simp] theorem State.setLatch_hostPsn (s : State) (c : Nat) (l : Latch) : (s.setLatch c l).hostPsn = s.hostPsn := rfl
@[simp] theorem State.setLatch_asks (s : State) (c : Nat) (l : Latch) : (s.setLatch c l).asks = s.asks := rfl
@[simp] theorem State.setLatch_met (s : State) (c : Nat) (l : Latch) : (s.setLatch c l).met = s.met := rfl
@[simp] theorem State.setLatch_msgs (s : State) (c : Nat) (l : Latch) : (s.setLatch c l).msgs = s.msgs := rfl
@[simp] theorem State.setLatch_upsets (s : State) (c : Nat) (l : Latch) : (s.setLatch c l).upsets = s.upsets := rfl
@[simp] theorem State.setLatch_askTag (s : State) (c : Nat) (l : Latch) : (s.setLatch c l).askTag = s.askTag := rfl
@[simp] theorem State.setLatch_rsp (s : State) (c : Nat) (l : Latch) : (s.setLatch c l).rsp = s.rsp := rfl
@[simp] theorem State.setLatch_ctlq (s : State) (c : Nat) (l : Latch) : (s.setLatch c l).ctlq = s.ctlq := rfl
@[simp] theorem State.setLatch_linkTx (s : State) (c : Nat) (l : Latch) : (s.setLatch c l).linkTx = s.linkTx := rfl
@[simp] theorem State.setLatch_links (s : State) (c : Nat) (l : Latch) : (s.setLatch c l).links = s.links := rfl
@[simp] theorem State.setLatch_outReqs (s : State) (c : Nat) (l : Latch) : (s.setLatch c l).outReqs = s.outReqs := rfl
@[simp] theorem State.setLatch_waiting (s : State) (c : Nat) (l : Latch) : (s.setLatch c l).waiting = s.waiting := rfl
@[simp] theorem State.setLatch_qos (s : State) (c : Nat) (l : Latch) : (s.setLatch c l).qos = s.qos := rfl
@[simp] theorem State.setLatch_sec (s : State) (c : Nat) (l : Latch) : (s.setLatch c l).sec = s.sec := rfl
@[simp] theorem State.setLatch_aud (s : State) (c : Nat) (l : Latch) : (s.setLatch c l).aud = s.aud := rfl
@[simp] theorem State.setLatch_pwr (s : State) (c : Nat) (l : Latch) : (s.setLatch c l).pwr = s.pwr := rfl
@[simp] theorem State.setLatch_ring (s : State) (c : Nat) (l : Latch) : (s.setLatch c l).ring = s.ring := rfl
@[simp] theorem State.setLatch_boot (s : State) (c : Nat) (l : Latch) : (s.setLatch c l).boot = s.boot := rfl
@[simp] theorem State.setLatch_rjobs (s : State) (c : Nat) (l : Latch) : (s.setLatch c l).rjobs = s.rjobs := rfl
@[simp] theorem State.setLatch_ftests (s : State) (c : Nat) (l : Latch) : (s.setLatch c l).ftests = s.ftests := rfl
@[simp] theorem State.setLatch_fwd (s : State) (c : Nat) (l : Latch) : (s.setLatch c l).fwd = s.fwd := rfl
@[simp] theorem State.setLatch_lastQ (s : State) (c : Nat) (l : Latch) : (s.setLatch c l).lastQ = s.lastQ := rfl
@[simp] theorem State.setLatch_devtime (s : State) (c : Nat) (l : Latch) : (s.setLatch c l).devtime = s.devtime := rfl
@[simp] theorem State.setLatch_half (s : State) (c : Nat) (l : Latch) : (s.setLatch c l).half = s.half := rfl
@[simp] theorem State.setLatch_free (s : State) (c : Nat) (l : Latch) : (s.setLatch c l).free = s.free := rfl

@[simp] theorem State.setBank_pending (s : State) (c : Nat) (b : Banks) : (s.setBank c b).pending = s.pending := rfl
@[simp] theorem State.setBank_regs (s : State) (c : Nat) (b : Banks) : (s.setBank c b).regs = s.regs := rfl
@[simp] theorem State.setBank_mem (s : State) (c : Nat) (b : Banks) : (s.setBank c b).mem = s.mem := rfl
@[simp] theorem State.setBank_psn (s : State) (c : Nat) (b : Banks) : (s.setBank c b).psn = s.psn := rfl
@[simp] theorem State.setBank_cores (s : State) (c : Nat) (b : Banks) : (s.setBank c b).cores = s.cores := rfl
@[simp] theorem State.setBank_latches (s : State) (c : Nat) (b : Banks) : (s.setBank c b).latches = s.latches := rfl
@[simp] theorem State.setBank_routers (s : State) (c : Nat) (b : Banks) : (s.setBank c b).routers = s.routers := rfl
@[simp] theorem State.setBank_parts (s : State) (c : Nat) (b : Banks) : (s.setBank c b).parts = s.parts := rfl
@[simp] theorem State.setBank_dmas (s : State) (c : Nat) (b : Banks) : (s.setBank c b).dmas = s.dmas := rfl
@[simp] theorem State.setBank_gwTx (s : State) (c : Nat) (b : Banks) : (s.setBank c b).gwTx = s.gwTx := rfl
@[simp] theorem State.setBank_queues (s : State) (c : Nat) (b : Banks) : (s.setBank c b).queues = s.queues := rfl
@[simp] theorem State.setBank_engines (s : State) (c : Nat) (b : Banks) : (s.setBank c b).engines = s.engines := rfl
@[simp] theorem State.setBank_msix (s : State) (c : Nat) (b : Banks) : (s.setBank c b).msix = s.msix := rfl
@[simp] theorem State.setBank_errs (s : State) (c : Nat) (b : Banks) : (s.setBank c b).errs = s.errs := rfl
@[simp] theorem State.setBank_trace (s : State) (c : Nat) (b : Banks) : (s.setBank c b).trace = s.trace := rfl
@[simp] theorem State.setBank_nears (s : State) (c : Nat) (b : Banks) : (s.setBank c b).nears = s.nears := rfl
@[simp] theorem State.setBank_fars (s : State) (c : Nat) (b : Banks) : (s.setBank c b).fars = s.fars := rfl
@[simp] theorem State.setBank_slices (s : State) (c : Nat) (b : Banks) : (s.setBank c b).slices = s.slices := rfl
@[simp] theorem State.setBank_scrOld (s : State) (c : Nat) (b : Banks) : (s.setBank c b).scrOld = s.scrOld := rfl
@[simp] theorem State.setBank_walk (s : State) (c : Nat) (b : Banks) : (s.setBank c b).walk = s.walk := rfl
@[simp] theorem State.setBank_nearCal (s : State) (c : Nat) (b : Banks) : (s.setBank c b).nearCal = s.nearCal := rfl
@[simp] theorem State.setBank_farCal (s : State) (c : Nat) (b : Banks) : (s.setBank c b).farCal = s.farCal := rfl
@[simp] theorem State.setBank_hbmOk (s : State) (c : Nat) (b : Banks) : (s.setBank c b).hbmOk = s.hbmOk := rfl
@[simp] theorem State.setBank_inlet (s : State) (c : Nat) (b : Banks) : (s.setBank c b).inlet = s.inlet := rfl
@[simp] theorem State.setBank_ftPend (s : State) (c : Nat) (b : Banks) : (s.setBank c b).ftPend = s.ftPend := rfl
@[simp] theorem State.setBank_lineKey (s : State) (c : Nat) (b : Banks) : (s.setBank c b).lineKey = s.lineKey := rfl
@[simp] theorem State.setBank_slotKey (s : State) (c : Nat) (b : Banks) : (s.setBank c b).slotKey = s.slotKey := rfl
@[simp] theorem State.setBank_keyCount (s : State) (c : Nat) (b : Banks) : (s.setBank c b).keyCount = s.keyCount := rfl
@[simp] theorem State.setBank_host (s : State) (c : Nat) (b : Banks) : (s.setBank c b).host = s.host := rfl
@[simp] theorem State.setBank_hostMem (s : State) (c : Nat) (b : Banks) : (s.setBank c b).hostMem = s.hostMem := rfl
@[simp] theorem State.setBank_hostPsn (s : State) (c : Nat) (b : Banks) : (s.setBank c b).hostPsn = s.hostPsn := rfl
@[simp] theorem State.setBank_asks (s : State) (c : Nat) (b : Banks) : (s.setBank c b).asks = s.asks := rfl
@[simp] theorem State.setBank_met (s : State) (c : Nat) (b : Banks) : (s.setBank c b).met = s.met := rfl
@[simp] theorem State.setBank_msgs (s : State) (c : Nat) (b : Banks) : (s.setBank c b).msgs = s.msgs := rfl
@[simp] theorem State.setBank_upsets (s : State) (c : Nat) (b : Banks) : (s.setBank c b).upsets = s.upsets := rfl
@[simp] theorem State.setBank_askTag (s : State) (c : Nat) (b : Banks) : (s.setBank c b).askTag = s.askTag := rfl
@[simp] theorem State.setBank_rsp (s : State) (c : Nat) (b : Banks) : (s.setBank c b).rsp = s.rsp := rfl
@[simp] theorem State.setBank_ctlq (s : State) (c : Nat) (b : Banks) : (s.setBank c b).ctlq = s.ctlq := rfl
@[simp] theorem State.setBank_linkTx (s : State) (c : Nat) (b : Banks) : (s.setBank c b).linkTx = s.linkTx := rfl
@[simp] theorem State.setBank_links (s : State) (c : Nat) (b : Banks) : (s.setBank c b).links = s.links := rfl
@[simp] theorem State.setBank_outReqs (s : State) (c : Nat) (b : Banks) : (s.setBank c b).outReqs = s.outReqs := rfl
@[simp] theorem State.setBank_waiting (s : State) (c : Nat) (b : Banks) : (s.setBank c b).waiting = s.waiting := rfl
@[simp] theorem State.setBank_qos (s : State) (c : Nat) (b : Banks) : (s.setBank c b).qos = s.qos := rfl
@[simp] theorem State.setBank_sec (s : State) (c : Nat) (b : Banks) : (s.setBank c b).sec = s.sec := rfl
@[simp] theorem State.setBank_aud (s : State) (c : Nat) (b : Banks) : (s.setBank c b).aud = s.aud := rfl
@[simp] theorem State.setBank_pwr (s : State) (c : Nat) (b : Banks) : (s.setBank c b).pwr = s.pwr := rfl
@[simp] theorem State.setBank_ring (s : State) (c : Nat) (b : Banks) : (s.setBank c b).ring = s.ring := rfl
@[simp] theorem State.setBank_boot (s : State) (c : Nat) (b : Banks) : (s.setBank c b).boot = s.boot := rfl
@[simp] theorem State.setBank_rjobs (s : State) (c : Nat) (b : Banks) : (s.setBank c b).rjobs = s.rjobs := rfl
@[simp] theorem State.setBank_ftests (s : State) (c : Nat) (b : Banks) : (s.setBank c b).ftests = s.ftests := rfl
@[simp] theorem State.setBank_fwd (s : State) (c : Nat) (b : Banks) : (s.setBank c b).fwd = s.fwd := rfl
@[simp] theorem State.setBank_lastQ (s : State) (c : Nat) (b : Banks) : (s.setBank c b).lastQ = s.lastQ := rfl
@[simp] theorem State.setBank_devtime (s : State) (c : Nat) (b : Banks) : (s.setBank c b).devtime = s.devtime := rfl
@[simp] theorem State.setBank_half (s : State) (c : Nat) (b : Banks) : (s.setBank c b).half = s.half := rfl
@[simp] theorem State.setBank_free (s : State) (c : Nat) (b : Banks) : (s.setBank c b).free = s.free := rfl

@[simp] theorem State.dropLatch_pending (s : State) (c : Nat) : (s.dropLatch c).pending = s.pending := rfl
@[simp] theorem State.dropLatch_regs (s : State) (c : Nat) : (s.dropLatch c).regs = s.regs := rfl
@[simp] theorem State.dropLatch_mem (s : State) (c : Nat) : (s.dropLatch c).mem = s.mem := rfl
@[simp] theorem State.dropLatch_psn (s : State) (c : Nat) : (s.dropLatch c).psn = s.psn := rfl
@[simp] theorem State.dropLatch_cores (s : State) (c : Nat) : (s.dropLatch c).cores = s.cores := rfl
@[simp] theorem State.dropLatch_banks (s : State) (c : Nat) : (s.dropLatch c).banks = s.banks := rfl
@[simp] theorem State.dropLatch_routers (s : State) (c : Nat) : (s.dropLatch c).routers = s.routers := rfl
@[simp] theorem State.dropLatch_parts (s : State) (c : Nat) : (s.dropLatch c).parts = s.parts := rfl
@[simp] theorem State.dropLatch_dmas (s : State) (c : Nat) : (s.dropLatch c).dmas = s.dmas := rfl
@[simp] theorem State.dropLatch_gwTx (s : State) (c : Nat) : (s.dropLatch c).gwTx = s.gwTx := rfl
@[simp] theorem State.dropLatch_queues (s : State) (c : Nat) : (s.dropLatch c).queues = s.queues := rfl
@[simp] theorem State.dropLatch_engines (s : State) (c : Nat) : (s.dropLatch c).engines = s.engines := rfl
@[simp] theorem State.dropLatch_msix (s : State) (c : Nat) : (s.dropLatch c).msix = s.msix := rfl
@[simp] theorem State.dropLatch_errs (s : State) (c : Nat) : (s.dropLatch c).errs = s.errs := rfl
@[simp] theorem State.dropLatch_trace (s : State) (c : Nat) : (s.dropLatch c).trace = s.trace := rfl
@[simp] theorem State.dropLatch_nears (s : State) (c : Nat) : (s.dropLatch c).nears = s.nears := rfl
@[simp] theorem State.dropLatch_fars (s : State) (c : Nat) : (s.dropLatch c).fars = s.fars := rfl
@[simp] theorem State.dropLatch_slices (s : State) (c : Nat) : (s.dropLatch c).slices = s.slices := rfl
@[simp] theorem State.dropLatch_scrOld (s : State) (c : Nat) : (s.dropLatch c).scrOld = s.scrOld := rfl
@[simp] theorem State.dropLatch_walk (s : State) (c : Nat) : (s.dropLatch c).walk = s.walk := rfl
@[simp] theorem State.dropLatch_nearCal (s : State) (c : Nat) : (s.dropLatch c).nearCal = s.nearCal := rfl
@[simp] theorem State.dropLatch_farCal (s : State) (c : Nat) : (s.dropLatch c).farCal = s.farCal := rfl
@[simp] theorem State.dropLatch_hbmOk (s : State) (c : Nat) : (s.dropLatch c).hbmOk = s.hbmOk := rfl
@[simp] theorem State.dropLatch_inlet (s : State) (c : Nat) : (s.dropLatch c).inlet = s.inlet := rfl
@[simp] theorem State.dropLatch_ftPend (s : State) (c : Nat) : (s.dropLatch c).ftPend = s.ftPend := rfl
@[simp] theorem State.dropLatch_lineKey (s : State) (c : Nat) : (s.dropLatch c).lineKey = s.lineKey := rfl
@[simp] theorem State.dropLatch_slotKey (s : State) (c : Nat) : (s.dropLatch c).slotKey = s.slotKey := rfl
@[simp] theorem State.dropLatch_keyCount (s : State) (c : Nat) : (s.dropLatch c).keyCount = s.keyCount := rfl
@[simp] theorem State.dropLatch_host (s : State) (c : Nat) : (s.dropLatch c).host = s.host := rfl
@[simp] theorem State.dropLatch_hostMem (s : State) (c : Nat) : (s.dropLatch c).hostMem = s.hostMem := rfl
@[simp] theorem State.dropLatch_hostPsn (s : State) (c : Nat) : (s.dropLatch c).hostPsn = s.hostPsn := rfl
@[simp] theorem State.dropLatch_asks (s : State) (c : Nat) : (s.dropLatch c).asks = s.asks := rfl
@[simp] theorem State.dropLatch_met (s : State) (c : Nat) : (s.dropLatch c).met = s.met := rfl
@[simp] theorem State.dropLatch_msgs (s : State) (c : Nat) : (s.dropLatch c).msgs = s.msgs := rfl
@[simp] theorem State.dropLatch_upsets (s : State) (c : Nat) : (s.dropLatch c).upsets = s.upsets := rfl
@[simp] theorem State.dropLatch_askTag (s : State) (c : Nat) : (s.dropLatch c).askTag = s.askTag := rfl
@[simp] theorem State.dropLatch_rsp (s : State) (c : Nat) : (s.dropLatch c).rsp = s.rsp := rfl
@[simp] theorem State.dropLatch_ctlq (s : State) (c : Nat) : (s.dropLatch c).ctlq = s.ctlq := rfl
@[simp] theorem State.dropLatch_linkTx (s : State) (c : Nat) : (s.dropLatch c).linkTx = s.linkTx := rfl
@[simp] theorem State.dropLatch_links (s : State) (c : Nat) : (s.dropLatch c).links = s.links := rfl
@[simp] theorem State.dropLatch_outReqs (s : State) (c : Nat) : (s.dropLatch c).outReqs = s.outReqs := rfl
@[simp] theorem State.dropLatch_waiting (s : State) (c : Nat) : (s.dropLatch c).waiting = s.waiting := rfl
@[simp] theorem State.dropLatch_qos (s : State) (c : Nat) : (s.dropLatch c).qos = s.qos := rfl
@[simp] theorem State.dropLatch_sec (s : State) (c : Nat) : (s.dropLatch c).sec = s.sec := rfl
@[simp] theorem State.dropLatch_aud (s : State) (c : Nat) : (s.dropLatch c).aud = s.aud := rfl
@[simp] theorem State.dropLatch_pwr (s : State) (c : Nat) : (s.dropLatch c).pwr = s.pwr := rfl
@[simp] theorem State.dropLatch_ring (s : State) (c : Nat) : (s.dropLatch c).ring = s.ring := rfl
@[simp] theorem State.dropLatch_boot (s : State) (c : Nat) : (s.dropLatch c).boot = s.boot := rfl
@[simp] theorem State.dropLatch_rjobs (s : State) (c : Nat) : (s.dropLatch c).rjobs = s.rjobs := rfl
@[simp] theorem State.dropLatch_ftests (s : State) (c : Nat) : (s.dropLatch c).ftests = s.ftests := rfl
@[simp] theorem State.dropLatch_fwd (s : State) (c : Nat) : (s.dropLatch c).fwd = s.fwd := rfl
@[simp] theorem State.dropLatch_lastQ (s : State) (c : Nat) : (s.dropLatch c).lastQ = s.lastQ := rfl
@[simp] theorem State.dropLatch_devtime (s : State) (c : Nat) : (s.dropLatch c).devtime = s.devtime := rfl
@[simp] theorem State.dropLatch_half (s : State) (c : Nat) : (s.dropLatch c).half = s.half := rfl
@[simp] theorem State.dropLatch_free (s : State) (c : Nat) : (s.dropLatch c).free = s.free := rfl

@[simp] theorem State.emit_regs (s : State) (cs : List Instr) : (s.emit cs).regs = s.regs := rfl
@[simp] theorem State.emit_mem (s : State) (cs : List Instr) : (s.emit cs).mem = s.mem := rfl
@[simp] theorem State.emit_psn (s : State) (cs : List Instr) : (s.emit cs).psn = s.psn := rfl
@[simp] theorem State.emit_cores (s : State) (cs : List Instr) : (s.emit cs).cores = s.cores := rfl
@[simp] theorem State.emit_latches (s : State) (cs : List Instr) : (s.emit cs).latches = s.latches := rfl
@[simp] theorem State.emit_banks (s : State) (cs : List Instr) : (s.emit cs).banks = s.banks := rfl
@[simp] theorem State.emit_routers (s : State) (cs : List Instr) : (s.emit cs).routers = s.routers := rfl
@[simp] theorem State.emit_parts (s : State) (cs : List Instr) : (s.emit cs).parts = s.parts := rfl
@[simp] theorem State.emit_dmas (s : State) (cs : List Instr) : (s.emit cs).dmas = s.dmas := rfl
@[simp] theorem State.emit_gwTx (s : State) (cs : List Instr) : (s.emit cs).gwTx = s.gwTx := rfl
@[simp] theorem State.emit_queues (s : State) (cs : List Instr) : (s.emit cs).queues = s.queues := rfl
@[simp] theorem State.emit_engines (s : State) (cs : List Instr) : (s.emit cs).engines = s.engines := rfl
@[simp] theorem State.emit_msix (s : State) (cs : List Instr) : (s.emit cs).msix = s.msix := rfl
@[simp] theorem State.emit_errs (s : State) (cs : List Instr) : (s.emit cs).errs = s.errs := rfl
@[simp] theorem State.emit_trace (s : State) (cs : List Instr) : (s.emit cs).trace = s.trace := rfl
@[simp] theorem State.emit_nears (s : State) (cs : List Instr) : (s.emit cs).nears = s.nears := rfl
@[simp] theorem State.emit_fars (s : State) (cs : List Instr) : (s.emit cs).fars = s.fars := rfl
@[simp] theorem State.emit_slices (s : State) (cs : List Instr) : (s.emit cs).slices = s.slices := rfl
@[simp] theorem State.emit_scrOld (s : State) (cs : List Instr) : (s.emit cs).scrOld = s.scrOld := rfl
@[simp] theorem State.emit_walk (s : State) (cs : List Instr) : (s.emit cs).walk = s.walk := rfl
@[simp] theorem State.emit_nearCal (s : State) (cs : List Instr) : (s.emit cs).nearCal = s.nearCal := rfl
@[simp] theorem State.emit_farCal (s : State) (cs : List Instr) : (s.emit cs).farCal = s.farCal := rfl
@[simp] theorem State.emit_hbmOk (s : State) (cs : List Instr) : (s.emit cs).hbmOk = s.hbmOk := rfl
@[simp] theorem State.emit_inlet (s : State) (cs : List Instr) : (s.emit cs).inlet = s.inlet := rfl
@[simp] theorem State.emit_ftPend (s : State) (cs : List Instr) : (s.emit cs).ftPend = s.ftPend := rfl
@[simp] theorem State.emit_lineKey (s : State) (cs : List Instr) : (s.emit cs).lineKey = s.lineKey := rfl
@[simp] theorem State.emit_slotKey (s : State) (cs : List Instr) : (s.emit cs).slotKey = s.slotKey := rfl
@[simp] theorem State.emit_keyCount (s : State) (cs : List Instr) : (s.emit cs).keyCount = s.keyCount := rfl
@[simp] theorem State.emit_host (s : State) (cs : List Instr) : (s.emit cs).host = s.host := rfl
@[simp] theorem State.emit_hostMem (s : State) (cs : List Instr) : (s.emit cs).hostMem = s.hostMem := rfl
@[simp] theorem State.emit_hostPsn (s : State) (cs : List Instr) : (s.emit cs).hostPsn = s.hostPsn := rfl
@[simp] theorem State.emit_asks (s : State) (cs : List Instr) : (s.emit cs).asks = s.asks := rfl
@[simp] theorem State.emit_met (s : State) (cs : List Instr) : (s.emit cs).met = s.met := rfl
@[simp] theorem State.emit_msgs (s : State) (cs : List Instr) : (s.emit cs).msgs = s.msgs := rfl
@[simp] theorem State.emit_upsets (s : State) (cs : List Instr) : (s.emit cs).upsets = s.upsets := rfl
@[simp] theorem State.emit_askTag (s : State) (cs : List Instr) : (s.emit cs).askTag = s.askTag := rfl
@[simp] theorem State.emit_rsp (s : State) (cs : List Instr) : (s.emit cs).rsp = s.rsp := rfl
@[simp] theorem State.emit_ctlq (s : State) (cs : List Instr) : (s.emit cs).ctlq = s.ctlq := rfl
@[simp] theorem State.emit_linkTx (s : State) (cs : List Instr) : (s.emit cs).linkTx = s.linkTx := rfl
@[simp] theorem State.emit_links (s : State) (cs : List Instr) : (s.emit cs).links = s.links := rfl
@[simp] theorem State.emit_outReqs (s : State) (cs : List Instr) : (s.emit cs).outReqs = s.outReqs := rfl
@[simp] theorem State.emit_waiting (s : State) (cs : List Instr) : (s.emit cs).waiting = s.waiting := rfl
@[simp] theorem State.emit_qos (s : State) (cs : List Instr) : (s.emit cs).qos = s.qos := rfl
@[simp] theorem State.emit_sec (s : State) (cs : List Instr) : (s.emit cs).sec = s.sec := rfl
@[simp] theorem State.emit_aud (s : State) (cs : List Instr) : (s.emit cs).aud = s.aud := rfl
@[simp] theorem State.emit_pwr (s : State) (cs : List Instr) : (s.emit cs).pwr = s.pwr := rfl
@[simp] theorem State.emit_ring (s : State) (cs : List Instr) : (s.emit cs).ring = s.ring := rfl
@[simp] theorem State.emit_boot (s : State) (cs : List Instr) : (s.emit cs).boot = s.boot := rfl
@[simp] theorem State.emit_rjobs (s : State) (cs : List Instr) : (s.emit cs).rjobs = s.rjobs := rfl
@[simp] theorem State.emit_ftests (s : State) (cs : List Instr) : (s.emit cs).ftests = s.ftests := rfl
@[simp] theorem State.emit_fwd (s : State) (cs : List Instr) : (s.emit cs).fwd = s.fwd := rfl
@[simp] theorem State.emit_lastQ (s : State) (cs : List Instr) : (s.emit cs).lastQ = s.lastQ := rfl
@[simp] theorem State.emit_devtime (s : State) (cs : List Instr) : (s.emit cs).devtime = s.devtime := rfl
@[simp] theorem State.emit_half (s : State) (cs : List Instr) : (s.emit cs).half = s.half := rfl
@[simp] theorem State.emit_free (s : State) (cs : List Instr) : (s.emit cs).free = s.free := rfl

@[simp] theorem State.wake_regs (s : State) : (wake s).regs = s.regs := rfl
@[simp] theorem State.wake_mem (s : State) : (wake s).mem = s.mem := rfl
@[simp] theorem State.wake_psn (s : State) : (wake s).psn = s.psn := rfl
@[simp] theorem State.wake_cores (s : State) : (wake s).cores = s.cores := rfl
@[simp] theorem State.wake_latches (s : State) : (wake s).latches = s.latches := rfl
@[simp] theorem State.wake_banks (s : State) : (wake s).banks = s.banks := rfl
@[simp] theorem State.wake_routers (s : State) : (wake s).routers = s.routers := rfl
@[simp] theorem State.wake_parts (s : State) : (wake s).parts = s.parts := rfl
@[simp] theorem State.wake_dmas (s : State) : (wake s).dmas = s.dmas := rfl
@[simp] theorem State.wake_gwTx (s : State) : (wake s).gwTx = s.gwTx := rfl
@[simp] theorem State.wake_queues (s : State) : (wake s).queues = s.queues := rfl
@[simp] theorem State.wake_engines (s : State) : (wake s).engines = s.engines := rfl
@[simp] theorem State.wake_msix (s : State) : (wake s).msix = s.msix := rfl
@[simp] theorem State.wake_errs (s : State) : (wake s).errs = s.errs := rfl
@[simp] theorem State.wake_trace (s : State) : (wake s).trace = s.trace := rfl
@[simp] theorem State.wake_nears (s : State) : (wake s).nears = s.nears := rfl
@[simp] theorem State.wake_fars (s : State) : (wake s).fars = s.fars := rfl
@[simp] theorem State.wake_slices (s : State) : (wake s).slices = s.slices := rfl
@[simp] theorem State.wake_scrOld (s : State) : (wake s).scrOld = s.scrOld := rfl
@[simp] theorem State.wake_walk (s : State) : (wake s).walk = s.walk := rfl
@[simp] theorem State.wake_nearCal (s : State) : (wake s).nearCal = s.nearCal := rfl
@[simp] theorem State.wake_farCal (s : State) : (wake s).farCal = s.farCal := rfl
@[simp] theorem State.wake_hbmOk (s : State) : (wake s).hbmOk = s.hbmOk := rfl
@[simp] theorem State.wake_inlet (s : State) : (wake s).inlet = s.inlet := rfl
@[simp] theorem State.wake_ftPend (s : State) : (wake s).ftPend = s.ftPend := rfl
@[simp] theorem State.wake_lineKey (s : State) : (wake s).lineKey = s.lineKey := rfl
@[simp] theorem State.wake_slotKey (s : State) : (wake s).slotKey = s.slotKey := rfl
@[simp] theorem State.wake_keyCount (s : State) : (wake s).keyCount = s.keyCount := rfl
@[simp] theorem State.wake_host (s : State) : (wake s).host = s.host := rfl
@[simp] theorem State.wake_hostMem (s : State) : (wake s).hostMem = s.hostMem := rfl
@[simp] theorem State.wake_hostPsn (s : State) : (wake s).hostPsn = s.hostPsn := rfl
@[simp] theorem State.wake_asks (s : State) : (wake s).asks = s.asks := rfl
@[simp] theorem State.wake_met (s : State) : (wake s).met = s.met := rfl
@[simp] theorem State.wake_msgs (s : State) : (wake s).msgs = s.msgs := rfl
@[simp] theorem State.wake_upsets (s : State) : (wake s).upsets = s.upsets := rfl
@[simp] theorem State.wake_askTag (s : State) : (wake s).askTag = s.askTag := rfl
@[simp] theorem State.wake_rsp (s : State) : (wake s).rsp = s.rsp := rfl
@[simp] theorem State.wake_ctlq (s : State) : (wake s).ctlq = s.ctlq := rfl
@[simp] theorem State.wake_linkTx (s : State) : (wake s).linkTx = s.linkTx := rfl
@[simp] theorem State.wake_links (s : State) : (wake s).links = s.links := rfl
@[simp] theorem State.wake_outReqs (s : State) : (wake s).outReqs = s.outReqs := rfl
@[simp] theorem State.wake_qos (s : State) : (wake s).qos = s.qos := rfl
@[simp] theorem State.wake_sec (s : State) : (wake s).sec = s.sec := rfl
@[simp] theorem State.wake_aud (s : State) : (wake s).aud = s.aud := rfl
@[simp] theorem State.wake_pwr (s : State) : (wake s).pwr = s.pwr := rfl
@[simp] theorem State.wake_ring (s : State) : (wake s).ring = s.ring := rfl
@[simp] theorem State.wake_boot (s : State) : (wake s).boot = s.boot := rfl
@[simp] theorem State.wake_rjobs (s : State) : (wake s).rjobs = s.rjobs := rfl
@[simp] theorem State.wake_ftests (s : State) : (wake s).ftests = s.ftests := rfl
@[simp] theorem State.wake_fwd (s : State) : (wake s).fwd = s.fwd := rfl
@[simp] theorem State.wake_lastQ (s : State) : (wake s).lastQ = s.lastQ := rfl
@[simp] theorem State.wake_devtime (s : State) : (wake s).devtime = s.devtime := rfl
@[simp] theorem State.wake_half (s : State) : (wake s).half = s.half := rfl
@[simp] theorem State.wake_free (s : State) : (wake s).free = s.free := rfl

@[simp] theorem State.draw_pending (s : State) (w : Nat) : ((s.draw w).2).pending = s.pending := rfl
@[simp] theorem State.draw_regs (s : State) (w : Nat) : ((s.draw w).2).regs = s.regs := rfl
@[simp] theorem State.draw_mem (s : State) (w : Nat) : ((s.draw w).2).mem = s.mem := rfl
@[simp] theorem State.draw_psn (s : State) (w : Nat) : ((s.draw w).2).psn = s.psn := rfl
@[simp] theorem State.draw_cores (s : State) (w : Nat) : ((s.draw w).2).cores = s.cores := rfl
@[simp] theorem State.draw_latches (s : State) (w : Nat) : ((s.draw w).2).latches = s.latches := rfl
@[simp] theorem State.draw_banks (s : State) (w : Nat) : ((s.draw w).2).banks = s.banks := rfl
@[simp] theorem State.draw_routers (s : State) (w : Nat) : ((s.draw w).2).routers = s.routers := rfl
@[simp] theorem State.draw_parts (s : State) (w : Nat) : ((s.draw w).2).parts = s.parts := rfl
@[simp] theorem State.draw_dmas (s : State) (w : Nat) : ((s.draw w).2).dmas = s.dmas := rfl
@[simp] theorem State.draw_gwTx (s : State) (w : Nat) : ((s.draw w).2).gwTx = s.gwTx := rfl
@[simp] theorem State.draw_queues (s : State) (w : Nat) : ((s.draw w).2).queues = s.queues := rfl
@[simp] theorem State.draw_engines (s : State) (w : Nat) : ((s.draw w).2).engines = s.engines := rfl
@[simp] theorem State.draw_msix (s : State) (w : Nat) : ((s.draw w).2).msix = s.msix := rfl
@[simp] theorem State.draw_errs (s : State) (w : Nat) : ((s.draw w).2).errs = s.errs := rfl
@[simp] theorem State.draw_trace (s : State) (w : Nat) : ((s.draw w).2).trace = s.trace := rfl
@[simp] theorem State.draw_nears (s : State) (w : Nat) : ((s.draw w).2).nears = s.nears := rfl
@[simp] theorem State.draw_fars (s : State) (w : Nat) : ((s.draw w).2).fars = s.fars := rfl
@[simp] theorem State.draw_slices (s : State) (w : Nat) : ((s.draw w).2).slices = s.slices := rfl
@[simp] theorem State.draw_scrOld (s : State) (w : Nat) : ((s.draw w).2).scrOld = s.scrOld := rfl
@[simp] theorem State.draw_walk (s : State) (w : Nat) : ((s.draw w).2).walk = s.walk := rfl
@[simp] theorem State.draw_nearCal (s : State) (w : Nat) : ((s.draw w).2).nearCal = s.nearCal := rfl
@[simp] theorem State.draw_farCal (s : State) (w : Nat) : ((s.draw w).2).farCal = s.farCal := rfl
@[simp] theorem State.draw_hbmOk (s : State) (w : Nat) : ((s.draw w).2).hbmOk = s.hbmOk := rfl
@[simp] theorem State.draw_inlet (s : State) (w : Nat) : ((s.draw w).2).inlet = s.inlet := rfl
@[simp] theorem State.draw_ftPend (s : State) (w : Nat) : ((s.draw w).2).ftPend = s.ftPend := rfl
@[simp] theorem State.draw_lineKey (s : State) (w : Nat) : ((s.draw w).2).lineKey = s.lineKey := rfl
@[simp] theorem State.draw_slotKey (s : State) (w : Nat) : ((s.draw w).2).slotKey = s.slotKey := rfl
@[simp] theorem State.draw_keyCount (s : State) (w : Nat) : ((s.draw w).2).keyCount = s.keyCount := rfl
@[simp] theorem State.draw_host (s : State) (w : Nat) : ((s.draw w).2).host = s.host := rfl
@[simp] theorem State.draw_hostMem (s : State) (w : Nat) : ((s.draw w).2).hostMem = s.hostMem := rfl
@[simp] theorem State.draw_hostPsn (s : State) (w : Nat) : ((s.draw w).2).hostPsn = s.hostPsn := rfl
@[simp] theorem State.draw_asks (s : State) (w : Nat) : ((s.draw w).2).asks = s.asks := rfl
@[simp] theorem State.draw_met (s : State) (w : Nat) : ((s.draw w).2).met = s.met := rfl
@[simp] theorem State.draw_msgs (s : State) (w : Nat) : ((s.draw w).2).msgs = s.msgs := rfl
@[simp] theorem State.draw_upsets (s : State) (w : Nat) : ((s.draw w).2).upsets = s.upsets := rfl
@[simp] theorem State.draw_askTag (s : State) (w : Nat) : ((s.draw w).2).askTag = s.askTag := rfl
@[simp] theorem State.draw_rsp (s : State) (w : Nat) : ((s.draw w).2).rsp = s.rsp := rfl
@[simp] theorem State.draw_ctlq (s : State) (w : Nat) : ((s.draw w).2).ctlq = s.ctlq := rfl
@[simp] theorem State.draw_linkTx (s : State) (w : Nat) : ((s.draw w).2).linkTx = s.linkTx := rfl
@[simp] theorem State.draw_links (s : State) (w : Nat) : ((s.draw w).2).links = s.links := rfl
@[simp] theorem State.draw_outReqs (s : State) (w : Nat) : ((s.draw w).2).outReqs = s.outReqs := rfl
@[simp] theorem State.draw_waiting (s : State) (w : Nat) : ((s.draw w).2).waiting = s.waiting := rfl
@[simp] theorem State.draw_qos (s : State) (w : Nat) : ((s.draw w).2).qos = s.qos := rfl
@[simp] theorem State.draw_sec (s : State) (w : Nat) : ((s.draw w).2).sec = s.sec := rfl
@[simp] theorem State.draw_aud (s : State) (w : Nat) : ((s.draw w).2).aud = s.aud := rfl
@[simp] theorem State.draw_pwr (s : State) (w : Nat) : ((s.draw w).2).pwr = s.pwr := rfl
@[simp] theorem State.draw_ring (s : State) (w : Nat) : ((s.draw w).2).ring = s.ring := rfl
@[simp] theorem State.draw_boot (s : State) (w : Nat) : ((s.draw w).2).boot = s.boot := rfl
@[simp] theorem State.draw_rjobs (s : State) (w : Nat) : ((s.draw w).2).rjobs = s.rjobs := rfl
@[simp] theorem State.draw_ftests (s : State) (w : Nat) : ((s.draw w).2).ftests = s.ftests := rfl
@[simp] theorem State.draw_fwd (s : State) (w : Nat) : ((s.draw w).2).fwd = s.fwd := rfl
@[simp] theorem State.draw_lastQ (s : State) (w : Nat) : ((s.draw w).2).lastQ = s.lastQ := rfl
@[simp] theorem State.draw_devtime (s : State) (w : Nat) : ((s.draw w).2).devtime = s.devtime := rfl
@[simp] theorem State.draw_half (s : State) (w : Nat) : ((s.draw w).2).half = s.half := rfl

@[simp] theorem State.wf_pending (s : State) (f : Field) (v : Nat) : (wf s f v).pending = s.pending := rfl
@[simp] theorem State.wf_mem (s : State) (f : Field) (v : Nat) : (wf s f v).mem = s.mem := rfl
@[simp] theorem State.wf_psn (s : State) (f : Field) (v : Nat) : (wf s f v).psn = s.psn := rfl
@[simp] theorem State.wf_cores (s : State) (f : Field) (v : Nat) : (wf s f v).cores = s.cores := rfl
@[simp] theorem State.wf_latches (s : State) (f : Field) (v : Nat) : (wf s f v).latches = s.latches := rfl
@[simp] theorem State.wf_banks (s : State) (f : Field) (v : Nat) : (wf s f v).banks = s.banks := rfl
@[simp] theorem State.wf_routers (s : State) (f : Field) (v : Nat) : (wf s f v).routers = s.routers := rfl
@[simp] theorem State.wf_parts (s : State) (f : Field) (v : Nat) : (wf s f v).parts = s.parts := rfl
@[simp] theorem State.wf_dmas (s : State) (f : Field) (v : Nat) : (wf s f v).dmas = s.dmas := rfl
@[simp] theorem State.wf_gwTx (s : State) (f : Field) (v : Nat) : (wf s f v).gwTx = s.gwTx := rfl
@[simp] theorem State.wf_queues (s : State) (f : Field) (v : Nat) : (wf s f v).queues = s.queues := rfl
@[simp] theorem State.wf_engines (s : State) (f : Field) (v : Nat) : (wf s f v).engines = s.engines := rfl
@[simp] theorem State.wf_msix (s : State) (f : Field) (v : Nat) : (wf s f v).msix = s.msix := rfl
@[simp] theorem State.wf_errs (s : State) (f : Field) (v : Nat) : (wf s f v).errs = s.errs := rfl
@[simp] theorem State.wf_trace (s : State) (f : Field) (v : Nat) : (wf s f v).trace = s.trace := rfl
@[simp] theorem State.wf_nears (s : State) (f : Field) (v : Nat) : (wf s f v).nears = s.nears := rfl
@[simp] theorem State.wf_fars (s : State) (f : Field) (v : Nat) : (wf s f v).fars = s.fars := rfl
@[simp] theorem State.wf_slices (s : State) (f : Field) (v : Nat) : (wf s f v).slices = s.slices := rfl
@[simp] theorem State.wf_scrOld (s : State) (f : Field) (v : Nat) : (wf s f v).scrOld = s.scrOld := rfl
@[simp] theorem State.wf_walk (s : State) (f : Field) (v : Nat) : (wf s f v).walk = s.walk := rfl
@[simp] theorem State.wf_nearCal (s : State) (f : Field) (v : Nat) : (wf s f v).nearCal = s.nearCal := rfl
@[simp] theorem State.wf_farCal (s : State) (f : Field) (v : Nat) : (wf s f v).farCal = s.farCal := rfl
@[simp] theorem State.wf_hbmOk (s : State) (f : Field) (v : Nat) : (wf s f v).hbmOk = s.hbmOk := rfl
@[simp] theorem State.wf_inlet (s : State) (f : Field) (v : Nat) : (wf s f v).inlet = s.inlet := rfl
@[simp] theorem State.wf_ftPend (s : State) (f : Field) (v : Nat) : (wf s f v).ftPend = s.ftPend := rfl
@[simp] theorem State.wf_lineKey (s : State) (f : Field) (v : Nat) : (wf s f v).lineKey = s.lineKey := rfl
@[simp] theorem State.wf_slotKey (s : State) (f : Field) (v : Nat) : (wf s f v).slotKey = s.slotKey := rfl
@[simp] theorem State.wf_keyCount (s : State) (f : Field) (v : Nat) : (wf s f v).keyCount = s.keyCount := rfl
@[simp] theorem State.wf_host (s : State) (f : Field) (v : Nat) : (wf s f v).host = s.host := rfl
@[simp] theorem State.wf_hostMem (s : State) (f : Field) (v : Nat) : (wf s f v).hostMem = s.hostMem := rfl
@[simp] theorem State.wf_hostPsn (s : State) (f : Field) (v : Nat) : (wf s f v).hostPsn = s.hostPsn := rfl
@[simp] theorem State.wf_asks (s : State) (f : Field) (v : Nat) : (wf s f v).asks = s.asks := rfl
@[simp] theorem State.wf_met (s : State) (f : Field) (v : Nat) : (wf s f v).met = s.met := rfl
@[simp] theorem State.wf_msgs (s : State) (f : Field) (v : Nat) : (wf s f v).msgs = s.msgs := rfl
@[simp] theorem State.wf_upsets (s : State) (f : Field) (v : Nat) : (wf s f v).upsets = s.upsets := rfl
@[simp] theorem State.wf_askTag (s : State) (f : Field) (v : Nat) : (wf s f v).askTag = s.askTag := rfl
@[simp] theorem State.wf_rsp (s : State) (f : Field) (v : Nat) : (wf s f v).rsp = s.rsp := rfl
@[simp] theorem State.wf_ctlq (s : State) (f : Field) (v : Nat) : (wf s f v).ctlq = s.ctlq := rfl
@[simp] theorem State.wf_linkTx (s : State) (f : Field) (v : Nat) : (wf s f v).linkTx = s.linkTx := rfl
@[simp] theorem State.wf_links (s : State) (f : Field) (v : Nat) : (wf s f v).links = s.links := rfl
@[simp] theorem State.wf_outReqs (s : State) (f : Field) (v : Nat) : (wf s f v).outReqs = s.outReqs := rfl
@[simp] theorem State.wf_waiting (s : State) (f : Field) (v : Nat) : (wf s f v).waiting = s.waiting := rfl
@[simp] theorem State.wf_qos (s : State) (f : Field) (v : Nat) : (wf s f v).qos = s.qos := rfl
@[simp] theorem State.wf_sec (s : State) (f : Field) (v : Nat) : (wf s f v).sec = s.sec := rfl
@[simp] theorem State.wf_aud (s : State) (f : Field) (v : Nat) : (wf s f v).aud = s.aud := rfl
@[simp] theorem State.wf_pwr (s : State) (f : Field) (v : Nat) : (wf s f v).pwr = s.pwr := rfl
@[simp] theorem State.wf_ring (s : State) (f : Field) (v : Nat) : (wf s f v).ring = s.ring := rfl
@[simp] theorem State.wf_boot (s : State) (f : Field) (v : Nat) : (wf s f v).boot = s.boot := rfl
@[simp] theorem State.wf_rjobs (s : State) (f : Field) (v : Nat) : (wf s f v).rjobs = s.rjobs := rfl
@[simp] theorem State.wf_ftests (s : State) (f : Field) (v : Nat) : (wf s f v).ftests = s.ftests := rfl
@[simp] theorem State.wf_fwd (s : State) (f : Field) (v : Nat) : (wf s f v).fwd = s.fwd := rfl
@[simp] theorem State.wf_lastQ (s : State) (f : Field) (v : Nat) : (wf s f v).lastQ = s.lastQ := rfl
@[simp] theorem State.wf_devtime (s : State) (f : Field) (v : Nat) : (wf s f v).devtime = s.devtime := rfl
@[simp] theorem State.wf_half (s : State) (f : Field) (v : Nat) : (wf s f v).half = s.half := rfl
@[simp] theorem State.wf_free (s : State) (f : Field) (v : Nat) : (wf s f v).free = s.free := rfl
@[simp] theorem State.hwf_pending (s : State) (f : Field) (v : Nat) : (hwf s f v).pending = s.pending := by unfold hwf; split <;> rfl
@[simp] theorem State.hwf_mem (s : State) (f : Field) (v : Nat) : (hwf s f v).mem = s.mem := by unfold hwf; split <;> rfl
@[simp] theorem State.hwf_psn (s : State) (f : Field) (v : Nat) : (hwf s f v).psn = s.psn := by unfold hwf; split <;> rfl
@[simp] theorem State.hwf_cores (s : State) (f : Field) (v : Nat) : (hwf s f v).cores = s.cores := by unfold hwf; split <;> rfl
@[simp] theorem State.hwf_latches (s : State) (f : Field) (v : Nat) : (hwf s f v).latches = s.latches := by unfold hwf; split <;> rfl
@[simp] theorem State.hwf_banks (s : State) (f : Field) (v : Nat) : (hwf s f v).banks = s.banks := by unfold hwf; split <;> rfl
@[simp] theorem State.hwf_routers (s : State) (f : Field) (v : Nat) : (hwf s f v).routers = s.routers := by unfold hwf; split <;> rfl
@[simp] theorem State.hwf_parts (s : State) (f : Field) (v : Nat) : (hwf s f v).parts = s.parts := by unfold hwf; split <;> rfl
@[simp] theorem State.hwf_dmas (s : State) (f : Field) (v : Nat) : (hwf s f v).dmas = s.dmas := by unfold hwf; split <;> rfl
@[simp] theorem State.hwf_gwTx (s : State) (f : Field) (v : Nat) : (hwf s f v).gwTx = s.gwTx := by unfold hwf; split <;> rfl
@[simp] theorem State.hwf_queues (s : State) (f : Field) (v : Nat) : (hwf s f v).queues = s.queues := by unfold hwf; split <;> rfl
@[simp] theorem State.hwf_engines (s : State) (f : Field) (v : Nat) : (hwf s f v).engines = s.engines := by unfold hwf; split <;> rfl
@[simp] theorem State.hwf_msix (s : State) (f : Field) (v : Nat) : (hwf s f v).msix = s.msix := by unfold hwf; split <;> rfl
@[simp] theorem State.hwf_errs (s : State) (f : Field) (v : Nat) : (hwf s f v).errs = s.errs := by unfold hwf; split <;> rfl
@[simp] theorem State.hwf_trace (s : State) (f : Field) (v : Nat) : (hwf s f v).trace = s.trace := by unfold hwf; split <;> rfl
@[simp] theorem State.hwf_nears (s : State) (f : Field) (v : Nat) : (hwf s f v).nears = s.nears := by unfold hwf; split <;> rfl
@[simp] theorem State.hwf_fars (s : State) (f : Field) (v : Nat) : (hwf s f v).fars = s.fars := by unfold hwf; split <;> rfl
@[simp] theorem State.hwf_slices (s : State) (f : Field) (v : Nat) : (hwf s f v).slices = s.slices := by unfold hwf; split <;> rfl
@[simp] theorem State.hwf_scrOld (s : State) (f : Field) (v : Nat) : (hwf s f v).scrOld = s.scrOld := by unfold hwf; split <;> rfl
@[simp] theorem State.hwf_walk (s : State) (f : Field) (v : Nat) : (hwf s f v).walk = s.walk := by unfold hwf; split <;> rfl
@[simp] theorem State.hwf_nearCal (s : State) (f : Field) (v : Nat) : (hwf s f v).nearCal = s.nearCal := by unfold hwf; split <;> rfl
@[simp] theorem State.hwf_farCal (s : State) (f : Field) (v : Nat) : (hwf s f v).farCal = s.farCal := by unfold hwf; split <;> rfl
@[simp] theorem State.hwf_hbmOk (s : State) (f : Field) (v : Nat) : (hwf s f v).hbmOk = s.hbmOk := by unfold hwf; split <;> rfl
@[simp] theorem State.hwf_inlet (s : State) (f : Field) (v : Nat) : (hwf s f v).inlet = s.inlet := by unfold hwf; split <;> rfl
@[simp] theorem State.hwf_ftPend (s : State) (f : Field) (v : Nat) : (hwf s f v).ftPend = s.ftPend := by unfold hwf; split <;> rfl
@[simp] theorem State.hwf_lineKey (s : State) (f : Field) (v : Nat) : (hwf s f v).lineKey = s.lineKey := by unfold hwf; split <;> rfl
@[simp] theorem State.hwf_slotKey (s : State) (f : Field) (v : Nat) : (hwf s f v).slotKey = s.slotKey := by unfold hwf; split <;> rfl
@[simp] theorem State.hwf_keyCount (s : State) (f : Field) (v : Nat) : (hwf s f v).keyCount = s.keyCount := by unfold hwf; split <;> rfl
@[simp] theorem State.hwf_host (s : State) (f : Field) (v : Nat) : (hwf s f v).host = s.host := by unfold hwf; split <;> rfl
@[simp] theorem State.hwf_hostMem (s : State) (f : Field) (v : Nat) : (hwf s f v).hostMem = s.hostMem := by unfold hwf; split <;> rfl
@[simp] theorem State.hwf_hostPsn (s : State) (f : Field) (v : Nat) : (hwf s f v).hostPsn = s.hostPsn := by unfold hwf; split <;> rfl
@[simp] theorem State.hwf_asks (s : State) (f : Field) (v : Nat) : (hwf s f v).asks = s.asks := by unfold hwf; split <;> rfl
@[simp] theorem State.hwf_msgs (s : State) (f : Field) (v : Nat) : (hwf s f v).msgs = s.msgs := by unfold hwf; split <;> rfl
@[simp] theorem State.hwf_upsets (s : State) (f : Field) (v : Nat) : (hwf s f v).upsets = s.upsets := by unfold hwf; split <;> rfl
@[simp] theorem State.hwf_askTag (s : State) (f : Field) (v : Nat) : (hwf s f v).askTag = s.askTag := by unfold hwf; split <;> rfl
@[simp] theorem State.hwf_rsp (s : State) (f : Field) (v : Nat) : (hwf s f v).rsp = s.rsp := by unfold hwf; split <;> rfl
@[simp] theorem State.hwf_ctlq (s : State) (f : Field) (v : Nat) : (hwf s f v).ctlq = s.ctlq := by unfold hwf; split <;> rfl
@[simp] theorem State.hwf_linkTx (s : State) (f : Field) (v : Nat) : (hwf s f v).linkTx = s.linkTx := by unfold hwf; split <;> rfl
@[simp] theorem State.hwf_links (s : State) (f : Field) (v : Nat) : (hwf s f v).links = s.links := by unfold hwf; split <;> rfl
@[simp] theorem State.hwf_outReqs (s : State) (f : Field) (v : Nat) : (hwf s f v).outReqs = s.outReqs := by unfold hwf; split <;> rfl
@[simp] theorem State.hwf_waiting (s : State) (f : Field) (v : Nat) : (hwf s f v).waiting = s.waiting := by unfold hwf; split <;> rfl
@[simp] theorem State.hwf_qos (s : State) (f : Field) (v : Nat) : (hwf s f v).qos = s.qos := by unfold hwf; split <;> rfl
@[simp] theorem State.hwf_sec (s : State) (f : Field) (v : Nat) : (hwf s f v).sec = s.sec := by unfold hwf; split <;> rfl
@[simp] theorem State.hwf_aud (s : State) (f : Field) (v : Nat) : (hwf s f v).aud = s.aud := by unfold hwf; split <;> rfl
@[simp] theorem State.hwf_pwr (s : State) (f : Field) (v : Nat) : (hwf s f v).pwr = s.pwr := by unfold hwf; split <;> rfl
@[simp] theorem State.hwf_ring (s : State) (f : Field) (v : Nat) : (hwf s f v).ring = s.ring := by unfold hwf; split <;> rfl
@[simp] theorem State.hwf_boot (s : State) (f : Field) (v : Nat) : (hwf s f v).boot = s.boot := by unfold hwf; split <;> rfl
@[simp] theorem State.hwf_rjobs (s : State) (f : Field) (v : Nat) : (hwf s f v).rjobs = s.rjobs := by unfold hwf; split <;> rfl
@[simp] theorem State.hwf_ftests (s : State) (f : Field) (v : Nat) : (hwf s f v).ftests = s.ftests := by unfold hwf; split <;> rfl
@[simp] theorem State.hwf_fwd (s : State) (f : Field) (v : Nat) : (hwf s f v).fwd = s.fwd := by unfold hwf; split <;> rfl
@[simp] theorem State.hwf_lastQ (s : State) (f : Field) (v : Nat) : (hwf s f v).lastQ = s.lastQ := by unfold hwf; split <;> rfl
@[simp] theorem State.hwf_devtime (s : State) (f : Field) (v : Nat) : (hwf s f v).devtime = s.devtime := by unfold hwf; split <;> rfl
@[simp] theorem State.hwf_half (s : State) (f : Field) (v : Nat) : (hwf s f v).half = s.half := by unfold hwf; split <;> rfl
@[simp] theorem State.hwf_free (s : State) (f : Field) (v : Nat) : (hwf s f v).free = s.free := by unfold hwf; split <;> rfl

end Sys2Proof.Machine
end

