-- ==== Sys2Proof/Laws/Tables.lean ====
section
/-! SUPPORT. Sparse tables and memory bytes: what a read after a write gives, and that writes keep the canonical form. -/
namespace Sys2Proof.Machine

/-! Tables. -/

/-- Keys strictly rise. -/
abbrev Tab.Sorted {α : Type} (t : Tab α) : Prop := (t.map (·.1)).Pairwise (· < ·)

@[simp] theorem tfind_nil {α : Type} (k : Nat) : tfind ([] : Tab α) k = none := rfl
@[simp] theorem tget_nil {α : Type} (d : α) (k : Nat) : tget d [] k = d := rfl
@[simp] theorem terase_nil {α : Type} (k : Nat) : terase ([] : Tab α) k = [] := rfl

theorem tfind_cons {α : Type} (j : Nat) (v : α) (r : Tab α) (k : Nat) :
    tfind ((j, v) :: r) k = if j = k then some v else tfind r k := rfl

theorem tfind_terase {α : Type} (t : Tab α) (k j : Nat) :
    tfind (terase t k) j = if j = k then none else tfind t j := by
  induction t with
  | nil => simp
  | cons e r ih =>
    obtain ⟨i, v⟩ := e
    by_cases hi : i = k
    · have : terase ((i, v) :: r) k = terase r k := by simp [terase, hi]
      rw [this, ih, tfind_cons]
      split <;> rename_i h
      · rfl
      · rw [if_neg (by omega)]
    · have : terase ((i, v) :: r) k = (i, v) :: terase r k := by simp [terase, hi]
      rw [this, tfind_cons, tfind_cons, ih]
      split <;> rename_i h
      · rw [if_neg (by omega)]
      · rfl

theorem tfind_tinsert {α : Type} (k : Nat) (v : α) (t : Tab α) (h : tfind t k = none) (j : Nat) :
    tfind (tinsert k v t) j = if j = k then some v else tfind t j := by
  induction t with
  | nil => simp only [tinsert, tfind_cons, tfind_nil]; split <;> split <;> first | rfl | omega
  | cons e r ih =>
    obtain ⟨i, w⟩ := e
    simp only [tinsert]
    rw [tfind_cons] at h
    split at h
    · cases h
    · rename_i hik
      split
      · rw [tfind_cons]; split <;> split <;> first | rfl | omega
      · rw [tfind_cons, tfind_cons, ih h]
        split
        · rw [if_neg (by omega)]
        · rfl

theorem tfind_tset {α : Type} (t : Tab α) (k : Nat) (v : α) (j : Nat) :
    tfind (tset t k v) j = if j = k then some v else tfind t j := by
  rw [tset, tfind_tinsert _ _ _ (by rw [tfind_terase, if_pos rfl]), tfind_terase]
  split <;> rfl

@[simp] theorem tfind_tset_same {α : Type} (t : Tab α) (k : Nat) (v : α) : tfind (tset t k v) k = some v := by
  rw [tfind_tset, if_pos rfl]

theorem tfind_tset_ne {α : Type} (t : Tab α) {k j : Nat} (v : α) (h : j ≠ k) : tfind (tset t k v) j = tfind t j := by
  rw [tfind_tset, if_neg h]

theorem tget_tset {α : Type} (d : α) (t : Tab α) (k : Nat) (v : α) (j : Nat) :
    tget d (tset t k v) j = if j = k then v else tget d t j := by
  simp only [tget, tfind_tset]; split <;> rfl

@[simp] theorem tget_tset_same {α : Type} (d : α) (t : Tab α) (k : Nat) (v : α) : tget d (tset t k v) k = v := by
  rw [tget_tset, if_pos rfl]

theorem tget_tset_ne {α : Type} (d : α) (t : Tab α) {k j : Nat} (v : α) (h : j ≠ k) :
    tget d (tset t k v) j = tget d t j := by
  rw [tget_tset, if_neg h]

theorem tget_terase {α : Type} (d : α) (t : Tab α) (k j : Nat) :
    tget d (terase t k) j = if j = k then d else tget d t j := by
  simp only [tget, tfind_terase]; split <;> rfl

/-! Order of keys. -/

theorem mem_tinsert {α : Type} {k : Nat} {v : α} {t : Tab α} {e : Nat × α} :
    e ∈ tinsert k v t ↔ e = (k, v) ∨ e ∈ t := by
  induction t with
  | nil => simp [tinsert]
  | cons a r ih =>
    simp only [tinsert]
    split
    · simp
    · simp only [List.mem_cons, ih]; tauto

theorem tinsert_sorted {α : Type} {t : Tab α} (k : Nat) (v : α) (ht : Tab.Sorted t) (hk : ∀ e ∈ t, e.1 ≠ k) :
    Tab.Sorted (tinsert k v t) := by
  induction t with
  | nil => simp [tinsert, Tab.Sorted]
  | cons a r ih =>
    simp only [Tab.Sorted, List.map_cons, List.pairwise_cons, List.mem_map] at ht
    obtain ⟨h1, h2⟩ := ht
    have hak := hk a (by simp)
    simp only [tinsert]
    split
    · rename_i hlt
      simp only [Tab.Sorted, List.map_cons, List.pairwise_cons, List.mem_cons, List.mem_map]
      refine ⟨?_, ?_, h2⟩
      · rintro x (rfl | ⟨e, he, rfl⟩)
        · exact hlt
        · exact lt_trans hlt (h1 _ ⟨e, he, rfl⟩)
      · rintro x ⟨e, he, rfl⟩; exact h1 _ ⟨e, he, rfl⟩
    · simp only [Tab.Sorted, List.map_cons, List.pairwise_cons, List.mem_map]
      refine ⟨?_, ih h2 fun e he => hk e (by simp [he])⟩
      rintro x ⟨e, he, rfl⟩
      rcases mem_tinsert.1 he with rfl | he
      · simp only; omega
      · exact h1 _ ⟨e, he, rfl⟩

theorem terase_sorted {α : Type} {t : Tab α} (k : Nat) (ht : Tab.Sorted t) : Tab.Sorted (terase t k) :=
  ht.sublist (List.filter_sublist.map _)

theorem terase_ne {α : Type} {t : Tab α} {k : Nat} : ∀ e ∈ terase t k, e.1 ≠ k := by
  intro e he; simpa using (List.mem_filter.1 he).2

/-- A write keeps the order of keys. -/
theorem tset_sorted {α : Type} {t : Tab α} (k : Nat) (v : α) (ht : Tab.Sorted t) : Tab.Sorted (tset t k v) :=
  tinsert_sorted k v (terase_sorted k ht) terase_ne

/-! Memory. -/

theorem Memory.wf_iff (m : List Host.Cell) :
    Memory.wf m = true ↔ Tab.Sorted m ∧ ∀ e ∈ m, e.2 ≠ 0 := by
  induction m with
  | nil => simp [Memory.wf, Tab.Sorted]
  | cons e r ih =>
    obtain ⟨a, b⟩ := e
    cases r with
    | nil => simp [Memory.wf, Tab.Sorted]
    | cons f r =>
      obtain ⟨a', b'⟩ := f
      simp only [Memory.wf, Bool.and_eq_true, decide_eq_true_eq, ih]
      simp only [Tab.Sorted, List.map_cons, List.pairwise_cons, List.mem_cons, List.mem_map]
      constructor
      · rintro ⟨⟨h1, h2⟩, ⟨h3, h4⟩, h5⟩
        refine ⟨⟨?_, h3, h4⟩, ?_⟩
        · rintro x (rfl | ⟨e, he, rfl⟩)
          · exact h1
          · exact lt_trans h1 (h3 _ ⟨e, he, rfl⟩)
        · rintro e (rfl | he)
          · exact h2
          · exact h5 e he
      · rintro ⟨⟨h1, h2, h3⟩, h4⟩
        exact ⟨⟨h1 _ (.inl rfl), h4 _ (.inl rfl)⟩, ⟨h2, h3⟩, fun e he => h4 e (.inr he)⟩

/-- R14, log entry 2: no byte is listed after reset. -/
theorem reset_mem_wf : Memory.wf State.reset.mem = true := rfl

/-- One byte written keeps the canonical form. -/
theorem memSet_wf {m : List Host.Cell} (h : Memory.wf m = true) (a : Nat) (b : Byte) : Memory.wf (memSet m a b) = true := by
  rw [Memory.wf_iff] at h ⊢
  unfold memSet
  split
  · exact ⟨terase_sorted a h.1, fun e he => h.2 e (List.mem_filter.1 he).1⟩
  · rename_i hb
    refine ⟨tset_sorted a b h.1, fun e he => ?_⟩
    rcases mem_tinsert.1 he with rfl | he
    · exact hb
    · exact h.2 e (List.mem_filter.1 he).1

/-- A write of any length keeps the canonical form. -/
theorem memWrite_wf {m : List Host.Cell} (h : Memory.wf m = true) (a n x : Nat) : Memory.wf (memWrite m a n x) = true := by
  induction n generalizing m a x with
  | zero => exact h
  | succ n ih => exact ih (memSet_wf h a _) _ _

/-- A byte read after a byte written. -/
theorem memGet_memSet (m : List Host.Cell) (a : Nat) (b : Byte) (j : Nat) :
    memGet (memSet m a b) j = if j = a then b else memGet m j := by
  unfold memSet memGet
  split
  · rename_i hb; rw [tget_terase, hb]
  · rw [tget_tset]

/-- A byte outside what is written reads as before. -/
theorem memGet_memWrite_out (m : List Host.Cell) (a n x j : Nat) (h : j < a ∨ a + n ≤ j) :
    memGet (memWrite m a n x) j = memGet m j := by
  induction n generalizing m a x with
  | zero => rfl
  | succ n ih =>
    rw [memWrite, ih _ _ _ (by omega), memGet_memSet, if_neg (by omega)]

/-- A byte inside what is written reads its byte of the value. -/
theorem memGet_memWrite_in (m : List Host.Cell) (a n x i : Nat) (h : i < n) :
    memGet (memWrite m a n x) (a + i) = BitVec.ofNat 8 (x / 256 ^ i) := by
  induction n generalizing m a x i with
  | zero => omega
  | succ n ih =>
    cases i with
    | zero =>
      rw [memWrite, memGet_memWrite_out _ _ _ _ _ (by omega), memGet_memSet, if_pos (by omega)]
      simp
    | succ i =>
      rw [memWrite, show a + (i + 1) = (a + 1) + i by omega, ih _ _ _ _ (by omega), Nat.div_div_eq_div_mul, pow_succ']

/-- A read of what was written gives the value, cut to its length. -/
theorem memRead_memWrite (m : List Host.Cell) (a n x : Nat) : memRead (memWrite m a n x) a n = x % 256 ^ n := by
  have key : ∀ (k i : Nat), i + k ≤ n → memRead (memWrite m a n x) (a + i) k = x / 256 ^ i % 256 ^ k := by
    intro k
    induction k with
    | zero => intro i _; simp [memRead, Nat.mod_one]
    | succ k ih =>
      intro i hi
      rw [memRead, memGet_memWrite_in _ _ _ _ _ (by omega), show a + i + 1 = a + (i + 1) by omega, ih (i + 1) (by omega)]
      rw [BitVec.toNat_ofNat, pow_succ 256 i, ← Nat.div_div_eq_div_mul, pow_succ' 256 k, Nat.mod_mul]
  simpa using key n 0 (by omega)

/-- A read outside what was written gives what it gave before. -/
theorem memRead_memWrite_out (m : List Host.Cell) (a n x b k : Nat) (h : b + k ≤ a ∨ a + n ≤ b) :
    memRead (memWrite m a n x) b k = memRead m b k := by
  induction k generalizing b with
  | zero => rfl
  | succ k ih =>
    rw [memRead, memRead, ih (b + 1) (by omega), memGet_memWrite_out _ _ _ _ _ (by omega)]

end Sys2Proof.Machine
end

