-- ==== Sys2Proof/Laws/Parts.lean ====
section
/-! SUPPORT. Parts of the state and fields of registers: what a read after a write gives. -/
namespace Sys2Proof.Machine

theorem State.core_setCore (s : State) (c : Nat) (k : Core) (d : Nat) :
    (s.setCore c k).core d = if d = c then k else s.core d := tget_tset _ _ _ _ _
@[simp] theorem State.core_setCore_same (s : State) (c : Nat) (k : Core) : (s.setCore c k).core c = k :=
  tget_tset_same _ _ _ _
theorem State.router_setRouter (s : State) (c : Nat) (k : Router) (d : Nat) :
    (s.setRouter c k).router d = if d = c then k else s.router d := tget_tset _ _ _ _ _
@[simp] theorem State.router_setRouter_same (s : State) (c : Nat) (k : Router) : (s.setRouter c k).router c = k :=
  tget_tset_same _ _ _ _
theorem State.part_setPart (s : State) (c : Nat) (k : Part) (d : Nat) :
    (s.setPart c k).part d = if d = c then k else s.part d := tget_tset _ _ _ _ _
@[simp] theorem State.part_setPart_same (s : State) (c : Nat) (k : Part) : (s.setPart c k).part c = k :=
  tget_tset_same _ _ _ _
theorem State.dma_setDma (s : State) (c : Nat) (k : Dma) (d : Nat) :
    (s.setDma c k).dma d = if d = c then k else s.dma d := tget_tset _ _ _ _ _
@[simp] theorem State.dma_setDma_same (s : State) (c : Nat) (k : Dma) : (s.setDma c k).dma c = k :=
  tget_tset_same _ _ _ _
theorem State.queue_setQueue (s : State) (c : Nat) (k : Queue) (d : Nat) :
    (s.setQueue c k).queue d = if d = c then k else s.queue d := tget_tset _ _ _ _ _
@[simp] theorem State.queue_setQueue_same (s : State) (c : Nat) (k : Queue) : (s.setQueue c k).queue c = k :=
  tget_tset_same _ _ _ _
theorem State.engine_setEngine (s : State) (c : Nat) (k : Engine) (d : Nat) :
    (s.setEngine c k).engine d = if d = c then k else s.engine d := tget_tset _ _ _ _ _
@[simp] theorem State.engine_setEngine_same (s : State) (c : Nat) (k : Engine) : (s.setEngine c k).engine c = k :=
  tget_tset_same _ _ _ _
theorem State.latch_setLatch (s : State) (c : Nat) (l : Latch) (d : Nat) :
    (s.setLatch c l).latch d = if d = c then some l else s.latch d := tfind_tset _ _ _ _
@[simp] theorem State.latch_setLatch_same (s : State) (c : Nat) (l : Latch) : (s.setLatch c l).latch c = some l :=
  tfind_tset_same _ _ _

/-- A register word after a word is stored. -/
theorem State.reg_setReg (s : State) (off : Nat) (v : BitVec 256) (o : Nat) :
    (s.setReg off v).reg o = if o = off then v else s.reg o := by
  simp only [State.reg, State.setReg, tfind_tset]; by_cases h : o = off <;> simp [h]

@[simp] theorem State.reg_setReg_same (s : State) (off : Nat) (v : BitVec 256) : (s.setReg off v).reg off = v := by
  rw [State.reg_setReg, if_pos rfl]

theorem State.reg_setReg_ne (s : State) {off o : Nat} (v : BitVec 256) (h : o ≠ off) :
    (s.setReg off v).reg o = s.reg o := by
  rw [State.reg_setReg, if_neg h]

/-- Registers are those of the register file alone. -/
theorem State.reg_of_regs {s t : State} (h : s.regs = t.regs) (o : Nat) : s.reg o = t.reg o := by
  simp only [State.reg, h]

theorem rf_of_regs {s t : State} (h : s.regs = t.regs) (f : Field) : rf s f = rf t f := by
  simp only [rf, State.reg_of_regs h]

/-! Fields of words. -/

theorem bits_lt (x lo w : Nat) : bits x lo w < 2 ^ w := Nat.mod_lt _ (by positivity)

theorem putBits_div (x lo w v : Nat) : putBits x lo w v / 2 ^ lo = v % 2 ^ w + 2 ^ w * (x / 2 ^ (lo + w)) := by
  unfold putBits
  have h : x % 2 ^ lo < 2 ^ lo := Nat.mod_lt _ (by positivity)
  have e : x % 2 ^ lo + 2 ^ lo * (v % 2 ^ w) + 2 ^ (lo + w) * (x / 2 ^ (lo + w)) =
      x % 2 ^ lo + 2 ^ lo * (v % 2 ^ w + 2 ^ w * (x / 2 ^ (lo + w))) := by rw [pow_add]; ring
  rw [e, Nat.add_mul_div_left _ _ (by positivity), Nat.div_eq_of_lt h, zero_add]

/-- A field reads what was written, cut to its width. -/
theorem bits_putBits (x lo w v : Nat) : bits (putBits x lo w v) lo w = v % 2 ^ w := by
  unfold bits
  rw [putBits_div, Nat.add_mul_mod_self_left, Nat.mod_mod]

theorem putBits_mod (x lo w v : Nat) : putBits x lo w v % 2 ^ lo = x % 2 ^ lo := by
  unfold putBits
  rw [pow_add, mul_assoc, Nat.add_mul_mod_self_left, Nat.add_mul_mod_self_left, Nat.mod_mod]

theorem putBits_top (x lo w v : Nat) : putBits x lo w v / 2 ^ (lo + w) = x / 2 ^ (lo + w) := by
  rw [pow_add, ← Nat.div_div_eq_div_mul, putBits_div, Nat.add_mul_div_left _ _ (by positivity),
    Nat.div_eq_of_lt (Nat.mod_lt _ (by positivity)), zero_add, pow_add]

/-- A field below or above the one written reads as before. -/
theorem bits_putBits_ne (x lo w v lo' w' : Nat) (h : lo' + w' ≤ lo ∨ lo + w ≤ lo') :
    bits (putBits x lo w v) lo' w' = bits x lo' w' := by
  unfold bits
  rcases h with h | h
  · have e : ∀ y : Nat, y / 2 ^ lo' % 2 ^ w' = y % 2 ^ lo % 2 ^ (lo' + w') / 2 ^ lo' := by
      intro y
      rw [Nat.mod_mod_of_dvd _ (pow_dvd_pow 2 h), pow_add, Nat.mod_mul_right_div_self]
    rw [e, e, putBits_mod]
  · obtain ⟨d, rfl⟩ := Nat.exists_eq_add_of_le h
    have e : ∀ y : Nat, y / 2 ^ (lo + w + d) = y / 2 ^ (lo + w) / 2 ^ d := by
      intro y; rw [pow_add 2 (lo + w), Nat.div_div_eq_div_mul]
    rw [e, e, putBits_top]

theorem putBits_lt (x lo w v n : Nat) (h : lo + w ≤ n) (hx : x < 2 ^ n) : putBits x lo w v < 2 ^ n := by
  have ht : putBits x lo w v / 2 ^ (lo + w) < 2 ^ (n - (lo + w)) := by
    rw [putBits_top]
    rw [Nat.div_lt_iff_lt_mul (by positivity), ← pow_add]
    simpa [Nat.sub_add_cancel h] using hx
  rw [Nat.div_lt_iff_lt_mul (by positivity), ← pow_add, Nat.sub_add_cancel h] at ht
  exact ht

/-- A field within its 256-bit word. -/
abbrev Field.ok (f : Field) : Prop := f.lo + f.w ≤ 256

/-- A field the hardware writes reads what was written, cut to its width. -/
theorem rf_wf_same (s : State) (f : Field) (v : Nat) (h : f.ok) : rf (wf s f v) f = v % 2 ^ f.w := by
  simp only [rf, wf, State.reg_setReg_same, BitVec.toNat_ofNat]
  rw [Nat.mod_eq_of_lt (putBits_lt _ _ _ _ _ h (s.reg f.off).isLt), bits_putBits]

/-- A field of another word, or another place of the word, reads as before. -/
theorem rf_wf_ne (s : State) (f g : Field) (v : Nat) (hf : f.ok)
    (h : g.off ≠ f.off ∨ g.lo + g.w ≤ f.lo ∨ f.lo + f.w ≤ g.lo) : rf (wf s f v) g = rf s g := by
  simp only [rf, wf, State.reg_setReg]
  split
  · rename_i e
    rw [BitVec.toNat_ofNat, Nat.mod_eq_of_lt (putBits_lt _ _ _ _ _ hf (s.reg f.off).isLt), e]
    exact bits_putBits_ne _ _ _ _ _ _ (h.resolve_left fun k => k e)
  · rfl

/-- The register file keeps its order. -/
theorem setReg_sorted (s : State) (off : Nat) (v : BitVec 256) (h : Tab.Sorted s.regs) :
    Tab.Sorted (s.setReg off v).regs := tset_sorted _ _ h

end Sys2Proof.Machine
end

