-- ==== Sys2Proof/Laws/Bundle.lean ====
section
/-! SUPPORT. What the shared operations of a bundle do: a field that issues, one that cannot, results that land, a bank that serves. -/
namespace Sys2Proof.Machine

/-! Registers of a core. -/

theorem Core.s_setS (k : Core) (n m : Nat) (x : Word) (h : m ≠ n) : (k.setS n x).s m = k.s m := by
  simp only [Core.s, Core.setS]; rw [tget_tset, if_neg h]
@[simp] theorem Core.s_setS_same (k : Core) (n : Nat) (x : Word) : (k.setS n x).s n = x := tget_tset_same _ _ _ _
theorem Core.a_setA (k : Core) (n m : Nat) (x : CAddr) (h : m ≠ n) : (k.setA n x).a m = k.a m := by
  simp only [Core.a, Core.setA]; rw [tget_tset, if_neg h]
@[simp] theorem Core.a_setA_same (k : Core) (n : Nat) (x : CAddr) : (k.setA n x).a n = x := tget_tset_same _ _ _ _
@[simp] theorem Core.v_setV_same (k : Core) (n : Nat) (x : Vec) (p : Bool) : (k.setV n x p).v n = x := tget_tset_same _ _ _ _

@[simp] theorem onCore_core (s : State) (c : Nat) (f : Core → Core) : (onCore s c f).core c = f (s.core c) := by
  simp only [onCore, State.core_setCore_same]
theorem onCore_core_ne (s : State) (c d : Nat) (f : Core → Core) (h : d ≠ c) : (onCore s c f).core d = s.core d := by
  simp only [onCore, State.core_setCore, if_neg h]
@[simp] theorem onCore_mem (s : State) (c : Nat) (f : Core → Core) : (onCore s c f).mem = s.mem := rfl
@[simp] theorem onCore_regs (s : State) (c : Nat) (f : Core → Core) : (onCore s c f).regs = s.regs := rfl
@[simp] theorem onCore_parts (s : State) (c : Nat) (f : Core → Core) : (onCore s c f).parts = s.parts := rfl
@[simp] theorem onCore_pending (s : State) (c : Nat) (f : Core → Core) : (onCore s c f).pending = s.pending := rfl

/-! Fields of a bundle. -/

/-- A field whose registers have no write pending and whose body gives a state leaves that state; the last one completes the
bundle. -/
theorem field_some {s s1 s2 : State} {sl : Slot} {l : Latch} {ss vs : List Nat} {body : Latch → State → Option State}
    (ho : openLatch s sl = some (s1, l)) (hs : ∀ r ∈ ss, l.snap.busyS r = false) (hv : ∀ r ∈ vs, l.snap.busyV r = false)
    (hb : body l s1 = some s2) :
    field s sl ss vs body = if sl.last then complete s2 sl.core ((s2.latch sl.core).getD l) else s2 := by
  have h : (ss.any l.snap.busyS || vs.any l.snap.busyV) = false := by
    rw [Bool.or_eq_false_iff, List.any_eq_false, List.any_eq_false]
    exact ⟨fun r hr => by simp [hs r hr], fun r hr => by simp [hv r hr]⟩
  simp only [field, ho, h, Bool.false_eq_true, if_false, hb]

/-- A field whose body gives no state keeps its bundle from issuing. -/
theorem field_none {s s1 : State} {sl : Slot} {l : Latch} {ss vs : List Nat} {body : Latch → State → Option State}
    (ho : openLatch s sl = some (s1, l)) (hs : ∀ r ∈ ss, l.snap.busyS r = false) (hv : ∀ r ∈ vs, l.snap.busyV r = false)
    (hb : body l s1 = none) : field s sl ss vs body = killBundle s1 sl l true := by
  have h : (ss.any l.snap.busyS || vs.any l.snap.busyV) = false := by
    rw [Bool.or_eq_false_iff, List.any_eq_false, List.any_eq_false]
    exact ⟨fun r hr => by simp [hs r hr], fun r hr => by simp [hv r hr]⟩
  simp only [field, ho, h, Bool.false_eq_true, if_false, hb]

/-- A field outside a bundle in issue, not the last of it, does nothing. -/
theorem field_closed {s : State} {sl : Slot} {ss vs : List Nat} {body : Latch → State → Option State}
    (ho : openLatch s sl = none) (hl : sl.last = false) : field s sl ss vs body = s := by
  simp only [field, ho, hl, Bool.false_eq_true, if_false]

/-! Results that land. -/

@[simp] theorem Core.land_sregs_nil (k : Core) (v : Nat) (x : Vec) (p : Bool) (d : Nat) (f : BitVec 5) :
    k.land { due := d, vregs := [(v, some (x, p))], fl := f } = k.setV v x p := rfl
@[simp] theorem Core.land_sreg (k : Core) (r : Nat) (x : Word) (d : Nat) :
    k.land { due := d, sregs := [(r, some x)] } = k.setS r x := rfl

/-- A core none of whose results is due stays as it is. -/
theorem landCore_idle {s : State} {c : Nat} (h : ∀ e ∈ (s.core c).late, coreCyc s c < e.due) : landCore s c = s := by
  have : (s.core c).late.filter (fun e => decide (e.due ≤ coreCyc s c)) = [] := by
    rw [List.filter_eq_nil_iff]
    intro e he
    have := h e he
    simp only [decide_eq_true_eq]; omega
  simp only [landCore, this, List.isEmpty_nil, if_true]

/-- A cycle that is not in progress does not end. -/
theorem closeCycle_idle {s : State} {p : Nat} (h : (s.part p).ran = false) : closeCycle s p = s := by
  simp only [closeCycle, h, Bool.not_false, if_true]

/-! Banks. -/

/-- A bank without an access in the cycle serves the request. -/
theorem bankServe_free {us : List BankUse} {b w : Nat} {rd : Bool} (h : ∀ u ∈ us, u.bank ≠ b) :
    bankServe us b w rd = some (us ++ [⟨b, w, rd, false⟩], false) := by
  have : us.find? (fun u => decide (u.bank = b)) = none := by
    rw [List.find?_eq_none]; intro u hu; simp [h u hu]
  simp only [bankServe, this]

end Sys2Proof.Machine
end

