-- ==== Sys2Proof/Tests/States.lean ====
section
/-! SUPPORT. Small states that the tests and the witnesses start from. -/
namespace Sys2Proof.Tests
open Sys2Proof.Machine

/-- Slots of core 0: the first field of a bundle, a later one, and a bundle's only field. -/
def first : Slot := ⟨0, true, false⟩
def later : Slot := ⟨0, false, false⟩
def only : Slot := ⟨0, true, true⟩

/-- Cluster 0 serves partition 0. -/
def assignedState : State := wf State.reset (fCluCfg_en 0) 1

/-- A RUN_STEPS without end from queue 0. -/
def someRun : Run := { q := 0, seq := 0, steps := 0, waitFloor := false }

/-- Partition 0 runs its first step; core 0 holds a program of 64 bundles. -/
def runningState : State := (wf assignedState (fCorePlen_len 0) 64).setPart 0 { run := some someRun, inStep := true }

/-- The same with core 0 as a function of its reset state. -/
def withCore (f : Core → Core) : State := runningState.setCore 0 (f {})

/-- The latch that the first field of core 0's bundle takes. -/
def latchOf (s : State) : Latch := { snap := s.core 0, sr := srState s 0 }

/-- The PCIe link is up, BASE has ended, the device is READY in SERVICE, queue 0 is enabled. -/
def servingState : State :=
  wf (wf (wf (wf { State.reset with host := { up := true } } fBseBoot_cmd 1) fBseBoot_stage 0xA) fBsePhase_cur 3)
    (fCmdSqcfg_en 0) 1

/-- Entry 0 of queue 0 holds packet x and has not begun. -/
def withEntry (s : State) (x : BitVec 512) : State := s.setQueue 0 { entries := [{ seq := 0, pkt := x }], nextseq := 1 }

/-- A packet from the bytes of its fields: value v at byte b. -/
def packet (fs : List (Nat × Nat)) : BitVec 512 := BitVec.ofNat 512 ((fs.map fun f => f.2 * 256 ^ f.1).foldl (· + ·) 0)

/-- A block of scratch that is partition 0's, and an address in it. -/
def scrAt : Nat := scrBase + 0x400000

/-- s with scratch block 1 granted to partition 0, key slot 0 installed, and m as device memory. -/
def withScratch (s : State) (m : List Host.Cell) : State :=
  { wf (wf (wf (wf s fSbfScr_ways 4) (fSbfScrgrant_owner 1) 0) (fSecSlot_state 0) 1) (fSecPbind_dkey 0) 0 with mem := m }

/-! Results named by their parts. -/

theorem pair_of {α β : Type} {b : β} (x : α × β) (h : x.2 = b) : ∃ a, x = (a, b) := ⟨x.1, by rw [← h]⟩
theorem triple_of {α β γ : Type} {c : γ} (x : α × β × γ) (h : x.2.2 = c) : ∃ a b, x = (a, b, c) := ⟨x.1, x.2.1, by rw [← h]⟩
theorem pair_ex {α β : Type} (x : α × β) : ∃ a b, x = (a, b) := ⟨x.1, x.2, rfl⟩
theorem some_of {α : Type} (x : Option α) (h : x.isSome = true) : ∃ a, x = some a := Option.isSome_iff_exists.mp h

end Sys2Proof.Tests
end

