-- ==== Sys2Proof/Tests/Slice0.lean ====
section
/-! SUPPORT. Tests: an ill-formed command for each check of WellFormed, words written out from the encodings, worked examples
of the manual, single steps. -/
namespace Sys2Proof.Tests
set_option Elab.async false
open Sys2Proof.Machine

/-! WellFormed: the bound of each check, and one past it. -/

theorem test_wf_core_guard_register :
    wellFormed (.add ⟨16383, true, true⟩ 15 31 31 31) = true ∧ wellFormed (.add ⟨16384, true, true⟩ 15 31 31 31) = false ∧
    wellFormed (.add only 16 0 0 0) = false ∧ wellFormed (.add only 0 32 0 0) = false ∧ wellFormed (.vmov only 8 0 0) = false ∧
    wellFormed (.vmov only 0 16 0) = false ∧ wellFormed (.aaddi only 0 8 0) = false := by decide

theorem test_wf_fields :
    wellFormed (.loopi only 0 0 1) = false ∧ wellFormed (.loopi only 0 128 256) = true ∧ wellFormed (.waitf only 0 false 32) = false ∧
    wellFormed (.feedV only 0 15 2 3) = false ∧ wellFormed (.iss only 2 1) = false ∧ wellFormed (.feedMesh only 0 1 16) = false ∧
    wellFormed (.sigf only 0 0 23) = false ∧ wellFormed (.req only 0 0 24) = false ∧ wellFormed (.rds only 0 0 8) = false := by decide

theorem test_wf_conversions :
    wellFormed (.cvtF32 only 0 0 0 3 2) = true ∧ wellFormed (.cvtF32 only 0 0 0 1 2) = false ∧ wellFormed (.cvtF32 only 0 0 0 0 0) = false ∧
    wellFormed (.cvtF16 only 0 0 0 0 2) = false ∧ wellFormed (.mxpF32 only 0 0 15 0xA 0) = false ∧ wellFormed (.mxpF16 only 0 0 0 0xF 2) = false ∧
    wellFormed (.mxu only 0 15 0 0xA .f32) = false ∧ wellFormed (.mxu only 0 0 0 9 .f16) = false ∧ wellFormed (.unpk only 0 4 0 0 3 .f32) = false := by decide

theorem test_wf_units :
    wellFormed (.scheduleEntryEnd 512) = false ∧ wellFormed (.stepBoundary 16) = false ∧ wellFormed (.portRetrain 8) = false ∧
    wellFormed (.sliceScrub 32 false .ok) = false ∧ wellFormed (.tileComplete 16 []) = false ∧ wellFormed (.domainWake 100) = false ∧
    wellFormed (.copy 128 0) = false ∧ wellFormed (.copy 0 (2 ^ 32)) = false ∧ wellFormed (.goMarker 16 0 0) = false ∧
    wellFormed (.readyMarker 0 0 64) = false ∧ wellFormed (.ringAlert 576 0 0) = false ∧ wellFormed (.ringRead 16 0 0) = false ∧
    wellFormed (.flr 18) = false ∧ wellFormed (.registerWrite 0 0 16 0) = false ∧ wellFormed (.detourRegister 32 0 []) = false ∧
    wellFormed (.detour 0 false (some 32) []) = false ∧ wellFormed (.mailboxTransfer ⟨false, 64⟩ 0 [] 0 true) = false := by decide

theorem test_wf_packets :
    wellFormed (.read ⟨0, 0, 2 ^ 48, 0, 0, 0, 0, 0, 0⟩ []) = false ∧ wellFormed (.read ⟨0, 0, 0, 0, 8, 0, 0, 0, 0⟩ []) = false ∧
    wellFormed (.read ⟨0, 0, 0, 0, 0, 0, 64, 0, 0⟩ []) = false ∧ wellFormed (.read ⟨0, 0, 0, 0, 0, 0, 0, 2 ^ 20 + 1, 0⟩ []) = false ∧
    wellFormed (.write ⟨0, 0, 0, 0, 0, 0, 0, 0, 0⟩ ⟨9, 0, 0, 0⟩ []) = false ∧ wellFormed (.missSectorArrival 0 (2 ^ 40) 0 0 []) = false ∧
    wellFormed (.stageAdvance { err := 8 }) = false ∧ wellFormed (.stageAdvance { units := [(0, 0xD, 0)] }) = false ∧
    wellFormed (.housekeepingRound [] none) = false := by decide

/-! Words of fields and bundles. -/

/-- Table 4-19's control, feeder and array fields. -/
theorem test_words_of_fields :
    decodeControl 0x00801E = some (.loopi later 0 1 30) ∧ decodeControl 0x030000 = some (.endstep later 0) ∧
    decodeFeeder 0 0xA2318 = some (some (.loadsCm later 0 0 true 3 3)) ∧ decodeArray 0 0x5F = some (some (.pass later 0 32)) ∧
    decodeArray 0 0x88 = some (some (.drain later 0 8)) := by decide +kernel

/-- By Tables 4-2, 4-5 and 4-6: if p0, ADD s3, s1, s2 (1000 01100 00011 00001 00010); if p2, VADD BF16 v3, v4, v5
(010 000001 0011 0100 0101 001); VLD v7, a2, inc, offset all ones (000 001 0111 010 1 1111111111). -/
theorem test_words_of_other_fields :
    decodeControl 0x860C22 = some (.add later 8 3 1 2) ∧ decodeVector 0x409A29 = some (some (.vadd later 2 .bf16 3 4 5)) ∧
    decodeMemory 0x05D7FF = some (some (.vld later 0 7 2 true 0x3FF)) := by decide +kernel

/-- Table 4-19: bundles Q and P0. -/
theorem test_bundles_q_p0 :
    bundleCmds 5 0x00830424223000000000000000000000 = some [.loopi ⟨5, true, false⟩ 0 4 4, .feedCm ⟨5, false, true⟩ 0 1 8 true 3] ∧
    bundleCmds 5 0x00801EA231800000005F000000000000 =
      some [.loopi ⟨5, true, false⟩ 0 1 30, .loadsCm ⟨5, false, false⟩ 0 0 true 3 3, .pass ⟨5, false, true⟩ 0 32] := by decide +kernel

/-- Table 4-19: bundles P2 and D. -/
theorem test_bundles_p2_d :
    bundleCmds 5 0x00802024223000000000000000000000 = some [.loopi ⟨5, true, false⟩ 0 1 32, .feedCm ⟨5, false, true⟩ 0 1 8 true 3] ∧
    bundleCmds 5 0x03000000000000000088000000000000 = some [.endstep ⟨5, true, false⟩ 0, .drain ⟨5, false, true⟩ 0 8] := by decide +kernel

/-- A block has no processor's decoder: the table gives no bits. -/
theorem test_no_table_bits (n w : Nat) : decodeTableWord n w = none := rfl

/-! Numbers. -/

/-- Table 2-10. -/
theorem test_table_2_10 :
    e4m3.encode true .rne (fp32.decode 0x40490FDB) = (0x45, flNx) ∧ e4m3.encode true .rne (fp32.decode 0x43FA0000) = (0x7E, flOf ||| flNx) ∧
    e4m3.encode false .rne (fp32.decode 0x43FA0000) = (0x7F, flNv ||| flOf ||| flNx) ∧
    e5m2.encode true .rne (fp32.decode 0x43FA0000) = (0x60, flNx) ∧ e4m3.encode true .rne (fp32.decode 0xBA83126F) = (0x81, flUf ||| flNx) ∧
    fp16.encode true .rne (fp32.decode 0x4788B800) = (0x7C00, flOf ||| flNx) ∧ toInt 8 (-128) 127 0 (fp32.decode 0x40200000) = (2, flNx) := by
  decide +kernel

/-- Stochastic rounding of 1.3 to FP4-E2M1 from state 1. -/
theorem test_stochastic :
    srNext 1 = 0x00042021 ∧ e2m1.encode true (.sr 0x2021) (fp32.decode 0x3FA66666) = (2, flNx) := by decide +kernel

/-- An MXFP4 block of 10.0, -0.7, 3.0 and zeros. -/
theorem test_mx_block :
    mxPack 0x0E ⟨false, 0⟩ ([0x41200000, 0xBF333333, 0x40400000].map fp32.decode ++ List.replicate 29 (fp32.decode 0)) =
      ([6, 9, 3] ++ List.replicate 29 0, 128, flNx ||| flUf, ⟨false, 0⟩) := by decide +kernel

/-- A CB3 block with those indices in group 0 and the scale after its 96 index bytes, and the named codebook bytes. -/
def cb3Block : List Nat := [0x12, 0xA0, 0x07] ++ List.replicate 93 0 ++ [0x00, 0x2C]
def cb3Book (i : Nat) : Nat :=
  if i = 8 * 0x12 then 0x30 else if i = 2048 + 8 * 0xA0 then 0xA0 else if i = 4096 + 8 * 0x07 then 0x0C else 0

/-- CB3 decode of element 0 to FP8-E4M3. -/
theorem test_cb3 :
    (decodeBlock 0x11 3 cb3Block cb3Book (fun _ => false)).1.head? = some (0x0D, false) ∧
    (decodeBlock 0x11 3 cb3Block cb3Book (fun _ => false)).2 = false := by decide +kernel

/-- Stationary and streamed vectors of the exact-sum example: E5M2 values in rows 0 to 2. -/
def sumSet : Machine.SSet :=
  { rows := ([0x78, 0x3C, 0x3C] ++ List.replicate 13 0).map fun x => x :: List.replicate 15 0
    scales := List.replicate 16 127, sf := 4, tf := 4, poison := false }
def sumVec : FVec := { fmt := 4, elems := [0x60, 0x3C, 0x3C] ++ List.replicate 13 0, scale := none, poison := false }

/-- The exact sum of a vector: a cleared accumulator ends at 16,777,218 (FP32 0x4B80_0001) with no flag. -/
theorem test_exact_sum :
    (accStep sumSet ⟨2, false⟩ sumVec true none Accum.zero).vals.head? = some 0x4B800001 ∧
    (accStep sumSet ⟨2, false⟩ sumVec true none Accum.zero).fl = 0 := by decide +kernel

/-! Addresses and checks. -/

/-- The far-tier address 0x0100_0012_3400, its next line, and its slice and set. -/
theorem test_far_address :
    farPc 0x010000123400 = 61 ∧ farQuarter 0x010000123400 = 1 ∧ farGroup 0x010000123400 = 2 ∧ farBank 0x010000123400 = 0 ∧
    farRow 0x010000123400 = 0 ∧ farPc 0x010000123500 = 60 ∧ sliceOf 0x100001234 = 5 ∧ setOf 0x100001234 = 153 := by decide +kernel

/-- The bytes of "123456789". -/
def checkBytes : List Byte := [0x31, 0x32, 0x33, 0x34, 0x35, 0x36, 0x37, 0x38, 0x39]

/-- R147: the check value of the CRC-16. -/
theorem test_crc16 : crc16 checkBytes = 0x29B1 := by decide +kernel

/-- A READ of tag 3 at address 0x4000 in class 2 of partition 1, from node 5 to slice 1. -/
def headerSample : Pkt := ⟨1, ⟨5, 3, 0x4000, 0, 2, 1, 0, 0, 64⟩, 0x201, noFlits⟩

/-- Table 5-9: the header word of a READ by its fields; its reading; an unknown operation, VC and reserved bit refused. -/
theorem test_header_word :
    headerWord headerSample =
      (BitVec.ofNat 6 1 ++ BitVec.ofNat 2 0 ++ BitVec.ofNat 4 0 ++ BitVec.ofNat 2 0 ++ BitVec.ofNat 3 2 ++ BitVec.ofNat 4 1 ++
        BitVec.ofNat 6 0 ++ BitVec.ofNat 20 0 ++ BitVec.ofNat 16 5 ++ BitVec.ofNat 16 0x201 ++ BitVec.ofNat 16 3 ++
        BitVec.ofNat 48 0x4000 ++ BitVec.ofNat 49 0 ++ BitVec.ofNat 64 64 : BitVec 256) ∧
    headerPkt (headerWord headerSample) 0 0 0 = some headerSample ∧
    headerPkt (headerWord { headerSample with op := 6 }) 0 0 0 = none ∧
    headerPkt (headerWord headerSample + BitVec.ofNat 256 (2 ^ 248)) 0 0 0 = none ∧
    headerPkt (headerWord headerSample + BitVec.ofNat 256 (2 ^ 64)) 0 0 0 = none := by decide +kernel

/-! Single steps. -/

/-- R95: a scalar sum wraps, and the two sources may be the destination. -/
theorem test_add_wraps :
    (match exec (.add only 0 3 3 3) (withCore fun k => k.setS 3 0x8000000000000001) with
     | .next t => (t.core 0).s 3
     | _ => 0) = 2 := by decide +kernel

/-- R49: a write of zero to CORE_SRSTATE stores one; R7: a write to an unassigned offset is discarded. -/
theorem test_register_writes :
    (match exec (.registerWrite 0 (offCoreSrstate 0) 32 0) servingState with
     | .next t => (t.reg (offCoreSrstate 0)).toNat
     | _ => 0) = 1 ∧
    (match exec (.registerWrite 0 0x3FFFFF8 32 7) servingState with
     | .next t => decide (t = servingState)
     | _ => false) = true := by decide +kernel

end Sys2Proof.Tests
end

