-- ==== Sys2Proof/Tests/WitnessA.lean ====
section
/-! SUPPORT. States and operands that meet the hypotheses of the statements, clause by clause: machine, numbers, encodings,
bundles, arrays. -/
namespace Sys2Proof.Tests
set_option Elab.async false
open Sys2Proof.Machine

/-! The machine and numbers. -/

theorem witness_IdleStepIsATick :
    State.reset.pending = [] ∧ State.reset.half = false ∧
    (let s : State := { half := true, links := { skip := 1 } }; s.half = true ∧ 0 < s.links.skip) ∧
    (let s : State := { half := true }; s.half = true ∧ s.links.skip = 0) := by decide

theorem witness_StepKeepsCanonical : Canonical State.reset ∧ step State.reset = .next (tick State.reset) :=
  ⟨by unfold Canonical; decide +kernel, rfl⟩

/-- The largest and the least finite codes of FP32 and of E2M1, and the largest 16-bit draw. -/
theorem witness_FiniteEncodingsAreExact :
    0x7F7FFFFF < 2 * fp32.signBit ∧ 0x7F7FFFFF % fp32.signBit ≤ fp32.maxMag ∧ 0x80000000 % fp32.signBit ≤ fp32.maxMag ∧
    15 < 2 * e2m1.signBit ∧ 15 % e2m1.signBit ≤ e2m1.maxMag ∧ (∀ r, RMode.sr 65535 = .sr r → r < 65536) := by
  refine ⟨by decide, by decide, by decide, by decide, by decide, ?_⟩
  intro r h; cases h; decide

/-- The largest code of FP32 that is not special, and the format itself. -/
theorem witness_EncodingsHaveTheirValue :
    layouts[0]? = some (fp32, 8, 23, 127, (2 - 2⁻¹ ^ 23) * 2 ^ 127, -126, -149) ∧ 0xFF7FFFFF < 2 ^ (1 + 8 + 23) ∧
    special 8 23 0xFF7FFFFF = false ∧ special 4 3 0xFE = false := ⟨rfl, by decide, by decide, by decide⟩

/-- Finite values; their numbers; a tie: 3/2 in units of 1. -/
theorem witness_ExactResultsRoundToNearest :
    (∀ v ∈ [Val.fin true 3 (-1), .fin false 0 5], v.isFin = true) ∧ (∃ x, numOf (.fin true 3 (-1)) = some x) ∧ (-1 : Int) < 0 ∧
    2 * ((roundAt .rne 3 (-1) 0 false).1 * 2) = 2 * 3 + 2 ∧ (roundAt .rne 3 (-1) 0 false).1 = 2 :=
  ⟨by decide, ⟨_, rfl⟩, by decide, by decide, by decide⟩

/-- The last weight of a block, and the largest byte of five digits. -/
theorem witness_WeightsDecodeByTheirRules :
    ((0x11, 3) : Nat × Nat) = (0x11, 3) ∧ 31 < 32 ∧ 7 < 8 ∧ 255 < 256 ∧ ([242] : List Nat).getD (4 / 5) 0 < 243 := by decide

/-! Encodings. -/

theorem witness_FieldWordsRoundTrip :
    (∃ x, wellFormed (.waitf noSlot 15 true 31) = true ∧ encodeControl (.waitf noSlot 15 true 31) = some x) ∧
    (∃ y, wellFormed (.iss noSlot 1 32) = true ∧ encodeArray (.iss noSlot 1 32) = some y) ∧
    (∃ x, wellFormed (.vst noSlot 7 15 7 true (-1)) = true ∧ encodeMemory (.vst noSlot 7 15 7 true (-1)) = some x) ∧
    (∃ x, wellFormed (.unpk noSlot 7 3 15 15 9 .f16) = true ∧ encodeVector (.unpk noSlot 7 3 15 15 9 .f16) = some x) :=
  ⟨⟨_, by decide +kernel, rfl⟩, ⟨_, by decide +kernel, rfl⟩, ⟨_, by decide +kernel, rfl⟩, ⟨_, by decide +kernel, rfl⟩⟩

theorem witness_DecodersReadEveryBit :
    (decodeControl 0 = some (.ctrlNop noSlot 0)) ∧
    (∃ i, decodeFeeder 1 (((encodeFeeder (.feedCm noSlot 1 7 256 true 9)).getD (0, 0)).2) = some (some i)) ∧
    (∃ i, decodeArray 1 (((encodeArray (.pass noSlot 1 32)).getD (0, 0)).2) = some (some i)) ∧
    (∃ i, decodeMemory ((encodeMemory (.sigf noSlot 7 31 31)).getD 0) = some (some i)) := by
  exact ⟨by decide +kernel, ⟨.feedCm noSlot 1 7 256 true 9, by decide +kernel⟩, ⟨.pass noSlot 1 32, by decide +kernel⟩,
    ⟨.sigf noSlot 7 31 31, by decide +kernel⟩⟩

theorem witness_BundleTakenApart :
    ∃ f0 f1 a0 a1 v m, f0 < 2 ^ 20 ∧ f1 < 2 ^ 20 ∧ a0 < 2 ^ 8 ∧ a1 < 2 ^ 8 ∧ v < 2 ^ 24 ∧ m < 2 ^ 24 ∧
    decodeControl 0 = some (.ctrlNop noSlot 0) ∧
    decodeFeeder 0 f0 = some (some (.feedCm noSlot 0 7 256 true 9)) ∧
    decodeFeeder 1 f1 = some (some (.loadsCm noSlot 1 0 false 3 3)) ∧
    decodeArray 0 a0 = some (some (.pass noSlot 0 32)) ∧ decodeArray 1 a1 = some (some (.discard noSlot 1)) ∧
    decodeVector v = some (some (.vnop noSlot 0)) ∧ decodeMemory m = some (some (.sigf noSlot 7 31 31)) :=
  ⟨((encodeFeeder (.feedCm noSlot 0 7 256 true 9)).getD (0, 0)).2, ((encodeFeeder (.loadsCm noSlot 1 0 false 3 3)).getD (0, 0)).2,
   ((encodeArray (.pass noSlot 0 32)).getD (0, 0)).2, ((encodeArray (.discard noSlot 1)).getD (0, 0)).2,
   (encodeVector (.vnop noSlot 0)).getD 0, (encodeMemory (.sigf noSlot 7 31 31)).getD 0, by decide +kernel⟩

/-! Bundles. -/

theorem witness_BundlesIssue :
    first.first = true ∧ canIssue runningState 0 = true ∧ canIssue State.reset 0 = false ∧
    openLatch (runningState.setLatch 0 (latchOf runningState)) later =
      some (runningState.setLatch 0 (latchOf runningState), latchOf runningState) ∧
    openLatch State.reset later = none ∧ later.last = false ∧
    (latchOf (withCore fun k => { k with late := [{ due := 3, sregs := [(5, none)] }] })).snap.busyS 5 = true ∧
    (1 ≤ 7 ∧ 7 ≤ 7 ∧ (latchOf (withCore fun k => { k with preds := 0x80 })).snap.preds.getLsbD 7 = true) ∧
    (8 ≤ 8 ∧ 8 ≤ 15 ∧ (latchOf runningState).snap.preds.getLsbD (8 - 8) = false) := by decide +kernel

/-- The first field of a bundle issues, with any registers. -/
theorem issues_first (f : Core → Core) (ss vs : List Nat) (h : openLatch (withCore f) first =
    some ((withCore f).setLatch 0 (latchOf (withCore f)), latchOf (withCore f)))
    (hs : ∀ r ∈ ss, (latchOf (withCore f)).snap.busyS r = false) (hv : ∀ r ∈ vs, (latchOf (withCore f)).snap.busyV r = false) :
    Issues (withCore f) first ss vs ((withCore f).setLatch 0 (latchOf (withCore f))) (latchOf (withCore f)) := ⟨h, hs, hv⟩

/-- Of ScalarCommands, ScalarFrame, VectorArithmetic, VectorMovesAndConversions and MemoryFields: a field that issues with its
guard true, and with its guard false. -/
theorem witness_Issues :
    Issues (withCore id) first [0, 1, 31] [0, 1, 2, 15, 16] ((withCore id).setLatch 0 (latchOf (withCore id)))
      (latchOf (withCore id)) ∧
    guardTrue (latchOf (withCore id)).snap.preds 0 = true ∧ predTrue (latchOf (withCore id)).snap.preds 0 = true ∧
    first.last = false ∧ partOfCluster ((withCore id).setLatch 0 (latchOf (withCore id))) (clusterOfCore first.core) = some 0 ∧
    corePart ((withCore id).setLatch 0 (latchOf (withCore id))) 0 = some 0 :=
  ⟨issues_first id _ _ (by decide +kernel) (by decide +kernel) (by decide +kernel), by decide +kernel, by decide +kernel, rfl,
   by decide +kernel, by decide +kernel⟩

/-- Clauses of ScalarFrame and VectorArithmetic about operands: a command that answers, and lanes of FP32. -/
theorem witness_ScalarFrame_VectorArithmetic :
    (∃ t, exec (.add first 0 1 2 3) (withCore id) = .next t) ∧
    (∃ v vs, valsOf .f32 ((latchOf (withCore id)).snap.v 3) = v :: vs) := ⟨⟨_, rfl⟩, ⟨_, _, rfl⟩⟩

theorem witness_ControlFlowAndLoops :
    ((latchOf (withCore fun k => k.setS 4 5)).snap.s 4).toNat % 2 ^ 32 ≠ 0 ∧
    ((latchOf (withCore fun k => k.setS 4 0x500000000)).snap.s 4).toNat % 2 ^ 32 = 0 ∧
    (latchOf (withCore fun k => { k with flags := 0x80000000 })).snap.flags.getLsbD 31 = true ∧
    (latchOf (withCore id)).snap.flags.getLsbD 31 = false ∧
    (⟨3, 7, 2⟩ : Loop).last ≠ 6 ∧ (⟨3, 7, 2⟩ : Loop).last = 7 ∧ 1 < (⟨3, 7, 2⟩ : Loop).count ∧ (⟨3, 7, 1⟩ : Loop).count ≤ 1 := by
  decide +kernel

theorem witness_BundleGoesOn :
    (let s := wf runningState (fCorePlen_len 0) 2
     (loopNext (s.core 0).loops 0).1 < rf s (fCorePlen_len 0)) ∧
    ((withCore fun k => { k with ended := true }).core 0).ended = true := by decide +kernel

/-- Of VectorFrame: a core with a result due, one without, and a partition with a cycle in progress. -/
theorem witness_VectorFrame :
    (let s := withCore fun k => { k with late := [{ due := 0, vregs := [(3, some (7, true))], fl := 1 }] }
     (s.core 0).late = [{ due := 0, vregs := [(3, some (7, true))], fl := 1 }] ∧ 0 ≤ coreCyc s 0) ∧
    (runningState.part 0).ran = false ∧
    (let s := (withCore fun k => { k with late := [{ due := 9 }] }).setPart 0 { run := some someRun, inStep := true, ran := true }
     (s.part 0).ran = true ∧ 0 ∈ coresOf s 0 ∧ { due := 9 } ∈ ((closeCycle s 0).core 0).late ∧ corePart s 0 = some 0) := by
  decide +kernel

/-! Memory fields, flags, feeders and arrays. -/

/-- A core with an address register in cluster memory, one in scratch, one past both, and a full channel. -/
def memCore : State := withCore fun k =>
  { (((k.setA 1 0x400000).setA 2 0x410000).setA 3 0x3FFFC0) with chans := [(15, [⟨0, false, false⟩, ⟨0, false, false⟩])] }

/-- Of MemoryFields: addresses inside and outside Table 3-2. -/
theorem witness_MemoryFields_addresses :
    localOf 0x3FFFC0 ≠ none ∧ localOf 0x40FFF8 ≠ none ∧ localOf 0x410000 = none ∧ (0x3FFFF8 : Nat) < 0x400000 ∧
    (0x400000 : Nat) ≤ 0x400000 ∧ (0x40FFF8 : Nat) < 0x410000 := by decide

/-- Of MemoryFields: requests served and refused, and what they read and write. -/
theorem witness_MemoryFields_requests :
    (∃ u, cmAsk memCore 0 0x3FFFC0 true = (u, true)) ∧
    (∃ u, cmAsk (memCore.setPart 0 { memCore.part 0 with m := 15 }) 0 0 true = (u, false)) ∧
    (∃ u, lsAsk memCore 0 0xFFF8 false = (u, true)) ∧
    (∃ x p, localRead memCore 0 0x3FFFC0 64 = some (x, p)) ∧ (∃ t, localWrite memCore 0 0x400000 64 7 (some true) = some t) ∧
    (∃ x, localRead memCore 0 0x40FFF8 8 = some (x, false)) ∧ (∃ t, localWrite memCore 0 0x40FFF8 8 7 none = some t) ∧
    (∃ x, localRead { memCore with psn := [(cmAddr 0 0 / 32, true)] } 0 0 8 = some (x, true)) := by
  refine ⟨pair_of _ (by decide +kernel), pair_of _ (by decide +kernel), pair_of _ (by decide +kernel),
    ⟨0, false, by decide +kernel⟩, ⟨(localWrite memCore 0 0x400000 64 7 (some true)).getD {}, by decide +kernel⟩,
    ⟨0, by decide +kernel⟩, ⟨(localWrite memCore 0 0x40FFF8 8 7 none).getD {}, by decide +kernel⟩, ⟨0, by decide +kernel⟩⟩

/-- Of MemoryFields: a request that waits; channels, credits, and descriptors of one cycle. -/
theorem witness_MemoryFields :
    (let s := withCore fun k => { k with mreq := some { op := .vld, reg := 3, addr := 0x3FFFC0 } }
     (s.core 0).mreq = some { op := .vld, reg := 3, addr := 0x3FFFC0 } ∧ s.latch 0 = none ∧ (s.core 0).faulted = false ∧
       (s.core 0).resetting = false ∧ corePart s 0 = some 0 ∧ (s.part 0).go = true) ∧
    (tget [] (latchOf memCore).snap.chans 0).length < 2 ∧ 2 ≤ (tget [] (latchOf memCore).snap.chans 15).length ∧
    0 < (latchOf memCore).snap.credits ∧ (latchOf (withCore fun k => { k with credits := 0 })).snap.credits = 0 ∧
    (let s := withCore fun k => { k with returning := [(0, 3), (5, 1)] }
     (s.core 0).returning = (0, 3) :: [(5, 1)] ∧ corePart s 0 = some 0 ∧ (s.part 0).go = true ∧ 0 ≤ (s.part 0).rc ∧
       ∀ x ∈ [((5 : Nat), (1 : Nat))], (s.part 0).rc < x.1) := by decide +kernel

/-- Of MemoryFields: banks that are free, of cluster memory and of scratch, up to its last word, and what they hold. -/
theorem witness_MemoryFields_banks :
    Issues memCore first [5] [5] (memCore.setLatch 0 (latchOf memCore)) (latchOf memCore) ∧
    predTrue (latchOf memCore).snap.preds 0 = true ∧ NoUpsets memCore ∧
    (∀ a ∈ [0, 0x3FFFC0, 0x400000, 0x40FFF8], BankFree (memCore.setLatch 0 (latchOf memCore)) 0 a) ∧
    ((localRead memCore 0 0x3FFFF8 8).getD (0, false)).2 = false := by
  refine ⟨issues_first _ _ _ (by decide +kernel) (by decide +kernel) (by decide +kernel), by decide +kernel, ⟨rfl, rfl⟩, ?_,
    by decide +kernel⟩
  intro a h
  refine ⟨0, by decide +kernel, ?_⟩
  simp only [List.mem_cons, List.not_mem_nil, or_false] at h
  obtain rfl | rfl | rfl | rfl := h
  · exact .inl (by decide +kernel)
  · exact .inl (by decide +kernel)
  · exact .inr (by decide +kernel)
  · exact .inr (by decide +kernel)

theorem witness_LocalStoreReadBack :
    (∃ t, localWrite memCore 0 0x3FFFC0 64 7 (some false) = some t) ∧ (0x3FFFC0 : Nat) < 0x400000 ∧
    (∃ t, localWrite memCore 0 0x40FFC0 64 7 (some true) = some t) :=
  ⟨⟨(localWrite memCore 0 0x3FFFC0 64 7 (some false)).getD {}, by decide +kernel⟩, by decide,
   ⟨(localWrite memCore 0 0x40FFC0 64 7 (some true)).getD {}, by decide +kernel⟩⟩

theorem witness_FlagsAndWaits :
    (∀ w ∈ (State.reset.core 0).waits, w.flag ≠ 31) ∧
    (∃ w ∈ ((withCore fun k => { k with waits := [⟨31, false, 0⟩] }).core 0).waits, w.flag = 31 ∧ w.keep = false) ∧
    (∀ w ∈ ((withCore fun k => { k with waits := [⟨31, true, 0⟩] }).core 0).waits, w.flag = 31 → w.keep = true) ∧
    ((withCore fun k => { k with waits := [⟨31, true, 0⟩, ⟨31, false, 1⟩, ⟨31, false, 2⟩] }).core 0).waits =
      [⟨31, true, 0⟩] ++ ⟨31, false, 1⟩ :: [⟨31, false, 2⟩] ∧
    tget 0 (State.reset.core 0).outst 5 = 0 ∧ tget 0 ((withCore fun k => { k with outst := [(5, 1)] }).core 0).outst 5 = 1 ∧ 1 < tget 0 ((withCore fun k => { k with outst := [(5, 2)] }).core 0).outst 5 := by
  decide +kernel

/-- Of FlagsAndWaits: a bank that has served, one that has not, the last word of a block, and the sixteenth cycle. -/
theorem witness_Banks :
    (let us : List BankUse := [⟨63, 7, true, false⟩]
     (∀ u ∈ us, u.bank ≠ 0) ∧ us.find? (fun u => decide (u.bank = 63)) = some ⟨63, 7, true, false⟩) ∧
    (4032 : Nat) / 4096 = 0 / 4096 ∧
    (let s := runningState.setPart 0 { run := some someRun, inStep := true, m := 31 }
     corePart s 0 = some 0 ∧ (s.part 0).m.toNat % 16 = 15) := by decide +kernel

/-- Array 0 of a core with a load requested, a stream of FP8 with a vector in its buffer, work of two vectors and a drain. -/
def arrCore (f : Arr → Arr) : State := withCore fun k => { k with arr0 := f {} }
def fp8Vec : FVec := { fmt := 3, elems := List.replicate 16 0x38, scale := none, poison := false }
def fp8Set : Machine.SSet := { Machine.SSet.zero with sf := 3, tf := 3 }

/-- A stream of FP8 with one vector in its buffer. -/
def fp8Stream : Stream := { src := .v, fmt := 3, addr := 0, left := 0, sbase := 0, buf := List.replicate 16 (0, false) }
/-- The load of an FP8 set from the start of cluster memory, with n words read. -/
def fp8Load (n : Nat) : LoadReq := { src := .cm, addr := 0, sbase := 0, sf := 3, tf := 3, got := n }

theorem witness_FeedersAndArrays :
    (∀ r < 16, (latchOf runningState).snap.busyV r = false) ∧
    ((latchOf runningState).snap.arr 0).streams.length < 2 ∧ isMx 3 = false ∧
    2 ≤ ((latchOf (arrCore fun x => { x with streams := List.replicate 2 fp8Stream })).snap.arr 0).streams.length ∧
    ((latchOf runningState).snap.arr 0).load = none ∧ ((latchOf runningState).snap.arr 0).shadow = none ∧
    ((latchOf (arrCore fun x => { x with markEnd := 1 })).snap.arr 0).markEnd ≤ 0 + 1 ∧
    ((latchOf (arrCore fun x => { x with load := some (fp8Load 0) })).snap.arr 0).load ≠ none ∧
    ((latchOf runningState).snap.arr 0).reqs.length < 4 ∧
    4 ≤ ((latchOf (arrCore fun x => { x with reqs := List.replicate 4 .discard })).snap.arr 0).reqs.length ∧
    arrGo runningState 0 = true ∧ (runningState.core 0).faulted = false := by decide +kernel

/-- Of FeedersAndArrays: a load whose word's bank is free, and a stream from registers with its first vector due. -/
theorem witness_FeedersAndArrays_served :
    (let s := arrCore fun x => { x with load := some (fp8Load 3) }
     arrGo s 0 = true ∧ (s.core 0).faulted = false ∧ NoUpsets s ∧ BankFree s 0 192) ∧
    (let st : Stream := { src := .v, fmt := 3, addr := 0, left := 1, sbase := 0, regs := [(7, true)] }
     let x := (arrCore fun x => { x with streams := [st] }).core 0 |>.arr 0
     x.streams = [st] ∧ x.fedAt ≠ 0 + 1 ∧ x.fq.length < 8 ∧ st.regs = (7, true) :: [] ∧ st.left ≠ 0 ∧ st.start ≤ 0 ∧ st.fly = [] ∧
       st.buf = [] ∧ st.ask = none ∧ 0 < vecBytes st.fmt ∧ vecBytes st.fmt ≤ 64 ∧ isMx st.fmt = false) :=
  ⟨⟨by decide +kernel, by decide +kernel, ⟨rfl, rfl⟩, 0, by decide +kernel, .inl (by decide +kernel)⟩, by decide +kernel⟩

/-- Of FeedersAndArrays: the work of an array. -/
theorem witness_FeedersAndArrays_work :
    (let s := arrCore fun x => { x with load := some (fp8Load 3) }
     let x := (s.core 0).arr 0
     x.load = some (fp8Load 3) ∧ (fp8Load 3).start ≤ coreCyc s 0 ∧ x.portUsed ≠ coreCyc s 0 + 1 ∧ (∀ st ∈ x.streams, st.ask = none) ∧
       (fp8Load 3).got < setBytes 3 / 64 ∧ (fp8Load 3).got + 1 = setBytes 3 / 64 ∧ (fp8Load 2).got + 1 < setBytes 3 / 64 ∧
       srcIn .cm (((fp8Load 3).addr.toNat + 64 * 3) % 2 ^ 32) = true ∧ (fp8Load 3).act = false ∧
       (arrAsk s 0 0 .cm 192).2 = true ∧ (localRead (arrAsk s 0 0 .cm 192).1 0 192 64).isSome = true ∧
       (arrAsk (s.setPart 0 { s.part 0 with m := 15 }) 0 0 .cm 192).2 = false) ∧
    (let x := (arrCore fun x => { x with streams := [fp8Stream] }).core 0 |>.arr 0
     x.streams = fp8Stream :: [] ∧ x.streams ≠ [] ∧ x.fedAt ≠ 0 + 1 ∧ fp8Stream.fly = [] ∧ x.fq.length < 8 ∧
       0 < vecBytes fp8Stream.fmt ∧ vecBytes fp8Stream.fmt ≤ fp8Stream.buf.length ∧ isMx fp8Stream.fmt = false) ∧
    (let x := (arrCore fun x => { x with nextIss := 1 }).core 0 |>.arr 0
     0 < x.nextIss) ∧
    (let x := (arrCore fun x => { x with reqs := [.vecs 2 false], fq := [fp8Vec], inForce := 2, active := fp8Set, accOpen := true })
       |>.core 0 |>.arr 0
     x.reqs = .vecs 2 false :: [] ∧ x.fq = fp8Vec :: [] ∧ x.inForce ≠ 0 ∧ x.nextIss ≤ 0 ∧
     pairClass x.active.sf x.active.tf = some ⟨2, false⟩ ∧ fp8Vec.fmt = x.active.tf ∧ x.accOpen = true ∧ x.acc.int = false ∧
     x.load = none ∧ x.acc.pipe = []) ∧
    (let s := (arrCore fun x => { x with draining := [⟨5, Accum.zero, 3⟩] }).setPart 0 { run := some someRun, inStep := true, cyc := 20 }
     ((s.core 0).arr 0).draining = ⟨5, Accum.zero, 3⟩ :: [] ∧ 3 + 17 ≤ coreCyc s 0) ∧
    Accum.zero.pipe = [] ∧ drainMismatch Accum.zero Accum.zero.vals = [] := by
  refine ⟨by decide +kernel, by decide +kernel, by decide +kernel, by decide +kernel, by decide +kernel, by decide +kernel,
    by decide +kernel⟩

end Sys2Proof.Tests
end

