-- ==== Sys2Proof/Tests/WitnessB.lean ====
section
/-! SUPPORT. States and operands that meet the hypotheses of the statements, clause by clause: partitions, routers, cluster
DMAs. -/
namespace Sys2Proof.Tests
set_option Elab.async false
open Sys2Proof.Machine

/-! Partitions and routers. -/

def partState (f : Part → Part) : State := assignedState.setPart 0 (f { run := some someRun, inStep := true })

theorem witness_HoldsAndSchedules_hold :
    ((partState fun x => { x with levels := [true], leads := [1] }).part 0).levels = true :: [] ∧
    ((partState fun x => { x with levels := [false, true], leads := [0, 5] }).part 0).levels = false :: [true] ∧
    (∃ t, exec (.partitionHoldStart 0) (partState fun x => { x with levels := [true], leads := [1] }) = .next t) ∧ 15 ≠ 0 := by
  refine ⟨by decide +kernel, by decide +kernel, ⟨_, rfl⟩, by decide⟩

/-- All 32 cores of cluster 0 have issued ENDSTEP. -/
def endedState : State := (List.range 32).foldl (fun s c => s.setCore c { ended := true }) runningState

theorem witness_StepStartsAtEntry : 31 ∈ coresOf runningState 0 := by decide +kernel

/-- The same with a run of one step, of entry 0 of queue 0. -/
def lastStep : State :=
  ((endedState.setPart 0 { endedState.part 0 with run := some { someRun with steps := 1 } }).setQueue 0
    { entries := [{ seq := 0, pkt := packet [(0, 0x10), (16, 1)], begun := true }], nextseq := 1 })

theorem witness_StepBoundaryCounts :
    stepDone runningState 0 = false ∧ stepDone endedState 0 = true ∧ BoundaryDue endedState 0 someRun ∧ someRun.steps = 0 ∧
    (endedState.part 0).holdReqs = [] ∧ BoundaryDue lastStep 0 { someRun with steps := 1 } ∧ (lastStep.part 0).holdReqs = [] ∧
    someRun.rel = none ∧ (entryOf lastStep 0 0).isSome = true ∧ (entryOf lastStep 0 0).all (·.reply.isNone) = true := by
  refine ⟨by decide +kernel, by decide +kernel, ?_, rfl, by decide +kernel, ?_, by decide +kernel, rfl, by decide +kernel, by decide +kernel⟩
  · unfold BoundaryDue; decide +kernel
  · unfold BoundaryDue; decide +kernel

/-- Of StartsGoOn: a core with an image queued for the boundary. -/
theorem witness_StartsGoOn_queued :
    let s := runningState.setCore 31 { qload := some ⟨[5, 7], 0⟩ }
    31 ∈ coresOf s 0 ∧ (s.core 31).qload = some ⟨[5, 7], 0⟩ := by decide +kernel

theorem witness_StartsGoOn :
    (let s := partState fun x => { x with inStep := false, loading := true }
     (s.part 0).run.isSome = true ∧ (s.part 0).loading = true ∧ (s.part 0).loadLeft = 0 ∧
     (s.part 0).bound = false ∧ (s.setPart 0 { s.part 0 with bound := true } |>.part 0).bound = true ∧
     0 < (s.setPart 0 { s.part 0 with loadLeft := 1 } |>.part 0).loadLeft ∧ (List.replicate 2 (7 : BitVec 128))[1]? = some 7 ∧ 2 ≤ 2) ∧
    (let s : State := { (partState fun x => { x with inStep := false, run := some { someRun with waitFloor := true } }) with
                        pwr := { floor := 1600000 } }
     (s.part 0).run = some { someRun with waitFloor := true } ∧ rb s (fPwrPclk_ramp 0) = false ∧ asleepDomains s 0 = [] ∧
       floorTarget s 0 (startClk s 0) ≤ s.pwr.floor ∧ ¬ startClk s 0 < rf s (fPwrPclk_cur 0) ∧ (s.part 0).kvq = [] ∧ someRun.rel = none) := by decide +kernel

/-- The router of cluster 0 with entry e in force and the loop levels ls. -/
def routerState (e : BitVec 512) (ls : List (Nat × Nat)) : State :=
  runningState.setRouter 0 { has := true, sched := [(0, e)], loops := ls }

theorem witness_HoldsAndSchedules :
    (let s := routerState 0 []
     routerGo s 0 = true ∧ (s.router 0).has = true ∧ (s.router 0).done = false ∧ (s.router 0).rem = 0 ∧
       seSeq (tget 0 (s.router 0).sched (s.router 0).slot) = 0) ∧
    (let s := routerState (1 <<< 492) []
     seSeq (tget 0 (s.router 0).sched 0) = 1 ∧ ((s.router 0).loops.head?).map (·.1) ≠ some (s.router 0).slot) ∧
    (let s := routerState (2 <<< 492) [(0, 4096)]
     seSeq (tget 0 (s.router 0).sched 0) = 2 ∧ seCnt (tget 0 (s.router 0).sched 0) = 0 ∧ (s.router 0).loops = (0, 4096) :: []) ∧
    seSeq (tget 0 ((routerState (3 <<< 492) []).router 0).sched 0) = 3 := by decide +kernel

/-- A lane-flit on the segment of lane 15 and a delivery due in lane 3. -/
def flitState : State :=
  (runningState.setRouter 0 { lanes := [(15, { seg := [(0, mkFlit 5 false)] })], dlv := [(3, [{ due := 0, gen := 7, flit := mkFlit 5 false }])] })

theorem witness_LaneFlitsMove :
    ((flitState.router 0).lane 15).seg = (0, mkFlit 5 false) :: [] ∧ ((flitState.router 0).lane 15).skid = [] ∧
    partOfCluster flitState 0 = some 0 ∧ (flitState.part 0).held = false ∧
    pieceCheck (5 ^^^ 0) = (mkFlit 5 false).chk ∧
    (mkFlit 5 false).valid = true ∧ (mkFlit 5 false).poison = false ∧ pieceCheck (5 ^^^ 1) ≠ (mkFlit 5 false).chk ∧
    (let s := runningState.setRouter 0 { lanes := [(15, { seg := [(0, mkFlit 5 false)], skid := [mkFlit 6 false] })] }
     ((s.router 0).lane 15).skid ≠ []) ∧
    tget [] (flitState.router 0).dlv 3 = { due := 0, gen := 7, flit := mkFlit 5 false } :: [] ∧
    genKind flitState 0 7 = 0 ∧ genKind (wf flitState (fMshDgen_kind 7) 1) 0 7 = 1 := by decide +kernel

theorem witness_LineCheckFindsErrors : 255 < 256 ∧ 254 < 255 ∧ 7 < 8 := by decide

/-! The cluster DMA. -/

/-- A COPY in of one row of 32 bytes from an address to cluster memory 0. -/
def copyDesc (a : Nat) : BitVec 512 := packet [(0, 1), (8, a), (16, 32), (20, 1)]
def dmaState (q a : List Desc) : State := runningState.setDma 0 { queue := q, active := a }
def aDesc (x : BitVec 512) : Desc := { id := 0, core := 0, flag := 0, x := x }

theorem witness_DescriptorsStart :
    (let s := dmaState [aDesc (copyDesc 0)] []
     (s.dma 0).queue = aDesc (copyDesc 0) :: [] ∧ canStart (s.dma 0) = true ∧ (aDesc (copyDesc 0)).poison = false ∧
       descOk (aDesc (copyDesc 0)).x = true) ∧
    canStart ((dmaState [aDesc (copyDesc 0)] (List.replicate 8 (aDesc (copyDesc 0)))).dma 0) = false ∧
    canStart ((dmaState [aDesc 0] []).dma 0) = true ∧ descOk (aDesc 0).x = false := by decide +kernel

/-- A descriptor of a kind in progress, of one row of 32 bytes. -/
def kindState (k : Nat) : State := dmaState [] [aDesc (packet [(0, k), (2, 16), (16, 32), (20, 1)])]

theorem witness_DescriptorsRun :
    (∃ d, descOf (kindState 1) 0 0 = some d ∧ d.done = none ∧
      (∃ t e, runPieces (copyStep 0 d.x []) (kindState 1) d ((copyPieces d.x).drop d.pos) = (t, e, true)) ∧
      (∃ t e, runPieces (tcopyStep 0 d.x []) (kindState 1) d ((tcopyPieces d.x).drop d.pos) = (t, e, true)) ∧
      (∃ t e, runPieces (cbloadStep 0 d.x []) (kindState 1) d ((rowPieces (dDva d.x) (dInner d.x)).drop d.pos) = (t, e, true)) ∧
      (∃ t e, runPieces (gatherStep 0 d.x []) (kindState 1) d ((pagePieces (kindState 1) 0 d.x).drop d.pos) = (t, e, true)) ∧
      (∃ t e, runPieces (scatterStep 0 d.x []) (kindState 1) d ((pagePieces (kindState 1) 0 d.x).drop d.pos) =
        (t, e, true)) ∧
      (∃ t st, commitPages (kindState 1) 0 (dP d.x 0) (dP d.x 1) (dP d.x 2) (dP d.x 3) = (t, st))) ∧
    (∃ d t e, descOf (dmaState [] [aDesc (packet [(0, 3), (2, 16), (3, 3), (16, 1), (20, 1)])]) 0 0 = some d ∧
      runPieces (decodeStep 0 d.x []) (dmaState [] [d]) d ((decodePieces d.x).drop d.pos) = (t, e, true)) := by
  refine ⟨⟨aDesc (packet [(0, 1), (2, 16), (16, 32), (20, 1)]), by decide +kernel, rfl, ?_, ?_, ?_, ?_, ?_, ?_⟩,
    aDesc (packet [(0, 3), (2, 16), (3, 3), (16, 1), (20, 1)]), ?_⟩
  · exact triple_of _ (by decide +kernel)
  · exact triple_of _ (by decide +kernel)
  · exact triple_of _ (by decide +kernel)
  · exact triple_of _ (by decide +kernel)
  · exact triple_of _ (by decide +kernel)
  · exact pair_ex _
  · obtain ⟨t, e, h⟩ := triple_of (c := true) (runPieces (decodeStep 0 (aDesc (packet [(0, 3), (2, 16), (3, 3), (16, 1), (20, 1)])).x [])
      (dmaState [] [aDesc (packet [(0, 3), (2, 16), (3, 3), (16, 1), (20, 1)])]) (aDesc (packet [(0, 3), (2, 16), (3, 3), (16, 1), (20, 1)]))
      ((decodePieces (aDesc (packet [(0, 3), (2, 16), (3, 3), (16, 1), (20, 1)])).x).drop 0)) (by decide +kernel)
    exact ⟨t, e, by decide +kernel, h⟩

theorem witness_RequestsComplete :
    (let d := { aDesc (copyDesc 0) with done := some .invalid }
     let s := (dmaState [] [d]).setCore 0 { outst := [(0, 1)] }
     descOf s 0 0 = some d ∧ d.done = some .invalid ∧ Status.invalid ≠ .ok ∧ 0 < tget 0 (s.core d.core).outst d.flag) := by
  decide +kernel

/-- Attributes of a request of cluster 0's DMA. -/
def anAcc : Acc := { node := 0, part := 0, key := 0, pasid := 2 ^ 20 }

theorem witness_PiecesMoveBytes :
    (∃ u x p i, readBytes runningState anAcc (cmAddr 0 0) 32 = (u, .ok x p i)) ∧
    (∃ u st, readBytes runningState anAcc 0xFFFFFFFFFF00 32 = (u, .err st)) := by
  refine ⟨?_, ?_⟩
  · obtain ⟨u, h⟩ := pair_of (b := Got.ok 0 0 0) (readBytes runningState anAcc (cmAddr 0 0) 32) (by decide +kernel)
    exact ⟨u, 0, 0, 0, h⟩
  · obtain ⟨u, h⟩ := pair_of (b := Got.err .accessViolation) (readBytes runningState anAcc 0xFFFFFFFFFF00 32) (by decide +kernel)
    exact ⟨u, _, h⟩

end Sys2Proof.Tests
end

