-- ==== Sys2Proof/Tests/WitnessC.lean ====
section
/-! SUPPORT. States and operands that meet the hypotheses of the statements, clause by clause: command queues, copy engines, the
command processor, units. -/
namespace Sys2Proof.Tests
set_option Elab.async false
open Sys2Proof.Machine

/-! Entries. -/

/-- Packet x waits as entry 0 of queue 0. -/
theorem entry_waits (s : State) (x : BitVec 512) : EntryWaits (withEntry s x) 0 0 x :=
  ⟨{ seq := 0, pkt := x }, by simp [withEntry, entryOf], rfl, rfl, rfl⟩

/-- Queue 0 of PF0 for partition 0, to which cluster 0 belongs; nothing runs. -/
def commandState : State := wf servingState (fCluCfg_en 0) 1

theorem witness_EntriesEndOnce :
    entryOf (withEntry commandState 0) 0 0 = some { seq := 0, pkt := 0 } ∧ Status.abortTooLate.good = true ∧
    Status.invalid.good = false ∧ ((withEntry commandState 0).queue 0).stop = false ∧
    ((withEntry commandState 0).queue 0).entries = [{ seq := 0, pkt := 0 }] ∧ 0 < 64 := by decide +kernel

/-- An opcode over n bytes from address a (and to address d). -/
def rangePacket (op a d n : Nat) : BitVec 512 := packet [(0, op), (16, a), (24, d), (32, n)]

theorem witness_CopyCommandsStart :
    freeEngine commandState = some 0 ∧ copyOk (rangePacket 1 (cmAddr 0 0) (cmAddr 0 0x10000) 1) = true ∧
    digestOk (rangePacket 7 (cmAddr 0 0) 0 256) = true ∧ copyOk (rangePacket 1 (cmAddr 0 0) (cmAddr 0 0x10000) 0) = false ∧
    pk (rangePacket 5 (cmAddr 0 0) 0 1) 32 8 ≠ 0 ∧
    hostOnly (pkAddr (rangePacket 6 (remBase - 256) 0 256) 16) (pk (rangePacket 6 (remBase - 256) 0 256) 32 8) = true ∧
    (∃ t, walkSlices commandState (hostWalk 2 (remBase - 256) 256 (qPasid commandState 0)) allSlices = (t, [])) ∧
    (∃ t, walkSlices commandState (hostWalk 3 (remBase - 256) 256 (qPasid commandState 0)) allSlices = (t, [])) ∧
    (∃ t, pagesReady { commandState with host := { up := true, cache := [⟨2 ^ 20, 0, 48, true, true⟩] } } 0 0
      (hostPages (2 ^ 20) false [(remBase - 256, 256)]) = (t, .ready)) := by
  refine ⟨by decide +kernel, by decide +kernel, by decide +kernel, by decide +kernel, by decide +kernel, by decide +kernel,
    pair_of _ (by decide +kernel), pair_of _ (by decide +kernel), pair_of _ (by decide +kernel)⟩

/-- Engine 15 in tile k of a ZERO of two tiles of cluster memory that starts 256 bytes before a tile boundary. -/
def engineState (k : Nat) (g : Engine → Engine) : State :=
  (withEntry commandState (rangePacket 4 0 (cmAddr 0 0xFF00) 512)).setEngine 15 (g { q := 0, seq := 0, busy := true, tile := k })

def engineTile (k : Nat) : State :=
  let s := engineState k id
  let x := rangePacket 4 0 (cmAddr 0 0xFF00) 512
  runTile (s.setEngine 15 { s.engine 15 with waitPages := [] }) 15 (engineAcc s 15 0 x []) x (.tileComplete 15 []) (tileMoves x k)

theorem witness_TilesMove :
    (let s := engineState 0 id
     (∃ en, entryOf s (s.engine 15).q (s.engine 15).seq = some en ∧ copyClass (pkOpcode en.pkt) = true) ∧
       (s.engine 15).busy = true ∧ (s.engine 15).fail = none ∧ (s.engine 15).abort = false) ∧
    (let s := engineState 1 fun g => { g with abort := true }
     (s.engine 15).abort = true ∧ (s.engine 15).pos = 0) ∧
    (∃ s0, pagesReady (engineState 0 id) 0 0 (hostPages (2 ^ 20) false [] ++ hostPages (2 ^ 20) true
      ((tileMoves (rangePacket 4 0 (cmAddr 0 0xFF00) 512) 0).map fun m => (m.dst, m.n))) = (s0, .ready)) ∧
    (((engineTile 0).engine 15).fail = none ∧ ((engineTile 0).engine 15).pos = (tileMoves (rangePacket 4 0 (cmAddr 0 0xFF00) 512) 0).length ∧
      0 + 1 < tileCount (rangePacket 4 0 (cmAddr 0 0xFF00) 512) ∧ ((engineTile 0).engine 15).tile = 0) ∧
    (((engineTile 1).engine 15).fail = none ∧ ((engineTile 1).engine 15).pos = (tileMoves (rangePacket 4 0 (cmAddr 0 0xFF00) 512) 1).length ∧
      ¬ 1 + 1 < tileCount (rangePacket 4 0 (cmAddr 0 0xFF00) 512) ∧ ((engineTile 1).engine 15).tile = 1 ∧
      ((engineTile 1).engine 15).badAddr = none) := by
  refine ⟨⟨⟨{ seq := 0, pkt := rangePacket 4 0 (cmAddr 0 0xFF00) 512 }, by decide +kernel, by decide +kernel⟩, by decide +kernel⟩,
    by decide +kernel, pair_of _ (by decide +kernel), by decide +kernel, by decide +kernel⟩

/-! Loads. -/

/-- The bundle that ends a step. -/
def endBundle : Nat := (bundleWord ((encodeControl (.endstep noSlot 0)).getD 0) 0 0 0 0 0 0).toNat

/-- commandState with that bundle in scratch. -/
def imageState : State := withScratch commandState (memWrite [] scrAt 16 endBundle)

/-- LOAD_PROGRAM of that bundle into core 31. -/
def loadPacket : BitVec 512 := packet [(0, 8), (8, 31), (10, 1), (16, scrAt), (24, 1)]

def imageRead : List (Byte × Bool) := (readRange imageState (cpAcc imageState 0 loadPacket) (piecesFrom scrAt 16)).2.1

theorem witness_LoadsAreWritten_program :
    1 ≤ pk loadPacket 24 2 ∧ pk loadPacket 24 2 ≤ 2048 ∧ pk loadPacket 26 2 < pk loadPacket 24 2 ∧ bits loadPacket.toNat 224 1 = 0 ∧
    (∀ c ∈ (List.range (pk loadPacket 10 2)).map fun i => pk loadPacket 8 2 + i,
      partOfCluster imageState (c / 32) = some (qPart imageState 0) ∧ rf imageState (fPwrDomctl_state (domainOf (c / 32))) = 0) ∧
    (readRange imageState (cpAcc imageState 0 loadPacket) (piecesFrom (pkAddr loadPacket 16) (16 * pk loadPacket 24 2))).2.2 = none ∧
    (∀ b ∈ imageRead, b.2 = false) ∧ programOk (bundlesOf (imageRead.map (·.1)) 1) 0 = true ∧ coreUsable imageState 31 = true ∧
    (imageState.part 0).aborted = false ∧ stopped imageState 0 = true := by decide +kernel

theorem witness_LoadsAreWritten_others :
    (let x := packet [(0, 0xA), (8, 0), (10, 1), (16, scrAt), (28, 1)]
     (∀ cl ∈ (List.range (pk x 10 2)).map fun i => pk x 8 2 + i, partOfCluster imageState cl = some 0 ∧
       rf imageState (fPwrDomctl_state (domainOf cl)) = 0 ∧ (imageState.dma cl).active = [] ∧ (imageState.dma cl).queue = []) ∧
     stopped imageState 0 = true ∧ bits x.toNat 199 1 = 0 ∧
     (dmaReadAll imageState (cpAcc imageState 0 x) { id := 0, core := 0, flag := 0, x := 0 }
       (piecesFrom (pkAddr x 16) (pk x 28 4))).2.isSome = true) ∧
    (let x := packet [(0, 9), (16, scrAt)]
     pk x 8 1 = qPart imageState 0 ∧ bits x.toNat 72 1 = 0 ∧
     (readRange imageState (cpAcc imageState 0 x) (piecesFrom (pkAddr x 16) (128 * pk x 24 2))).2.2 = none ∧
     verifySchedule imageState (schedAfter imageState 0 false []) (ownsPort imageState 0) = none) := by decide +kernel

/-! Steps, configuration. -/

theorem witness_StepCommands :
    (pk (packet [(0, 0x10)]) 8 1 = qPart commandState 0 ∧ runBusy commandState 0 = false) ∧
    (let s := commandState.setPart 0 { run := some someRun, inStep := true }
     runBusy s 0 = true ∧ (s.part 0).run = some someRun ∧ (s.part 0).paused = false ∧ someRun.waitFloor = false) ∧
    ((commandState.setPart 0 { run := some someRun, paused := true }).part 0).paused = true ∧
    (entryOf (withEntry commandState (packet [(0, 0x13)])) 0 0 = some { seq := 0, pkt := packet [(0, 0x13)] } ∧
      bits (packet [(0, 0x13)]).toNat 65 1 = 0) ∧
    (qFn commandState 0 = 0 ∧ pk (packet [(0, 0x14), (16, 1)]) 16 2 = 1) ∧
    (let x := packet [(0, 0x16)]
     commitBitsOk x = true ∧ partOfCluster commandState (pk x 8 2) = some (qPart commandState 0) ∧
       rb commandState (fErrPart_qact 0) = false ∧ stopped commandState 0 = true ∧
       rf commandState (fPwrDomctl_state (domainOf (pk x 8 2))) = 0) ∧
    stopped (commandState.setPart 0 { run := some someRun }) 0 = false := by decide +kernel

/-- A mask of cluster 0 alone in scratch. -/
def maskState : State := withScratch commandState (memWrite [] scrAt 128 1)

/-- No cluster changes hands under a run where no partition runs. -/
theorem changesRunning_of_parts (s : State) (h : s.parts = []) (p clm : Nat) : changesRunning s p clm = false := by
  unfold changesRunning
  rw [List.any_eq_false]
  intro cl _
  simp only [clusterStopped, stopped, State.part, h, tget, tfind]
  split <;> simp

theorem witness_ConfigurationCommands_running : changesRunning maskState 0 1 = false ∧ changesRunning commandState 0 0 = false :=
  ⟨changesRunning_of_parts _ rfl _ _, changesRunning_of_parts _ rfl _ _⟩

theorem witness_ConfigurationCommands :
    guarSum commandState (8 * pk (packet [(0, 0x20), (8, 15), (9, 7)]) 8 1 + pk (packet [(0, 0x20), (8, 15), (9, 7)]) 9 1) = 0 ∧
    0 + pk (packet [(0, 0x20), (12, 13100)]) 12 2 ≤ guarLimit ∧ guarLimit < 0 + pk (packet [(0, 0x20), (12, 13101)]) 12 2 ∧
    (let x := packet [(0, 0x21), (16, scrAt)]
     let r := (readRange maskState (cpAcc maskState 0 x) (piecesFrom (pkAddr x 16) 128)).2
     r = ((1, false) :: List.replicate 127 (0, false), none)) ∧
    (let d := natOf ((((1 : Byte), false) :: List.replicate 127 (0, false)).map (·.1))
     bits d 0 512 = 1 ∧ bits d 520 56 = 0 ∧ bits d 672 352 = 0 ∧ bits d 576 96 % 2 = 0) ∧
    withdrawn maskState 0 = false ∧ (∀ n < 16, confidential maskState n = false) ∧
    rf maskState (fPwrDomctl_state (domainOf 0)) = 0 ∧
    (let x := packet [(0, 0x22), (9, 62)]
     pk x 9 1 ≠ 63 ∧ rf commandState (fSecSlot_state (pk x 9 1)) = 0 ∧ assigned commandState (pk x 10 1) = true) ∧
    (let s := wf commandState (fSecSlot_state 62) 1
     rf s (fSecSlot_state 62) = 1 ∧ rf s (fSecSlot_part 62) = 0 ∧ stopped s 0 = true) ∧
    pk (packet [(0, 0x22), (9, 63)]) 9 1 = 63 := by decide +kernel

/-! Units. -/

theorem witness_UnitsGoIntoReset :
    clusterStopped commandState (clusterOfCore 31) = true ∧ rf commandState (fPwrDomctl_state (domainOf (clusterOfCore 31))) ≠ 2 ∧
    clusterStopped runningState (clusterOfCore 31) = false ∧ clusterStopped commandState 0 = true ∧
    clusterStopped runningState 0 = false ∧ portOwner commandState 7 = none := by decide +kernel

/-- A unit in reset. -/
def jobState (k n : Nat) (absorbed : Bool) : State :=
  { commandState with rjobs := [{ kind := k, idx := n, q := 0, seq := 0, start := 0, absorbed := absorbed }], devtime := 10000000 }

theorem witness_UnitsLeaveReset :
    ((jobState 0 31 false).rjobs.find? (fun y => decide (y.kind = 0 ∧ y.idx = 31))).isSome = true ∧
    ((jobState 0 31 false).dma 0).active = [] ∧ ((jobState 0 31 false).dma 0).queue = [] ∧
    (∀ cl ∈ clustersOf (jobState 2 0 false) 0, rf (jobState 2 0 false) (fPwrDomctl_state (domainOf cl)) = 0 ∧
      ((jobState 2 0 false).dma cl).active = []) ∧
    (∀ i < 4, ((jobState 4 7 false).slice (4 * 7 + i)).miss = []) ∧
    (∃ u, walkSlices (jobState 4 7 false) { op := 2, scope := 0 } ((List.range 4).map (4 * 7 + ·)) = (u, [])) ∧
    rf (wf (jobState 5 7 false) (fLnkPstat_state 7) 2) (fLnkPstat_state 7) = 2 ∧
    0 + 10 ^ 7 ≤ (jobState 4 7 true).devtime.toNat ∧ commandState.devtime.toNat < 0 + 10 ^ 7 := by
  refine ⟨by decide +kernel, by decide +kernel, by decide +kernel, by decide +kernel, by decide +kernel,
    pair_of _ (by decide +kernel), by decide +kernel, by decide +kernel, by decide +kernel⟩

/-- A field test of kind 0 at block b. -/
def aTest (b : Nat) : FTest := { kind := 0, idx := 31, code := 1, entry := some (0, 0), blk := b }
def testState (b : Nat) : State := { commandState with ftests := [aTest b], devtime := 1000000000 }

theorem witness_FieldTestsRun :
    (let x := packet [(0, 0x1A), (8, 0), (10, 31)]
     pk x 8 1 = 0 ∧ coreUsable commandState (pk x 10 2) = true ∧
       rf commandState (fPwrDomctl_state (domainOf (clusterOfCore (pk x 10 2)))) = 0) ∧
    (let x := packet [(0, 0x1A), (8, 1)]
     pk x 8 1 = 1 ∧ clusterStopped commandState (pk x 10 2) = true ∧ rf commandState (fPwrDomctl_state (domainOf (pk x 10 2))) = 0) ∧
    (let x := packet [(0, 0x1A), (8, 2), (10, 15)]
     pk x 8 1 = 2 ∧ (commandState.engine (pk x 10 2)).busy = false ∧ (commandState.engine (pk x 10 2)).testing = false) ∧
    coreUsable (wf commandState (fCluCoremap_dis 0) (2 ^ 31)) 31 = false ∧
    (testState 0).ftests.find? (fun f => decide (f.kind = 0 ∧ f.idx = 31)) = some (aTest 0) ∧
    (∃ len, (testBlocks (aTest 0).code)[(aTest 0).blk]? = some len ∧ blockMay (testState 0) (aTest 0) len = true) ∧
    0 + 1 < (testBlocks 1).length ∧ ((testBlocks 1).length - 1) + 1 = (testBlocks 1).length ∧
    (testState 0).ftests.find? (fun f => decide (f.kind = 0 ∧ f.idx = 31 ∧ f.start + 10 ^ 9 ≤ (testState 0).devtime.toNat)) =
      some (aTest 0) ∧
    ({ commandState with errs := { vpDue := [511] } } : State).errs.vpDue.contains 511 = true := by
  refine ⟨by decide +kernel, by decide +kernel, by decide +kernel, by decide +kernel, by decide +kernel,
    ⟨((testBlocks (aTest 0).code)[(aTest 0).blk]?).getD 0, by decide +kernel, by decide +kernel⟩,
    by decide +kernel, by decide +kernel, by decide +kernel, by decide +kernel⟩

theorem witness_Quarantine_Telemetry :
    ((commandState.part 15).run = none ∧ rb commandState (fErrPart_quar 15) = false) ∧
    rb (wf commandState (fErrPart_quar 15) 1) (fErrPart_quar 15) = true ∧
    (let x := packet [(0, 0x1B), (8, 3), (24, scrAt), (32, 16)]
     let s := withScratch commandState []
     qFn s 0 = 0 ∧
     (writeRange s (cpAcc s 0 x) (piecesFrom (pkAddr x 24) 16)
       ((telemetryBlock s (pk x 8 1) none).take 16)).2 = none) ∧
    (let s := wf commandState (fCmdSqcfg_fn 0) 1
     qFn s 0 ≠ 0 ∧ pk (packet [(0, 0x1B), (8, 0)]) 8 1 ≠ 3) := by decide +kernel

end Sys2Proof.Tests
end

