-- ==== Sys2Proof/Tests/WitnessD.lean ====
section
/-! SUPPORT. States and operands that meet the hypotheses of the statements, clause by clause: host queues, line requests,
memories, the maintenance ring, the host port, registers. -/
namespace Sys2Proof.Tests
set_option Elab.async false
open Sys2Proof.Machine

/-! Host queues. -/

/-- Queue 0 with rings of 16 entries at host address 0 and 4,096, two entries not fetched, depth 4, host pages translated. -/
def ringState : State :=
  (wf (wf (wf { servingState with host := { up := true, cache := [⟨2 ^ 20, 0, 48, true, true⟩] } } (fCmdSqcfg_lsize 0) 4)
    (fCmdSqcfg_depth 0) 4) (fCmdCqbase_base 0) 1).setQueue 0 { tail := 2 }

def endedEntry : Entry := { seq := 0, pkt := 0, reply := some ⟨.ok, 0, 0, 0⟩ }

theorem witness_QueuesFetchAndReply :
    queueAt ringState 0 0 = some 0 ∧ 15 < ringN ringState 0 ∧ ringHolds ringState 0 15 ≤ ringN ringState 0 - 1 ∧
    ringN ringState 0 ≤ 16 ∧ 0 < ringN ringState 0 ∧ (0 + ringN ringState 0 - (ringState.queue 0).head % ringN ringState 0) %
      ringN ringState 0 ≤ repliesHeld ringState 0 ∧
    repliesHeld ringState 0 < (1 + ringN ringState 0 - (ringState.queue 0).head % ringN ringState 0) % ringN ringState 0 ∧
    nextQueue ringState = some 0 ∧ rf ringState (fLnkQfwd_target 0) = 0 ∧ (ringState.queue 0).entries = [] ∧
    (∃ u, translateOne ringState (qPasid ringState 0) (rf ringState (fCmdSqbase_base 0) * 4096 +
      64 * ((ringState.queue 0).nextseq % ringN ringState 0)) false = (u, .hit)) ∧
    nextQueue servingState ≠ some 0 ∧
    (let s := ringState.setQueue 0 { entries := [endedEntry] }
     (s.queue 0).entries = endedEntry :: [] ∧ endedEntry.reply = some ⟨.ok, 0, 0, 0⟩ ∧ (s.queue 0).discard = false ∧
       (s.queue 0).ringFault = false ∧ repliesHeld s 0 < ringN s 0 - 1) ∧
    (∃ u, translateOne (ringState.setQueue 0 { entries := [endedEntry] }) (2 ^ 20) 4096 true = (u, .hit)) ∧
    rb (wf ringState (fCmdSqstat_halt 63) 1) (fCmdSqstat_halt 63) = true := by
  refine ⟨by decide +kernel, by decide +kernel, by decide +kernel, by decide +kernel, by decide +kernel, by decide +kernel,
    by decide +kernel, by decide +kernel, by decide +kernel, by decide +kernel, pair_of _ (by decide +kernel), by decide +kernel,
    by decide +kernel, pair_of _ (by decide +kernel), by decide +kernel⟩

theorem witness_QueuesEnableAndDisable :
    (qFn servingState 63 = 0 ∧ rb servingState (fCmdSqcfg_en 63) = false ∧ rb servingState fBseBoot_cmd = true) ∧
    rb servingState (fCmdSqcfg_en 0) = true ∧
    (let s := wf State.reset (fSecPbind_conf 15) 1
     (∀ q ∈ queuesOfFn s 16, rb s (fCmdSqcfg_en q) = false) ∧ 1 ≤ 16 ∧ confidential s (16 - 1) = true) := by decide +kernel

theorem witness_QueuesEnableAndDisable_flr : ∀ q ∈ queuesOfFn State.reset 0, rb State.reset (fCmdSqcfg_en q) = false := by
  decide +kernel

/-! Line requests. -/

/-- Requests of cluster 0 in cluster memory, in the far tier (slot 62 of partition 0) and to no range. -/
def cmReq : Req := { src := 0, tag := 65535, addr := cmAddr 0 0x3FFF00, hint := 0, cls := 0, part := 0, key := 0, pasid := 2 ^ 20, imm := 255 }
def farReq (imm : BitVec 64) : Req := { cmReq with addr := farBase + 2 ^ 30, key := 62, imm := imm }
def noReq : Req := { cmReq with addr := 0xFFFFFFFFFF00 }
def noFlit : Flits := ⟨0, 0, 0, 0⟩
def oneFlit : Flits := ⟨1, 5, 0, BitVec.ofNat 16 (pieceCheck 5).toNat⟩

/-- The first line of far block 1. Its slice is on, cluster 0 and far block 1 of partition 0, slot 62 its key, the far tier trained. -/
def farLine : Nat := (farBase + 2 ^ 30) / 256
def fabricState : State :=
  wf (wf (wf (wf (wf ((List.range 8).foldl (fun s h => setB s (fHbcStat_avail h)) servingState) (fCluCfg_en 0) 1)
    (fSecFtgrant_owner 1) 0) (fSecSlot_state 62) 1) (fSecSlot_part 62) 0) (fSbfCtl_en (sliceOf farLine)) 1

theorem witness_LineRequestsAnswered_direct :
    checkFlits fabricState (unitOfNode 0) (servingUnit fabricState (resolve fabricState cmReq.addr)) cmReq.addr noFlit = (fabricState, 0) ∧
    rangeOf (resolve fabricState cmReq.addr) = .cmem ∧
    checkReq fabricState (accOf fabricState cmReq 1 []) (resolve fabricState cmReq.addr) 256 false = none ∧
    changing fabricState (resolve fabricState cmReq.addr) = false ∧
    (access fabricState (accOf fabricState cmReq 1 []) (resolve fabricState cmReq.addr) 256 (.read 0 256)).2 ≠ .wait ∧
    cmReq.addr % 256 = 0 ∧ noFlit.n = 0 := by decide +kernel

/-- fabricState with that line in the victim cache of its slice. -/
def heldLine : CLine :=
  { line := farLine, pasid := 0, dirty := false, psn := false, keep := false, cls := 0, part := 0, key := 62, data := 7 }
def lineState : State := fabricState.setSlice (sliceOf farLine) { victim := [{ ln := heldLine }] }

/-- What a slice answers. -/
def answers (s : State) (q : Acc) (op : LineOp) : Bool :=
  match (lookSlice s (sliceOf farLine) q farLine op).2 with
  | .done (.ok _ _ _) => true
  | _ => false

theorem witness_LineRequestsAnswered_cached :
    rangeOf (resolve lineState (farReq 255).addr) = .far ∧ changing lineState (farBase + 2 ^ 30) = false ∧
    checkReq lineState (accOf lineState (farReq 255) 1 []) (farBase + 2 ^ 30) 256 false = none ∧
    answers lineState (accOf lineState (farReq 255) 1 []) (.read 0 256) = true ∧
    (lookSlice fabricState (sliceOf farLine) (accOf fabricState (farReq 255) 1 []) farLine (.read 0 256)).2 = .fetch ∧
    checkReq fabricState (accOf fabricState { farReq 255 with part := 15 } 1 []) (farBase + 2 ^ 30) 256 false = some .accessViolation := by
  decide +kernel

theorem witness_LineRequestsAnswered_writes :
    (checkFlits lineState (unitOfNode 0) (unitSlice (sliceOf farLine)) (farBase + 2 ^ 30) oneFlit).2 = 0 ∧ oneFlit.n = 1 ∧
    checkReq lineState (accOf lineState (farReq 0) 2 []) (farBase + 2 ^ 30) 32 false = none ∧
    answers lineState (accOf lineState (farReq 0) 2 []) (.write 0 32 5 0) = true ∧
    answers lineState (accOf lineState (farReq 0) 3 []) (.masked 0xFFFFFFFF 5 0) = true ∧
    answers lineState (accOf lineState (farReq 0) 5 []) .zero = true ∧ (farReq 0).addr % 256 = 0 := by decide +kernel

theorem witness_LineRequestsAnswered_atomics :
    (∀ x ∈ [(1, 0), (2, 0), (3, 0), (4, 4), (5, 3)], atomicAllowed x.1 x.2 = true ∧ (farBase + 2 ^ 30) % atomicBytes x.2 = 0 ∧
      checkReq lineState (accOf lineState (farReq 0) 4 []) (farBase + 2 ^ 30) (atomicBytes x.2) true = none ∧
      answers lineState (accOf lineState (farReq 0) 4 []) (.atomic x.1 x.2 0 5 0 false) = true) ∧
    atomicAllowed 6 2 = true ∧ (farBase + 2 ^ 30) % 256 = 0 ∧
    checkReq lineState (accOf lineState (farReq 0) 4 []) (farBase + 2 ^ 30) 256 true = none ∧
    answers lineState (accOf lineState (farReq 0) 4 []) (.lineAdd 2 0 false) = true := by decide +kernel

theorem witness_AtomicsChangeOneElement :
    heldLine.psn = false ∧ 252 + atomicBytes 0 ≤ 256 ∧ 0 + 32 ≤ 8 * 252 := by decide

/-! Misses and responses. -/

def missAcc : Acc := { node := 0, part := 0, key := 62, pasid := 2 ^ 20 }
def missState (got : List Nat) : State :=
  fabricState.setSlice (sliceOf farLine) { miss := [{ line := farLine, acc := missAcc, got := got }] }

/-- A host line whose translation has failed. -/
def hostMiss : State :=
  { fabricState with host := { up := true, waits := [⟨2 ^ 20, 0, false, .failed, 0⟩] } }

theorem witness_MissesFill :
    checkReq fabricState (accOf fabricState (farReq 255) 1 []) (resolve fabricState (farReq 255).addr) 1 false = none ∧
    (((missState []).slice (sliceOf farLine)).missOf farLine 0).isSome = true ∧
    (match (fetchLine (missState []) missAcc farLine).2 with | .ok _ _ _ => true | _ => false) = true ∧
    [0, 1, 2].length = 3 ∧ 3 ∉ [0, 1, 2] ∧
    (fetchLine hostMiss missAcc (hostBase / 256)).2 = .err .translationFault ∧
    (match (writeBack fabricState [] heldLine).2 with | .ok _ _ _ => true | _ => false) = true ∧
    ([({ ln := heldLine, wb := true } : Victim)].find? fun v => v.wb && v.ln.is farLine 0).isSome = true := by decide +kernel

theorem witness_ResponsesArrive :
    checkFlits State.reset (unitOfNode 0) (unitOfNode 0x237) 0 noFlit = (State.reset, 0) ∧
    (0x228 ≤ 0x237 ∧ 0x237 < 0x238 ∧ ((State.reset.setEngine 15 { busy := true }).engine (0x237 - 0x228)).busy = true) ∧
    (tget [] State.reset.ctlq 0).length < 4 ∧
    4 ≤ (tget [] ({ State.reset with ctlq := [(0, [1, 2, 3, 4])] } : State).ctlq 0).length := by decide +kernel

/-! Background work. -/

def aWrite (seq line : Nat) : NWrite := { seq := seq, line := line, data := 0, psn := false, due := 0, op := 2, node := 0, part := 0, key := 0 }

/-- Channel 127 of die 7 inhibited, with a write that has waited too long, and a table of n lines. -/
def nearState (n : Nat) (d : Bool) : State :=
  (wf State.reset (fNtcChstat_tstate 1023) 2).setNear 1023
    { wq := [aWrite 0 1000], table := (List.range n).map fun i => (i, 0), deferred := d }

theorem witness_BackgroundWork :
    rb State.reset fNtcCtl_scrub = true ∧ rb State.reset fSbfCfg_scrub = true ∧ 511 < 512 ∧ 31 < 32 ∧
    ((nearState 63 false).near (128 * 7 + 127)).wq.find? (fun y => decide (y.seq = 0)) = some (aWrite 0 1000) ∧
    inhibited (nearState 63 false) 1023 = true ∧ (aWrite 0 1000).due ≤ (nearState 63 false).devtime.toNat ∧
    (discardFrom (nearState 63 false) 1023 (aWrite 0 1000)).isSome = true ∧
    discardFrom (nearState 64 false) 1023 (aWrite 0 1000) = none ∧
    ((nearState 63 true).near 1023).deferred = true ∧
    ((nearState 63 true).near 1023).wq.find? (fun y => decide (y.due ≤ (nearState 63 true).devtime.toNat)) = some (aWrite 0 1000) ∧
    ([some 40, none])[0]? = some (some 40) ∧ (([some 40, none] : List (Option Nat))[1]?).getD none = none ∧
    ({ State.reset with qos := { fin := 0 } } : State).qos.fin ≤ 0 := by decide +kernel

/-! The maintenance ring. -/

theorem witness_RingMessages :
    (regAt offCmdPrito).isSome = true ∧ regOff State.reset offCmdPrito = false ∧
    (let r : RingReq := { tag := 15, write := true, off := 0, tries := 3, bad := true }
     ringOf { State.reset with ring := { reqs := [r] } } 15 = some r ∧ r.bad = true ∧ 3 ≤ r.tries) ∧
    (let r : RingReq := { tag := 15, write := true, off := 0, tries := 2, bad := true }
     ringOf { State.reset with ring := { reqs := [r] } } 15 = some r ∧ r.tries < 3) ∧
    (0 : BitVec 16) ≠ ringCrc 4 15 [] ∧ (0 : BitVec 16) ≠ ringCrc 5 0 [575, 0xFFFF] ∧ 0xFFC < 0x1000 := by decide +kernel

/-! The host port. -/

/-- BAR4 onto the near tier of cluster 0, with a key. -/
def bar4State : State :=
  wf (wf (wf (wf (wf servingState (fCluCfg_en 0) 1) (fSecSlot_state 62) 1) (fSecSlot_part 62) 0) fCmdBar4_key 62) fCmdBar4_part 0

theorem witness_HostAccesses :
    bar4State.host.up = true ∧ bar4Bad bar4State (bar4Find bar4State 0 0 8 false) 0 = false ∧
    (bar4ReadRange bar4State (bar4Find bar4State 0 0 8 false) []).2.2 = none ∧
    bar4Bad servingState (bar4Find servingState 0 0 8 false) 0 = true ∧ recovering bar4State = false ∧
    ([1] : List (BitVec 8)) ≠ [] ∧ (bar4Find bar4State 0 255 1 true).addr % 256 + 1 ≤ 256 ∧
    (match (writeBytes bar4State { bar4Acc (bar4Find bar4State 0 255 1 true) with ecc := [] } 255 1 1 0).2 with | .ok _ _ _ => true | _ => false) = true ∧
    (let r : Bar4 := { id := 7, addr := 0, part := 0, key := 0, n := 8, write := false, sent := 0 }
     let s : State := { servingState with host := { up := true, bar4 := [r] }, devtime := 20000 }
     s.host.bar4.find? (fun r => decide (r.id = 7 ∧ r.sent + 20000 ≤ s.devtime.toNat)) = some r ∧ r.write = false) ∧
    16 < 17 ∧ 1023 < 1024 := by decide +kernel

theorem witness_TranslationsComeAndGo :
    (let w : XWait := ⟨7, 3, true, .ats, 0⟩
     let s : State := { servingState with host := { up := true, waits := [w] } }
     w ∈ s.host.waits ∧ (⟨7, 0, 14, true, true⟩ : Xlat).covers w.pasid (4096 * w.page) = true ∧ w.phase = .ats ∧
       (⟨7, 0, 14, true, true⟩ : Xlat).allows w.write = true) ∧
    (let w : XWait := ⟨7, 3, true, .pri 511, 0⟩
     let s : State := { servingState with host := { up := true, waits := [w] }, devtime := 2 ^ 60 }
     w ∈ s.host.waits ∧ w.phase = .pri 511 ∧ w.sent + rf s fCmdPrito_ms * 10 ^ 6 ≤ s.devtime.toNat) ∧
    invBusy servingState 7 0 14 = false ∧ 5 ∉ servingState.host.invs ∧
    (∃ u, walkSlices { servingState with host := { servingState.host with invs := [5] } } (hostWalk 3 hostBase (2 ^ 14) 7) allSlices =
      (u, [])) :=
  ⟨by decide +kernel, by decide +kernel, by decide +kernel, by decide +kernel, pair_of _ (by decide +kernel)⟩

end Sys2Proof.Tests
end

