-- ==== Sys2Proof/Tests/WitnessE.lean ====
section
/-! SUPPORT. States and operands that meet the hypotheses of the statements, clause by clause: registers, links and the cascade,
power, start and reset, security, debug. -/
namespace Sys2Proof.Tests
set_option Elab.async false
open Sys2Proof.Machine

/-! Registers. -/

/-- CLU_CFG of cluster 511 has RWL and W1S fields, ERR_STAT a W1C one; no register lies at the end of BAR0. -/
theorem witness_WritesFollowAccessTypes :
    ((regFind (offCluCfg 511)).any fun x => x.2 == 511 && x.1.fields.any fun f => decide (f.acc = .rwl ∧ f.clamp = .none)) = true ∧
    ((regFind offCmdPrito).any fun x => !x.1.fields.isEmpty) = true ∧
    lockedReg (wf State.reset (fCluCfg_commit 511) 1) .cluCfg 511 = true ∧ lockedReg State.reset .cluCfg 511 = false ∧
    (regTable.any fun r => r.fields.any fun f => decide (f.acc = .w1c)) = true ∧
    (regTable.any fun r => r.fields.any fun f => decide (f.acc = .w1s)) = true := by decide +kernel

theorem witness_UnassignedOffsets :
    0x1FFFFFC % 4 = 0 ∧ regAt 0x1FFFFFC = none ∧ windowRead servingState 0x1FFFFFC = none ∧ servingState.host.up = true ∧
    rb servingState fBseBoot_cmd = true := by decide +kernel

/-- The link is up and BASE has not ended; n writes are held. -/
def earlyState (n : Nat) : State :=
  { State.reset with host := { up := true }, sec := { held := List.replicate n ⟨0, 0, 0, 32, 0⟩ } }

theorem witness_RegisterWritesArrive :
    servingState.host.up = true ∧ rb servingState fBseBoot_cmd = true ∧ rb (earlyState 63) fBseBoot_cmd = false ∧
    recovering (earlyState 63) = false ∧ (earlyState 63).sec.held.length < 64 ∧ 64 ≤ (earlyState 64).sec.held.length ∧ 511 < 512 ∧
    rb State.reset (fCluCfg_commit 511) = false ∧ rb (wf State.reset (fCluCfg_commit 511) 1) (fCluCfg_commit 511) = true := by
  decide +kernel

theorem witness_SharedBufferRegisters :
    rb State.reset fSbfMaint_busy = false ∧ maintAllowed 4 (bits (0x20 : BitVec 32).toNat 4 3) = true ∧
    maintAllowed 1 (bits (0x10 : BitVec 32).toNat 4 3) = false ∧
    (let s : State := { wf State.reset fSbfMaint_busy 1 with walk := some ({ op := 2, scope := 0 }, [31]) }
     rb s fSbfMaint_busy = true ∧ s.walk = some ({ op := 2, scope := 0 }, [31]) ∧ ∀ sl ∈ [31], sl < 32) ∧
    (scrRefused State.reset 12 = false ∧ 12 ≠ rf State.reset fSbfScr_ways ∧ scrRefused State.reset 13 = true) ∧
    (rf State.reset (fSbfScrgrant_owner 95) ≠ 15 ∧ rf State.reset (fSecFtgrant_owner 383) ≠ 15 ∧ ¬ rf State.reset (fSecFtgrant_owner 383) < 16) ∧
    rb (wf State.reset (fSecFtgrant_busy 383) 1) (fSecFtgrant_busy 383) = true ∧
    rb (wf State.reset (fSbfCtl_clean 31) 1) (fSbfCtl_clean 31) = true ∧ rb (wf State.reset (fSbfCtl_clean 31) 0) (fSbfCtl_clean 31) = false ∧
    15 ∉ (State.reset.slice 31).locked ∧ rf State.reset (fSbfWaydis_mask 31) / 2 ^ 15 % 2 = 0 ∧
    rf (wf State.reset (fSbfWaydis_mask 31) 0x8000) (fSbfWaydis_mask 31) / 2 ^ 15 % 2 = 1 ∧
    rf (wf State.reset (fSbfWaystat_inv 31) 0x8000) (fSbfWaystat_inv 31) / 2 ^ 15 % 2 = 1 ∧
    rf (wf State.reset (fSbfWaystat_inv 31) 0) (fSbfWaystat_inv 31) / 2 ^ 15 % 2 = 0 := by decide +kernel

theorem witness_SharedBufferRegisters_grant :
    ∃ u, walkSlices (wf State.reset (fSecFtgrant_busy 383) 1) (grantWalk 383) allSlices = (u, []) := pair_of _ (by decide +kernel)

theorem witness_RegulationRegisters :
    guarSum State.reset 127 = 0 ∧ 0 + bits (BitVec.ofNat 32 (13100 * 65536)).toNat 16 14 ≤ 13100 ∧
    13100 < 0 + bits (BitVec.ofNat 32 (13101 * 65536)).toNat 16 14 ∧ 1 ≤ 1000 ∧
    (rf State.reset fQosMissstat_tail + 128 - 64 % 128) % 128 ≤ 64 := by decide +kernel

/-! Links and the cascade. -/

def goodTrain : Train :=
  { lanes := true, frames := true, pos := 1, master := false, port := 0, topo := 1, ndev := 1, auth := true, differs := false,
    oneWay := 214000, time := some 0, joined := true, bcast := true, path := 0 }

/-- A cascade of two devices in SERVICE: this one is the master. -/
def masterState : State :=
  wf (wf (wf servingState fLnkCasc_master 1) fLnkCasc_topo 1) fLnkCasc_ndev 1

/-- The port of the master that leads to the other device, and the one it meets there. -/
theorem witness_PortsTrain :
    (∃ p < 8, ∃ j < 8, mayTrain masterState p = true ∧ isMember masterState = false ∧ rb masterState fLnkCasc_master = true ∧
      identityOk masterState p { goodTrain with port := j } = true) ∧
    (mayTrain masterState 7 = true ∧ ({ goodTrain with lanes := false } : Train).lanes = false) ∧
    ((linkPort (setLinkPort masterState 7 { trained := true }) 7).trained = true ∧
      (linkPort (setLinkPort masterState 7 { trained := true }) 7).provision = false ∧
      (linkPort (setLinkPort masterState 7 { trained := true, provision := true }) 7).provision = true ∧ isMember masterState = false) ∧
    (let s := wf (setLinkPort masterState 7 { failedAt := 5 }) (fLnkPstat_state 7) 3
     rf s (fLnkPstat_state 7) = 3 ∧ (linkPort { s with devtime := 100000005 } 7).failedAt + 10 ^ 8 ≤ ({ s with devtime := 100000005 } : State).devtime.toNat ∧
       s.devtime.toNat < (linkPort s 7).failedAt + 10 ^ 8) := by decide +kernel

def emptyFrame : Frame := { fnum := 0, ucw := 0, corr := 0, tagOk := true, lanes := [], down := false, ctl := [], marks := [], pkts := [] }

theorem witness_LinkPorts_frames :
    rf masterState (fLnkPstat_state 7) ≠ 2 ∧ rf (wf masterState (fLnkPstat_state 7) 2) (fLnkPstat_state 7) = 2 ∧ emptyFrame.ucw = 0 ∧
    emptyFrame.tagOk = true ∧ (linkPort (setLinkPort masterState 7 { sendDown := true }) 7).sendDown = true ∧
    (let o : OutReq := { src := 0, tag := 3, addr := 0, port := 0, sent := 0 }
     let f : OutReq := { src := 1024, tag := 3, addr := 0, port := 0, sent := 0 }
     let s : State := { masterState with outReqs := [o, f], devtime := 10000 }
     reqLimit s o = 10000 ∧
     s.outReqs.find? (fun o => decide (o.src = 0 ∧ o.tag = 3 ∧ o.sent + reqLimit s o ≤ s.devtime.toNat)) = some o ∧
     nodePos o.src = selfPos s ∧
     s.outReqs.find? (fun o => decide (o.src = 1024 ∧ o.tag = 3 ∧ o.sent + reqLimit s o ≤ s.devtime.toNat)) = some f ∧
     nodePos f.src ≠ selfPos s) ∧
    portOwner masterState 7 = none ∧ bits (0x00F00000 : BitVec 32).toNat 26 1 = 0 ∧
    (let s := wf (wf masterState (fLnkPcfg_own 7) 1) (fLnkPcfg_own 6) 1
     (portOwner s 7).isSome = true ∧ portOwner s 7 = portOwner s (bits (0x07000000 : BitVec 32).toNat 23 3) ∧
       portOwner s 7 = some 0 ∧ stopped s 0 = true) := by decide +kernel

/-- The mailbox of device n sends, after k attempts; the transfer of position 1 has passed. -/
def mailState (n k : Nat) : State :=
  let s := wf masterState fLnkCasc_pos n
  let o := mailboxOut s
  { s with links := { s.links with mbx := { s.links.mbx with out := some { o with tries := k, met := some 1 } } } }

theorem witness_LinkPorts_mailbox :
    rb masterState fLnkMbx_busy = false ∧ rf masterState fBsePhase_cur = 3 ∧ 63 ≠ selfPos masterState ∧ 63 < 64 ∧
    rb masterState fLnkMbx_rxv = false ∧
    (∃ o, (mailState 0 0).links.mbx.out = some o ∧ o.crc < 2 ^ 16 ∧ (mailState 0 0).links.mbx.idleAt ≤
      (mailState 0 0).devtime.toNat) ∧ rf (mailState 0 0) fBsePhase_cur = 3 ∧ selfPos (mailState 0 0) = 0 := by
  refine ⟨by decide +kernel, by decide +kernel, by decide +kernel, by decide, by decide +kernel,
    ⟨_, rfl, by decide +kernel, by decide +kernel⟩, by decide +kernel, by decide +kernel⟩

theorem witness_LinkPorts_mailboxRetry :
    (∃ o, (mailState 1 0).links.mbx.out = some o ∧ selfPos (mailState 1 0) = 1 ∧ o.met = some 1) ∧
    (∃ o, (mailState 2 14).links.mbx.out = some o ∧ o.met = some 1 ∧ selfPos (mailState 2 14) = 2 ∧ o.tries < 15) ∧
    (∃ o, (mailState 2 15).links.mbx.out = some o ∧ o.met = some 1 ∧ selfPos (mailState 2 15) = 2 ∧ 15 ≤ o.tries) :=
  ⟨⟨_, rfl, by decide +kernel, by decide +kernel⟩, ⟨_, rfl, by decide +kernel, by decide +kernel, by decide +kernel⟩,
    ⟨_, rfl, by decide +kernel, by decide +kernel, by decide +kernel⟩⟩

/-- Partition 0, cascade-wide, in a run. -/
def cascadeState (f : Part → Part) : State := (wf masterState fLnkCasc_cpart 1).setPart 0 (f { run := some someRun })

theorem witness_CascadeStepsAndTime :
    (let s := cascadeState id
     stepOpen s 0 = true ∧ isCascade s 0 = true ∧ (s.part 0).run.isSome = true ∧ 1 ≠ selfPos s ∧ isMember s = false ∧
       (s.part 0).goSeen ≠ some (1, 5)) ∧
    (let s := cascadeState fun x => { x with goAt := some 0 }
     (s.part 0).goAt = some 0 ∧ 0 ≤ s.devtime.toNat) ∧
    (let s := wf (cascadeState fun x => { x with goWait := true }) fLnkCasc_extgo 1
     rf s fBsePhase_cur = 3 ∧ rb s fLnkCasc_extgo = true ∧ (s.part 0).goWait = true ∧ debugHeld s 0 = false ∧
       (s.part 0).farDbg = [] ∧ (s.part 0).farQuar = false) ∧
    bits (BitVec.ofNat 256 (2 ^ 63)).toNat 63 1 = 1 ∧ bits (0 : BitVec 256).toNat 63 1 = 0 ∧ 31 < 32 := by decide +kernel

/-- A member of the cascade, whose port 7 leads to the master, with its run of the cascade partition. -/
def memberState (f : Part → Part) : State :=
  wf (wf (wf (wf (cascadeState f) fLnkCasc_pos 1) (fLnkRoute_valid 0) 1) (fLnkRoute_port 0) 7) (fLnkPstat_state 7) 2

theorem witness_CascadeStepsAndTime_ready :
    let s := memberState id
    isCascade s 0 = true ∧ isMember s = true ∧ (s.part 0).run.isSome = true ∧ (s.part 0).inStep = false ∧
      (s.part 0).aborted = false ∧ flitsLeft s 0 = false ∧ txEmpty s 0 = true ∧ behind s = [] ∧ routePort s 0 = some 7 := by decide +kernel

/-- The step of partition 0 was aborted 1 ms ago; its one failed port is 7, for which entry 31 holds a detour. -/
def abortedState (auto : Nat) : State :=
  { wf (wf (wf (wf (wf (wf (cascadeState fun x => { x with aborted := true }) (fLnkPcfg_own 7) 1) (fLnkPstat_state 7) 3) (fLnkPstat_ppos 7) 1)
      (fLnkDetour_ready 31) 1) (fLnkDetour_port 31) 7) fLnkCasc_autodet auto with devtime := 1000000 }

/-- An element of a list without images or routes. -/
def anElem (n : Nat) : DetourElem := { pos := n, addr := 0, count := 0, routes := [] }

theorem witness_CascadeStepsAndTime_detour :
    (isMember (abortedState 0) = false ∧ ((abortedState 0).part 0).aborted = true ∧ detouring (abortedState 0) 0 = false ∧
      ((abortedState 0).part 0).abortAt + 10 ^ 6 ≤ (abortedState 0).devtime.toNat ∧ rb (abortedState 0) fLnkCasc_autodet = false) ∧
    (rb (abortedState 1) fLnkCasc_autodet = true ∧ confidential (abortedState 1) 0 = false ∧ failedLinks (abortedState 1) 0 = [(0, 7)] ∧
      detourEntry (abortedState 1) (0, 7) = some 31) := by decide +kernel

/-- An element without images is read at once and verifies. -/
theorem images_none (s : State) (p n : Nat) : detourImages s p (anElem n) = (s, some (.ok ([], []))) := rfl

theorem load_none (s : State) (p n : Nat) : loadElem s p (anElem n) = (s, some true) := by
  rw [loadElem, images_none]; rfl

theorem answer_none (s : State) (p n : Nat) : elemAnswer s p true (anElem n) = (s, some (true, Config.detourDigest [])) := by
  rw [elemAnswer, images_none]; rfl

/-- The job of that detour, loading its own element. -/
def aJob : DetourJob := { entry := 31, part := some 0, elems := [anElem 0], loading := true }
def jobbedState : State := { abortedState 1 with links := { (abortedState 1).links with jobs := [aJob] } }

theorem witness_CascadeStepsAndTime_job :
    jobbedState.links.jobs.find? (fun j => decide (j.part = some 0)) = some aJob ∧ aJob.loading = true ∧ aJob.ordered = false ∧
    (∀ y ∈ aJob.elems, y.pos = selfPos jobbedState) ∧ loadOwn jobbedState 0 aJob.elems = (jobbedState, some true) := by
  refine ⟨by decide +kernel, rfl, rfl, by decide +kernel, ?_⟩
  simp [aJob, loadOwn, load_none]

theorem witness_CascadeStepsAndTime_member :
    isMember (memberState id) = true ∧ loadElem (memberState id) 0 (anElem 1) = (memberState id, some true) :=
  ⟨by decide +kernel, load_none _ _ _⟩

theorem bits_top (x : Nat) (h : x < 2 ^ 64) : x * 2 ^ 192 % 2 ^ 256 / 2 ^ 192 % 2 ^ 64 = x := by omega

/-- The digest is an open function of the images (a Config constant): a register can hold whatever it gives. -/
theorem witness_CascadeStepsAndTime_digest (s : State) (d : BitVec 64) :
    d = BitVec.ofNat 64 (rf (s.setReg (offLnkDetour 31) (BitVec.ofNat 256 (d.toNat * 2 ^ 192))) (fLnkDetour_digest 31)) := by
  apply BitVec.eq_of_toNat_eq
  rw [BitVec.toNat_ofNat, rf, show fLnkDetour_digest 31 = ⟨offLnkDetour 31, 192, 64⟩ from rfl, State.reg_setReg_same, bits,
    BitVec.toNat_ofNat, bits_top _ d.isLt, Nat.mod_eq_of_lt d.isLt]

/-- Port 7 is partition 0's. -/
theorem witness_CascadeStepsAndTime_waits :
    (let s := wf (cascadeState fun x => { x with inStep := true }) (fLnkPcfg_own 7) 1
     portOwner s 7 = some 0 ∧ (s.part 0).run.isSome = true ∧ (s.part 0).inStep = true ∧ (s.part 0).go = true ∧
       (s.part 0).linkWait = [] ∧ 4 * 7 + 3 ∉ (s.part 0).linkPause) ∧
    (let r : Router := { has := true, sched := [(0, 48640)], rem := 12 }
     rxHeld (masterState.setRouter 48 r) 7 3 < takesAhead (gatewayLane 7 3).2 (holdLead masterState 0) r) ∧
    (let s := { (cascadeState fun x => { x with linkWait := [(31, 0, 1)] }) with devtime := 10000000 }
     (s.part 0).linkWait = [(31, 0, 1)] ∧ 0 + 10 ^ 7 ≤ s.devtime.toNat) := by decide +kernel

theorem witness_DevtimeIsDistributed :
    rf masterState fLnkCasc_topo ≠ 0 ∧ isMember masterState = false ∧
    (let s := wf masterState fLnkCasc_pos 1
     isMember s = true ∧ s.links.heard < 2 ∧ ((s.devtime.toNat : Int) - (2 : Nat)).natAbs ≤ 2 ∧
       5 < ((s.devtime.toNat : Int) - (6 : Nat)).natAbs) := by decide +kernel

/-! Power, temperature, domains. -/

theorem witness_PowerIsHeld :
    [1575000].foldl (· + ·) 0 + 0 ≤ 1575000 ∧ 1575000 < [1575000].foldl (· + ·) 0 + 1 ∧
    9 ≤ ({ State.reset with pwr := { above := 9 } } : State).pwr.above ∧
    (let s := { runningState with pwr := { hist := [2000000] } }
     s.pwr.hist ≠ [] ∧ capLimitMw s < s.pwr.hist.foldl (· + ·) 0 / s.pwr.hist.length ∧ s.pwr.cuts = [] ∧ capVictim s = some 0) ∧
    (let s := { runningState with pwr := { hist := [1000], cuts := [0], lowAt := some 0 }, devtime := 10000000 }
     s.pwr.hist.foldl (· + ·) 0 / s.pwr.hist.length + 50000 ≤ capLimitMw s ∧ s.pwr.lowAt = some 0 ∧ 0 + 10 ^ 7 ≤ s.devtime.toNat ∧
       s.pwr.cuts = 0 :: []) ∧ powerFailed State.reset = false := by decide +kernel

theorem witness_CavePlans :
    rb (wf State.reset fMrgStat_busy 1) fMrgStat_busy = true ∧ rb State.reset fMrgStat_busy = false ∧
    State.reset.pwr.cave.day < rf (wf State.reset fMrgStat_opsec 86400) fMrgStat_opsec / 86400 := by decide +kernel

theorem witness_TemperaturesAreWatched :
    (thmNode State.reset 367).alone = false ∧ rb State.reset (fThmNode_brk 367) = false ∧ 0 < (thmNode State.reset 367).skip ∧
    (let s := setThmNode State.reset 367 { skip := 0 }
     (thmNode s 367).skip = 0 ∧ nodeValid s 367 = false) ∧ (-5121 : Int) < -5120 ∧ (19200 : Int) < 19201 ∧
    rf servingState fBsePhase_cur = 3 ∧ rf State.reset fBsePhase_cur ≠ 3 := by decide +kernel

/-- Domain 63 between states. -/
def domainState (x : Dom) : State :=
  { wf State.reset (fPwrDomctl_state 63) 3 with pwr := { doms := [(63, x)] } }

theorem witness_DomainsSleepAndWake :
    domState State.reset 99 = 0 ∧ domState (wf State.reset (fPwrDomctl_state 63) 1) 63 = 1 ∧ domState (wf State.reset (fPwrDomctl_state 63) 2) 63 = 2 ∧
    (let x : Dom := { target := 0, waking := true, from' := 1 }
     tfind (domainState x).pwr.doms 63 = some x ∧ x.waking = true ∧ domState (domainState x) (64 + 63 / 16) = 0) ∧
    (let x : Dom := { target := 2, waking := false, from' := 0 }
     tfind (domainState x).pwr.doms 63 = some x ∧ x.waking = false ∧ x.again = false ∧ x.target < 3 ∧
       traceQuiet (domainState x) (domClusters 63) = true) ∧
    (let s := { wf State.reset (fPwrDomctl_auto 63) 1 with devtime := 2 ^ 60 }
     rb s (fPwrDomctl_auto 63) = true ∧ domAllows 63 1 = true ∧ domMay s 63 1 = true ∧ domState s 63 = 0 ∧
       tget 0 s.pwr.used 63 + rf s (fPwrDomctl_idle 63) * 1000 ≤ s.devtime.toNat) ∧
    domAllows 95 2 = true ∧ domMay State.reset 95 2 = true ∧ domState State.reset 95 = 0 := by decide +kernel

/-- Cluster 0 traces with a full buffer, its ring in scratch block 0 of PF0, or nowhere. -/
def traceState (base : Nat) : State :=
  (wf (wf (wf (wf (wf State.reset (fTrcCtl_en 0) 1) (fTrcDest_base 0) base) (fSbfScrgrant_owner 0) 16) fSbfScr_ways 4)
    (fSbfCtl_en 0) 1).setTraceBuf 0 { recs := List.replicate 512 0 }

theorem witness_DomainsSleepAndWake_trace :
    rb (traceState 0) (fTrcCtl_en 0) = true ∧ 512 ≤ ((traceState 0).traceBuf 0).recs.length ∧ traceRing (traceState 0) 0 = none ∧
    (∃ a n q, traceRing (traceState (scrBase / 4096)) 0 = some (a, n, q)) ∧
    ((traceWrite (traceState (scrBase / 4096)) 0 scrBase 4096 { node := nodeCp, part := 0, key := 63, pasid := 2 ^ 20 }
      [0]).traceBuf 0).lost = 0 := by
  refine ⟨by decide +kernel, by decide +kernel, by decide +kernel,
    ⟨scrBase, 4096, { node := nodeCp, part := 0, key := 63, pasid := 2 ^ 20, cls := 5 }, by decide +kernel⟩, by decide +kernel⟩

theorem trace_served (k : Nat) (h : k < 256) :
    ScratchServes (traceState (scrBase / 4096)) { node := nodeCp, part := 0, key := 63, pasid := 2 ^ 20, cls := 5 } (scrBase + 16 * k) 16 := by
  have : ∀ k < 256, rangeOf (scrBase + 16 * k) = .scratch ∧ (scrBase + 16 * k) % 256 + 16 ≤ 256 ∧ checkReq (traceState (scrBase / 4096))
      { node := nodeCp, part := 0, key := 63, pasid := 2 ^ 20, cls := 5 } (scrBase + 16 * k) 16 false = none ∧
      changing (traceState (scrBase / 4096)) (scrBase + 16 * k) = false := by decide +kernel
  obtain ⟨a, b, c, d⟩ := this k h
  exact ⟨a, b, by decide, c, d, rfl⟩

theorem witness_DomainsSleepAndWake_served :
    traceRing (traceState (scrBase / 4096)) 0 = some (scrBase, 4096, { node := nodeCp, part := 0, key := 63, pasid := 2 ^ 20, cls := 5 }) ∧
    ((traceState (scrBase / 4096)).traceBuf 0).lost = 0 ∧ (traceState 0).met.sw = [] ∧
    ∀ off < 4096, off % 16 = 0 → ScratchServes (traceState (scrBase / 4096))
      { node := nodeCp, part := 0, key := 63, pasid := 2 ^ 20, cls := 5 } (scrBase + off) 16 := by
  refine ⟨by decide +kernel, by decide +kernel, by decide +kernel, fun off h m => ?_⟩
  have := trace_served (off / 16) (by omega)
  rwa [Nat.mul_div_cancel' (Nat.dvd_of_mod_eq_zero m)] at this

/-! Security, audit, debug. -/

/-- Session 9 is open, its last heartbeat at 0, and owns partition 15, whose cluster 511 is in service. -/
def sessionState (tdi : Nat) : State :=
  let s := wf (wf (wf servingState (fCluCfg_part 511) 15) (fCluCfg_en 511) 1) (fSecPbind_tdi 15) tdi
  { s with sec := { sessions := [{ id := 9, seen := 0 }], owners := [(15, 9)] } }

theorem witness_SessionsOpenAndEnd :
    spdmUp (sessionState 0) = true ∧ sessionOpen (sessionState 0) 8 = false ∧ (sessionState 0).sec.sessions.length < 17 ∧
    sessionOpen (sessionState 0) 9 = true ∧ ownedBy { sessionState 0 with sec := { sessions := [{ id := 9, seen := 0 }] } } 9 = [] ∧
    (∀ x ∈ (sessionState 0).sec.sessions, x.id = 9 → x.seen + 30 * 10 ^ 9 ≤ ({ sessionState 0 with devtime := 30000000000 } : State).devtime.toNat) ∧
    (∀ x ∈ (sessionState 0).sec.sessions, x.id = 9 → (sessionState 0).devtime.toNat < x.seen + 30 * 10 ^ 9) ∧
    ((1 ≤ 6 ∧ 6 ≤ 6) ∨ (16 ≤ 6 ∧ 6 < 48)) ∧ ((1 ≤ 47 ∧ 47 ≤ 6) ∨ (16 ≤ 47 ∧ 47 < 48)) ∧ 16 < 17 := by decide +kernel

/-- An interface report. -/
def aReport : IfReport := ⟨[], 15, 1, 0, 0, 0, 7, [], []⟩

/-- Seventeen sessions are open; a report of interface 15 is kept. -/
def fullState : State :=
  { sessionState 0 with sec := { sessions := (List.range 17).map fun i => { id := i, seen := 0 }, reports := [(15, aReport)] } }

theorem witness_SessionsAndInterfaces_full :
    spdmUp fullState = true ∧ 17 ≤ fullState.sec.sessions.length ∧ sessionOpen fullState 9 = true ∧
    tfind fullState.sec.reports 15 = some aReport ∧ 15 < 16 ∧ 16 < 17 := by decide +kernel

theorem witness_InterfacesLockAndRun :
    tdiOf (sessionState 0) 15 = 0 ∧ assigned (sessionState 0) 15 = true ∧ stopped (sessionState 0) 15 = true ∧
    tdiOf (sessionState 1) 15 = 1 ∧ tfind (sessionState 1).sec.owners 15 = some 9 ∧ tdiOf (sessionState 2) 15 ≠ 3 ∧
    tdiOf (sessionState 3) 15 = 3 ∧ tfind (sessionState 1).sec.owners 14 ≠ some 9 := by decide +kernel

theorem witness_AuditLogKeepsEntries :
    (let s : State := { State.reset with aud := { live := true, wseq := 65535 } }
     s.aud.live = true ∧ s.aud.gap = none ∧ s.aud.wseq - s.aud.rd < 65536 ∧ oldestHeld s ≤ s.aud.wseq ∧ oldestHeld s ≤ 65535) ∧
    (let s : State := { State.reset with aud := { live := true, wseq := 8192, buf := List.replicate 4096 0 } }
     4096 ≤ s.aud.buf.length ∧ (s.aud.wseq - s.aud.buf.length) / 4096 = 1) := by decide +kernel

theorem witness_DebugReachesCores :
    debugBarred runningState 0 = false ∧ debugBarred (wf runningState (fSecPbind_conf 0) 1) 0 = true ∧
    (let s := (runningState.setPart 0 { run := some someRun, inStep := true, held := true }).setCore 0 { dbg := true }
     corePart s 0 = some 0 ∧ (s.part 0).held = true ∧ debugHeld s 0 = true ∧ 31 ∈ coresOf s 0 ∧ dbgOpen s 0 = true) ∧
    dbgOpen runningState 0 = false ∧ rf State.reset (fCoreDbgsel_sel 16383) < 0x20 := by decide +kernel

/-! Start, reset, phase. -/

/-- An image of kind k without bytes, signed, and one of another kind. -/
def anImage (k : Nat) : Image :=
  { kind := k, svn := 0, len := 0, digest := sha384 [], ecdsa := true, mldsa := true, commit := false, copy := [] }

theorem witness_StartsResetsPhases_images :
    (let s := wf State.reset fBseBoot_stage 1
     rf s fBseBoot_stage = 1 ∧ (∃ x ∈ [anImage 5, anImage 0].take 2, imageOk s 0 x = true) ∧
       (∀ x ∈ [anImage 5, anImage 4, anImage 0].take 2, imageOk s 0 x = false)) ∧
    (let s := wf State.reset fBseBoot_stage 0xE
     rf s fBseBoot_stage = 0xE ∧ rb s fBseRecov_busy = false ∧ recoveryOk s 2 [anImage 2, anImage 3, anImage 4, anImage 5] = true ∧
       recoveryOk s 1 [anImage 0] = false) := by decide +kernel

theorem witness_StartsAndResets :
    State.reset.boot.perst = false ∨ ({ State.reset with boot := { perst := true } } : State).boot.perst = true := by decide

theorem witness_StartsAndResets_stages :
    ({ State.reset with boot := { perst := true } } : State).boot.perst = true ∧ ({ State.reset with boot := { perst := false } } : State).boot.perst = false ∧
    0 < ({ State.reset with boot := { images := 1 } } : State).boot.images ∧
    (let st := fun n : Nat => wf State.reset fBseBoot_stage n
     rf (st 1) fBseBoot_stage = 1 ∧ rf (st 9) fBseBoot_stage = 9 ∧ rf (st 7) fBseBoot_stage = 7 ∧ rf (st 8) fBseBoot_stage = 8 ∧
       rf (st 3) fBseBoot_stage = 3 ∧
       (st 9).boot.start + stageLimit 9 * 10 ^ 6 ≤ ({ st 9 with devtime := 2 ^ 60 } : State).devtime.toNat ∧
       (st 9).devtime.toNat < (st 9).boot.start + stageLimit 9 * 10 ^ 6) := by decide +kernel

theorem witness_PhasesAndFirmware :
    phaseMay (wf servingState fBsePhase_cur 2) 3 = true ∧ phaseMay servingState 1 = false ∧
    (let s := { wf servingState fBsePhase_cur 1 with devtime := 5 }
     rf s fBsePhase_cur = 1 ∧ s.boot.phaseAt ≤ s.devtime.toNat ∧
       s.devtime.toNat < ({ s with boot := { phaseAt := 6 } } : State).boot.phaseAt) ∧
    (let s := setLinkPort (wf (wf masterState fLnkCasc_pos 1) (fLnkPstat_state 7) 2) 7 { provision := true }
     (linkPort s 7).provision = true ∧ portUp s 7 = true ∧ isMember s = true ∧ imageOk s 1 (anImage 1) = true ∧
       imageOk s 2 (anImage 1) = false) ∧
    (let s := setLinkPort (wf masterState (fLnkPstat_state 7) 2) 7 { provision := true }
     (linkPort s 7).provision = true ∧ portUp s 7 = true ∧ isMember s = false ∧ imageOk s 1 (anImage 1) = true) ∧
    (let s := wf State.reset fBseBoot_stage 0xE
     rf s fBseBoot_stage = 0xE ∧ rb s fBseRecov_busy = false ∧ bits (0x08000000 : BitVec 32).toNat 26 2 ≠ 3) := by decide +kernel

end Sys2Proof.Tests
end

