-- ==== Sys2Proof/Tests/WitnessF.lean ====
section
/-! SUPPORT. States and operands that meet the hypotheses of the statements, clause by clause: commands of the queues whose whole
effect is stated, from scratch and cluster memory. -/
namespace Sys2Proof.Tests
set_option Elab.async false
open Sys2Proof.Machine

/-! Copy engines. -/

theorem witness_EntriesEndOnce_failed :
    ((withEntry commandState 0).queue 0).failed = none ∧ ((withEntry commandState 0).queue 0).entries = [{ seq := 0, pkt := 0 }] := by
  decide +kernel

/-- Entry 0 of queue 0 holds packet x; scratch holds a line of data. -/
def scrState (x : BitVec 512) : State := withEntry (withScratch commandState (memWrite [] scrAt 256 0x1122334455667788990011)) x

/-- A COPY and a COPY2D of 100 bytes, a FILL and a ZERO of 64, a DIGEST of a line, in scratch. -/
def copyX : BitVec 512 := packet [(0, 1), (16, scrAt), (24, scrAt + 0x1000), (32, 100)]
def copy2dX : BitVec 512 := packet [(0, 2), (16, scrAt), (24, scrAt + 0x1000), (32, 100), (36, 1)]
def fillX : BitVec 512 := packet [(0, 3), (24, scrAt + 0x40), (32, 64), (40, 0x77665544), (48, 2)]
def zeroX : BitVec 512 := packet [(0, 4), (24, scrAt + 0x40), (32, 64)]
def digestX : BitVec 512 := packet [(0, 7), (16, scrAt), (32, 256)]

theorem copy_served (x : BitVec 512) (h : x = copyX ∨ x = copy2dX) :
    ScratchServes (scrState x) (engineAcc (scrState x) 0 0 x []) scrAt 100 ∧
    ScratchServes (scrState x) (engineAcc (scrState x) 0 0 x []) (scrAt + 0x1000) 100 := by
  rcases h with rfl | rfl <;> (unfold ScratchServes; decide +kernel)

theorem witness_CopyEngines_copy :
    freeEngine (scrState copyX) = some 0 ∧ copyOk copyX = true ∧ tileCount copyX = 1 ∧ pkOpcode copyX = 1 ∧
    tileMoves copyX 0 = [⟨scrAt + 0x1000, 100, [(scrAt, 100)]⟩] ∧ psnAny (scrState copyX).psn (scrAt / 256 * 256) 256 = false ∧
    freeEngine (scrState copy2dX) = some 0 ∧ copyOk copy2dX = true ∧ tileCount copy2dX = 1 ∧ pkOpcode copy2dX = 2 ∧
    tileMoves copy2dX 0 = [⟨scrAt + 0x1000, 100, [(scrAt, 100)]⟩] := by decide +kernel

theorem fill_served (x : BitVec 512) (h : x = fillX ∨ x = zeroX) :
    ScratchServes (scrState x) (engineAcc (scrState x) 0 0 x []) (scrAt + 0x40) 64 := by
  rcases h with rfl | rfl <;> (unfold ScratchServes; decide +kernel)

theorem witness_CopyEngines_fill :
    freeEngine (scrState fillX) = some 0 ∧ copyOk fillX = true ∧ tileCount fillX = 1 ∧ pkOpcode fillX = 3 ∧
    tileMoves fillX 0 = [⟨scrAt + 0x40, 64, []⟩] ∧
    freeEngine (scrState zeroX) = some 0 ∧ copyOk zeroX = true ∧ tileCount zeroX = 1 ∧ pkOpcode zeroX = 4 ∧
    tileMoves zeroX 0 = [⟨scrAt + 0x40, 64, []⟩] := by decide +kernel

theorem digest_served : ScratchServes (scrState digestX) (engineAcc (scrState digestX) 0 0 digestX []) scrAt 256 := by
  unfold ScratchServes; decide +kernel

theorem witness_CopyEngines_digest :
    freeEngine (scrState digestX) = some 0 ∧ digestOk digestX = true ∧ copyClass (pkOpcode digestX) = false ∧
    pk digestX 32 8 = 256 ∧ psnAny (scrState digestX).psn (pkAddr digestX 16) 256 = false := by decide +kernel

/-- PREFETCH of one line of the far tier. -/
def prefetchX : BitVec 512 := packet [(0, 5), (16, farBase + 2 ^ 30), (32, 256)]
def prefetchState : State := withEntry (wf fabricState (fCmdSqcfg_key 0) 62) prefetchX

theorem witness_CopyEngines_prefetch :
    let s := prefetchState
    let b := farBase + 2 ^ 30
    let sl := sliceOf (b / 256)
    freeEngine s = some 0 ∧ rangeLines s b 256 = [b] ∧ checkReq s (engineAcc s 0 0 prefetchX []) b 1 false = none ∧
    rangeOf b = .far ∧ uncached s sl = false ∧ (s.slice sl).missOf (b / 256) 0 = none ∧ (s.slice sl).find (b / 256) 0 = .absent ∧
    (s.slice sl).miss.length < 512 ∧ (s.slice sl).side.length + ((s.slice sl).miss.filter (·.side)).length < 128 := by
  decide +kernel

/-- ADVISE of the last line of host memory, which a slice holds changed or not at all. -/
def adviseX : BitVec 512 := packet [(0, 6), (16, remBase - 256), (32, 256)]
def hostLine : CLine :=
  { line := (remBase - 256) / 256, pasid := 2 ^ 20, dirty := true, psn := false, keep := false, cls := 0, part := 0, key := 63, data := 7 }
def adviseState (h : Bool) : State :=
  let s := { withEntry commandState adviseX with host := { up := true, cache := [⟨2 ^ 20, 0, 48, true, true⟩] } }
  if h then s.setSlice 3 { victim := [{ ln := hostLine }] } else s

theorem witness_CopyEngines_advise :
    hostOnly (pkAddr adviseX 16) (pk adviseX 32 8) = true ∧ isMember (adviseState true) = false ∧
    (let s := adviseState true
     let w := hostWalk 2 (pkAddr adviseX 16) (pk adviseX 32 8) (qPasid s 0)
     (allSlices.flatMap fun sl => (s.slice sl).lines.filter fun ln => w.covers ln.line ln.pasid ln.key && ln.dirty) = [hostLine]) ∧
    (let s := adviseState false
     let w := hostWalk 2 (pkAddr adviseX 16) (pk adviseX 32 8) (qPasid s 0)
     (allSlices.flatMap fun sl => (s.slice sl).lines.filter fun ln => w.covers ln.line ln.pasid ln.key && ln.dirty) = []) ∧
    (∃ y ∈ (adviseState true).host.cache, y.covers hostLine.pasid (lineAddr hostLine.line - hostBase) = true ∧ y.w = true) ∧
    (∀ p ∈ hostPages (qPasid (adviseState true) 0) false [(pkAddr adviseX 16, pk adviseX 32 8)],
      ∃ y ∈ (adviseState true).host.cache, y.covers p.1 (4096 * p.2.1) = true ∧ y.r = true) := by decide +kernel

/-! Steps. -/

/-- F has reached what partition 0's clock needs. -/
def floorState (s : State) : State := { s with pwr := { floor := 1600000 } }

/-- RUN_STEPS of 5 steps; HOLD, RELEASE. -/
def runX : BitVec 512 := packet [(0, 0x10), (16, 5)]
def runReady : State := floorState (withEntry commandState runX)

theorem ready_run : StartReady runReady 0 := by unfold StartReady; decide +kernel

theorem witness_StepCommands_run :
    pk runX 8 1 = qPart runReady 0 ∧ runBusy runReady 0 = false ∧ (runReady.part 0).paused = false := by decide +kernel

/-- HOLD in a step that has ended, RELEASE of a paused run. -/
def holdX : BitVec 512 := packet [(0, 0x11)]
def releaseX : BitVec 512 := packet [(0, 0x12)]
def holdState : State := withEntry endedState holdX
def pausedState : State := floorState (withEntry (commandState.setPart 0 { run := some someRun, paused := true }) releaseX)

theorem due_hold : BoundaryDue holdState 0 someRun := by unfold BoundaryDue; decide +kernel
theorem ready_release : StartReady pausedState 0 := by unfold StartReady; decide +kernel

theorem witness_StepCommands_hold :
    pk holdX 8 1 = qPart holdState 0 ∧ (holdState.part 0).paused = false ∧ (holdState.part 0).holdReqs = [] ∧ someRun.steps = 0 ∧
    pk releaseX 8 1 = qPart pausedState 0 ∧ (pausedState.part 0).run = some someRun ∧ (pausedState.part 0).paused = true ∧
    someRun.waitFloor = false := by decide +kernel

/-- ABORT of entry n of queue 1, which holds a COPY as entry 3 and has fetched nothing beyond it. -/
def abortX (n : Nat) : BitVec 512 := packet [(0, 0x14), (8, 1), (12, n), (16, 1)]
def abortState (n : Nat) : State :=
  (withEntry commandState (abortX n)).setQueue 1 { entries := [{ seq := 3, pkt := copyX }], nextseq := 4 }

theorem witness_StepCommands_abort :
    qFn (abortState 3) 0 = 0 ∧ pk (abortX 3) 16 2 = 1 ∧ pk (abortX 3) 8 1 = 1 ∧
    seqBefore 4 ((abortState 4).queue 1).nextseq = false ∧
    (seqBefore 2 ((abortState 2).queue 1).nextseq = true ∧ entryOf (abortState 2) 1 2 = none) ∧
    (seqBefore 3 ((abortState 3).queue 1).nextseq = true ∧
      ((abortState 3).queue 1).entries = [{ seq := 3, pkt := copyX }] ∧ copyClass (pkOpcode copyX) = true) := by decide +kernel

/-- Words of cluster 0's memory. -/
def words (m : List (Nat × Nat)) : List Host.Cell := m.foldl (fun m x => memWrite m (cmAddr 0 x.1) 4 x.2) []

/-- A tree of two pages, one accepted, whose ring of four pages begins at its last one. -/
def treeWords : List Host.Cell :=
  words [(0x3000, 3), (0x3004, 4), (0x3008, 4), (0x300C, 0x3100), (0x3100, 2 ^ 31), (0x3104, 2 ^ 31 + 1), (0x3108, 2 ^ 31 + 2),
    (0x310C, 2 ^ 31 + 3)]
def kvX : BitVec 512 := packet [(0, 0x16), (16, 0x2000), (20, 16), (28, 2), (32, 1), (40, 0x3000)]
def kvState : State := { withEntry commandState kvX with mem := treeWords }

theorem tree_kv : TreeReady kvState (pk kvX 8 2) (pk kvX 16 8) (pk kvX 24 8) (pk kvX 32 8) (pk kvX 40 8) := by
  unfold TreeReady; decide +kernel

theorem witness_StepCommands_commit :
    commitBitsOk kvX = true ∧ partOfCluster kvState (pk kvX 8 2) = some (qPart kvState 0) ∧
    rb kvState (fErrPart_qact (qPart kvState 0)) = false ∧ stopped kvState (qPart kvState 0) = true ∧
    rf kvState (fPwrDomctl_state (domainOf (pk kvX 8 2))) = 0 := by decide +kernel

/-! Configuration. -/

/-- PARTITION assigns cluster 0 (already its own) and block 0 of 95 of scratch pairs to partition 0. -/
def assignX : BitVec 512 := packet [(0, 0x21), (16, scrAt)]
def assignState : State := withScratch (withEntry commandState assignX) (memWrite [] scrAt 128 (1 + 2 ^ 519 + 2 ^ (576 + 95)))

theorem assign_served : ∀ y ∈ piecesFrom (pkAddr assignX 16) 128, ScratchServes assignState (cpAcc assignState 0 assignX) y.1 y.2 ∧
    psnAny assignState.psn (y.1 / 256 * 256) 256 = false := by
  unfold ScratchServes; decide +kernel

theorem witness_ConfigurationCommands_assign :
    (let d := memRead assignState.mem (pkAddr assignX 16) 128
     pk assignX 9 1 = 0 ∧ bits d 0 512 = 1 ∧ bits d 512 8 = 128 ∧ bits d 576 96 = 2 ^ 95 ∧ bits d 520 56 = 0 ∧ bits d 672 352 = 0) ∧
    withdrawn assignState 0 = false ∧ (∀ n < 16, confidential assignState n = false) ∧
    (∀ cl ∈ ownerChanges assignState 0 1, rf assignState (fPwrDomctl_state (domainOf cl)) = 0 ∧ (assignState.dma cl).active = []) := by
  decide +kernel

theorem witness_ConfigurationCommands_assign_running : changesRunning assignState 0 1 = false := changesRunning_of_parts _ rfl _ _

/-! Loads. -/

/-- imageState with packet x as entry 0 of queue 0. -/
def loadState (x : BitVec 512) : State := withEntry imageState x
def codebookX : BitVec 512 := packet [(0, 0xA), (10, 1), (16, scrAt), (24, 3), (28, 64)]
def scheduleX : BitVec 512 := packet [(0, 9), (16, scrAt)]

theorem load_served (x : BitVec 512) (h : x = loadPacket ∨ x = codebookX) :
    ∀ y ∈ piecesFrom scrAt 16 ++ piecesFrom scrAt 64, ScratchServes (loadState x) (cpAcc (loadState x) 0 x) y.1 y.2 ∧
      psnAny (loadState x).psn (y.1 / 256 * 256) 256 = false := by
  rcases h with rfl | rfl <;> (unfold ScratchServes; decide +kernel)

theorem witness_LoadsAreWritten_direct :
    (loadState loadPacket).met.sw = [] ∧ ((loadState loadPacket).part 0).aborted = false ∧ stopped (loadState loadPacket) 0 = true ∧
    (let s := loadState loadPacket
     let a := pkAddr loadPacket 16
     let img := (List.range 16).map fun i => memGet s.mem (a + i)
     a = scrAt ∧ pk loadPacket 10 2 = 1 ∧ 0 < 512 ∧ partOfCluster s 0 = some 0 ∧ rf s (fPwrDomctl_state (domainOf 0)) = 0 ∧
       coreUsable s 31 = true ∧ programOk (bundlesOf img 1) 0 = true) ∧
    (let s := loadState codebookX
     pk codebookX 10 2 = 1 ∧ (s.dma 0).active = [] ∧ (s.dma 0).queue = [] ∧ bits codebookX.toNat 199 1 = 0 ∧ pk codebookX 28 4 = 64 ∧
       bits codebookX.toNat 192 3 = 3) ∧
    (let s := loadState scheduleX
     pk scheduleX 8 1 = 0 ∧ bits scheduleX.toNat 72 1 = 0 ∧ pk scheduleX 24 2 = 0 ∧
       verifySchedule s (schedAfter s 0 false []) (ownsPort s 0) = none) := by decide +kernel

/-! Units. -/

/-- Entry 0 of queue 0 asks for the reset of unit n. -/
def resetState (s : State) (n : Nat) : State := withEntry s (packet [(0, 0x17), (12, n)])

theorem witness_UnitsAreReset_ends :
    (let s := resetState commandState 31
     s.rjobs = [] ∧ pk (packet [(0, 0x17), (12, 31)]) 12 4 = 31 ∧ clusterStopped s (clusterOfCore 31) = true ∧
       rf s (fPwrDomctl_state (domainOf (clusterOfCore 31))) ≠ 2 ∧
       (∀ d ∈ (s.dma (clusterOfCore 31)).active ++ (s.dma (clusterOfCore 31)).queue, d.core ≠ 31)) ∧
    (let s := resetState commandState 0
     clusterStopped s 0 = true ∧ (s.dma 0).active = [] ∧ stopped s 0 = true ∧ confidential s 0 = false ∧ isCascade s 0 = false ∧
       (∀ cl ∈ clustersOf s 0, rf s (fPwrDomctl_state (domainOf cl)) = 0 ∧ (s.dma cl).active = [])) ∧
    (let s := resetState commandState 15
     (s.engine 15).busy = false) ∧
    (let s := resetState (commandState.setSlice 31 { victim := [{ ln := { heldLine with dirty := false } }] }) 7
     7 < 8 ∧ (∀ i < 4, let y := s.slice (4 * 7 + i)
       y.miss = [] ∧ y.out = [] ∧ ∀ ln ∈ y.lines, ln.dirty = false) ∧ portOwner s 7 = none ∧ portUp s 7 = false) := by
  decide +kernel

/-- A reset of segment 7 that has taken its 10 ms, with a clean line in its slice 31. -/
def drainState : State := { resetState (jobState 4 7 false) 7 with slices := (commandState.setSlice 31 { victim := [{ ln := heldLine }] }).slices }

theorem witness_UnitsAreReset_drain :
    (∃ j, drainState.rjobs.find? (fun y => decide (y.kind = 4 ∧ y.idx = 7)) = some j ∧ j.start + 10 ^ 7 ≤ drainState.devtime.toNat ∧
      drainState.rjobs = [j] ∧ ∃ e, entryOf drainState j.q j.seq = some e ∧ e.reply = none) ∧
    (∀ i < 4, ∀ ln ∈ (drainState.slice (4 * 7 + i)).lines, ln.dirty = false) ∧
    (∀ i < 4, (drainState.slice (4 * 7 + i)).miss = []) ∧
    (∀ i < 4, ((jobState 4 7 false).slice (4 * 7 + i)).miss = [] ∧ ((jobState 4 7 false).slice (4 * 7 + i)).out = []) :=
  ⟨⟨{ kind := 4, idx := 7, q := 0, seq := 0, start := 0, absorbed := false }, by decide +kernel, by decide +kernel, by decide +kernel,
    { seq := 0, pkt := packet [(0, 0x17), (12, 7)] }, by decide +kernel, rfl⟩, by decide +kernel, by decide +kernel, by decide +kernel⟩

/-! Tests, telemetry. -/

/-- SELF_TEST of core 31, of cluster 0, of copy engine 15. -/
def testX (k idx : Nat) : BitVec 512 := packet [(0, 0x1A), (8, k), (10, idx), (12, 1)]

theorem witness_TestsQuarantineTelemetry_run :
    (withEntry commandState (testX 0 31)).ftests = [] ∧
    (let s := withEntry commandState (testX 0 31)
     pk (testX 0 31) 8 1 = 0 ∧ pk (testX 0 31) 10 2 = 31 ∧ coreUsable s 31 = true ∧ clusterStopped s (clusterOfCore 31) = true ∧
       rf s (fPwrDomctl_state (domainOf (clusterOfCore 31))) = 0) ∧
    (let s := withEntry commandState (testX 1 0)
     pk (testX 1 0) 8 1 = 1 ∧ clusterStopped s 0 = true ∧ rf s (fPwrDomctl_state (domainOf 0)) = 0) ∧
    (let s := withEntry commandState (testX 2 15)
     pk (testX 2 15) 8 1 = 2 ∧ (s.engine 15).busy = false ∧ (s.engine 15).testing = false) ∧
    511 < 512 ∧ 15 < 16 ∧ commandState.met.set = [] := by decide +kernel

/-- READ_TELEMETRY of group 3 into scratch. -/
def telemX : BitVec 512 := packet [(0, 0x1B), (8, 3), (24, scrAt), (32, 16)]

theorem telem_served : (telemetryBlock (scrState telemX) 3 none).length = 16 ∨ 16 < (telemetryBlock (scrState telemX) 3 none).length := by
  decide +kernel

theorem witness_TestsQuarantineTelemetry_read :
    qFn (scrState telemX) 0 = 0 ∧ pk telemX 8 1 = 3 ∧ pk telemX 32 4 = 16 ∧
    ∀ y ∈ piecesFrom (pkAddr telemX 24) 16, ScratchServes (scrState telemX) (cpAcc (scrState telemX) 0 telemX) y.1 y.2 := by
  unfold ScratchServes; decide +kernel

/-! Host queues. -/

/-- A NOP without a fence. -/
def nopX : BitVec 512 := 0
/-- Entry 0 has ended, another one has not. -/
def repliedState : State := ringState.setQueue 0 { entries := [endedEntry, { seq := 1, pkt := nopX }], nextseq := 2, tail := 2 }

theorem witness_HostQueues_hosts :
    (nextQueue ringState = some 0 ∧ rf ringState (fLnkQfwd_target 0) = 0 ∧ (ringState.queue 0).entries = [] ∧
      (∃ y ∈ ringState.host.cache, y.covers (qPasid ringState 0) (rf ringState (fCmdSqbase_base 0) * 4096 +
        64 * ((ringState.queue 0).nextseq % ringN ringState 0)) = true ∧ y.r = true) ∧
      (ringState.queue 0).nextseq ∉ (ringState.queue 0).aborts ∧ pkOk nopX = true ∧ opServed ringState (pkOpcode nopX) = true ∧
      mayGive ringState 0 nopX = true) ∧
    ((repliedState.queue 0).entries = endedEntry :: [{ seq := 1, pkt := nopX }] ∧ endedEntry.reply = some ⟨.ok, 0, 0, 0⟩ ∧
      (repliedState.queue 0).discard = false ∧ (repliedState.queue 0).ringFault = false ∧
      repliesHeld repliedState 0 < ringN repliedState 0 - 1 ∧
      ∃ y ∈ repliedState.host.cache, y.covers (qPasid repliedState 0) (rf repliedState (fCmdCqbase_base 0) * 4096 +
        32 * ((repliedState.queue 0).written % ringN repliedState 0)) = true ∧ y.w = true) ∧
    metHas (wf ringState (fCmdSqstat_halt 63) 1) (fCmdSqstat_halt 63) = false ∧ ringState.met.sw = [] ∧
    rb ringState (fCmdSqcfg_en 0) = true := by decide +kernel

theorem witness_HostQueues_flr : ∀ q ∈ queuesOfFn ringState 0, (ringState.queue q).entries = [] := by decide +kernel

/-! Line requests to scratch, misses, responses. -/

/-- A line of data in scratch, and a request of cluster 0 at offset k of it. -/
def rqState : State := withScratch fabricState (memWrite [] scrAt 256 (5 + 2 ^ 40 * 0x1122334455667788))
def scrReq (k : Nat) (imm : BitVec 64) : Req := { src := 0, tag := 65535, addr := scrAt + k, hint := 0, cls := 0, part := 0, key := 0, pasid := 2 ^ 20, imm := imm }
def eightFlits : Flits := flitsOf 0 256 (7 + 2 ^ 300 * 0x123456789) 0

theorem flits_clean : FlitsClean oneFlit ∧ FlitsClean eightFlits := by unfold FlitsClean; decide +kernel

theorem rq_served :
    ScratchServes rqState (accOf rqState (scrReq 5 90) 1 []) (scrAt + 5) 91 ∧
    ScratchServes rqState (accOf rqState (scrReq 0 0) 5 []) scrAt 256 ∧
    ScratchServes rqState (accOf rqState (scrReq 224 0) 2 []) (scrAt + 224) (32 * oneFlit.n) ∧
    ScratchServes rqState (accOf rqState (scrReq 0 0) 2 []) scrAt (32 * eightFlits.n) ∧
    ScratchServes rqState (accOf rqState (scrReq 224 0xF0F0) 3 []) (scrAt + 224) 1 ∧
    (∀ ty ∈ [0, 1, 2, 3, 4], ScratchServes rqState (accOf rqState (scrReq 0 (BitVec.ofNat 64 (16 * ty))) 4 []) scrAt (atomicBytes ty)) ∧
    ScratchServes rqState (accOf rqState (scrReq 0 0) 4 []) scrAt 256 := by
  unfold ScratchServes; decide +kernel

theorem witness_LineRequestsAnswered_scratch :
    nodePos (scrReq 0 0).src = selfPos rqState ∧ psnAny rqState.psn (scrAt / 256 * 256) 256 = false ∧ eightFlits.n = 8 ∧
    atomicAllowed 1 0 = true ∧ atomicAllowed 4 4 = true ∧ atomicAllowed 5 3 = true ∧ atomicAllowed 6 0 = true ∧
    scrAt % 256 = 0 := by decide +kernel

/-- A masked write of firmware to the register view: word 0 of CLU_ID's line. -/
def viewReq : Req := { src := nodeCp, tag := 1, addr := regBase, hint := 0, cls := 0, part := 0, key := 63, pasid := 2 ^ 20, imm := 0xF }

theorem witness_LineRequestsAnswered_view :
    checkFlits fabricState (unitOfNode nodeCp) (servingUnit fabricState (resolve fabricState regBase)) regBase oneFlit = (fabricState, 0) ∧
    rangeOf (resolve fabricState regBase) = .regs ∧ regBase % 32 = 0 ∧
    (∀ i < 8, bits viewReq.imm.toNat (4 * i) 4 = 0 ∨ bits viewReq.imm.toNat (4 * i) 4 = 15) ∧
    checkReq fabricState (accOf fabricState viewReq 3 []) (resolve fabricState regBase) 4 false = none ∧
    changing fabricState (resolve fabricState regBase) = false ∧
    (access fabricState (accOf fabricState viewReq 3 []) regBase 4 (.masked 0xF 5 0)).2 ≠ .wait := by decide +kernel

/-- A miss of the first line of far block 1, read by cluster 0, with the sectors got; or of a prefetch. -/
def readerAcc : Acc := { node := 0, part := 0, key := 62, pasid := 2 ^ 20 }
def reader : Waiter := { acc := readerAcc, tag := 9, op := .read 64 64, early := true }
def filling (ws : List Waiter) (got : List Nat) (side : Bool) : State :=
  fabricState.setSlice (sliceOf farLine) { miss := [{ line := farLine, acc := missAcc, got := got, waiters := ws, side := side }] }

theorem witness_MissesAndResponses_fills :
    FarReads (filling [] [] false) 62 farLine ∧ (filling [reader] [] false |>.slice (sliceOf farLine)).missOf farLine 0 =
      some { line := farLine, acc := missAcc, got := [], waiters := [reader], side := false } ∧
    sectorsIn 64 64 = [1] ∧ 64 + 64 ≤ 256 ∧ readerAcc.foreign = false ∧ missAcc.part < 16 ∧ missAcc.cls < 8 ∧
    (filling [] [0, 1, 2] true |>.slice (sliceOf farLine)).missOf farLine 0 =
      some { line := farLine, acc := missAcc, got := [0, 1, 2], waiters := [], side := true } := by
  refine ⟨?_, by decide +kernel⟩
  refine ⟨by decide +kernel, by decide +kernel, by decide +kernel, ?_⟩
  intro j h
  have : tfind (filling [] [] false).lineKey farLine = none := by decide +kernel
  rw [this] at h
  cases h

/-- A line on its way out of a slice, as victim or below it. -/
def leaving (v : Bool) : State :=
  fabricState.setSlice (sliceOf farLine) (if v then { victim := [{ ln := heldLine, wb := true }] } else { out := [heldLine] })

theorem witness_MissesAndResponses_leaving :
    rangeOf (lineAddr farLine) = .far ∧ hbmAsleep (leaving true) (lineAddr farLine) = false ∧
    ((leaving true).slice (sliceOf farLine)).victim.find? (fun v => v.wb && v.ln.is farLine 0) = some { ln := heldLine, wb := true } ∧
    ((leaving false).slice (sliceOf farLine)).victim.find? (fun v => v.wb && v.ln.is farLine 0) = none ∧
    ((leaving false).slice (sliceOf farLine)).out.find? (fun ln => ln.is farLine 0) = some heldLine := by decide +kernel

theorem witness_MissesAndResponses_errors :
    (let s := fabricState.setEngine 15 { busy := true }
     asksFor s 0x237 7 = false ∧ (s.engine (0x237 - 0x228)).busy = true ∧ (s.engine (0x237 - 0x228)).fail = none) ∧
    (let s := dmaState [] [{ aDesc (copyDesc 0) with id := 7 }]
     asksFor s 0 7 = false ∧ ∃ d ∈ (s.dma 0).active, d.id = 7 ∧ d.done = none) := by
  refine ⟨by decide +kernel, by decide +kernel, { aDesc (copyDesc 0) with id := 7 }, by decide +kernel, rfl, rfl⟩

/-! Background work and the ring. -/

theorem witness_BackgroundWork_fits :
    (let s := nearState 63 false
     let x := s.near 1023
     let gone := x.wq.filter fun y => decide ((aWrite 0 1000).seq ≤ y.seq)
     x.table.length + ((gone.map (·.line)).eraseDups.filter fun l => !x.table.any fun t => decide (t.1 = l)).length ≤ 64) ∧
    (let s := nearState 64 false
     let x := s.near 1023
     let gone := x.wq.filter fun y => decide ((aWrite 0 1000).seq ≤ y.seq)
     ¬ x.table.length + ((gone.map (·.line)).eraseDups.filter fun l => !x.table.any fun t => decide (t.1 = l)).length ≤ 64) := by
  decide +kernel

theorem witness_RingMessages_broadcast :
    (regAt (offCluId 511 + 8)).isSome = true ∧ 8 < 0x1000 ∧
    ∀ x, regAt (offCluId 511 + 8) = some x → regOff State.reset ((offCluId 511 + 8) / 4 * 4 - x.2.2) = false := by
  refine ⟨by decide +kernel, by decide, ?_⟩
  intro x h
  have : ((regAt (offCluId 511 + 8)).all fun x => !regOff State.reset ((offCluId 511 + 8) / 4 * 4 - x.2.2)) = true := by decide +kernel
  rw [h] at this
  simpa using this

end Sys2Proof.Tests
end

