-- ==== Sys2Proof/Tests/WitnessG.lean ====
section
/-! SUPPORT. States and operands that meet the hypotheses of the statements, clause by clause: descriptors of the cluster DMA, the host
port, shared buffer registers. -/
namespace Sys2Proof.Tests
set_option Elab.async false
open Sys2Proof.Machine

/-! Descriptors. -/

/-- Cluster 0's DMA has begun descriptor x; scratch and cluster memory hold data, and word 0x1000 a page table entry. -/
def moveState (x : BitVec 512) : State :=
  withScratch (dmaState [] [aDesc x]) (memWrite (memWrite (memWrite [] (scrAt + 0x120) 40 0x1122334455667788990011223344556677)
    (cmAddr 0 0xE0) 64 0x99887766554433221100) (cmAddr 0 0x1000) 4 (2 ^ 31 + 1))

/-- Descriptors of one row of 40 bytes between scratch and cluster memory: of kind k and direction dir, a TCOPY, a page access. -/
def rowX (k dir : Nat) : BitVec 512 := packet [(0, k), (1, 4 * dir), (4, 0xF0), (8, scrAt + 0x120), (16, 40), (20, 1)]
def tcopyX : BitVec 512 := packet [(0, 2), (4, 0xF0), (8, scrAt + 0x120), (16, 40), (20, 1), (28, 12), (32, 2)]
def pageX (dir : Nat) : BitVec 512 :=
  packet [(0, 4), (1, 4 * dir), (4, 0xF0), (8, scrAt + 0x100), (16, 40), (20, 1), (32, 0x1000), (36, 1), (48, 0x20)]
def decodeX : BitVec 512 := packet [(0, 3), (2, 16), (3, 2), (4, 0x200), (8, scrAt), (16, 1), (20, 1), (40, 4)]

theorem row_of (x : BitVec 512) (h : x = rowX 1 0 ∨ x = rowX 1 1 ∨ x = tcopyX ∨ x = rowX 5 0 ∨ x = pageX 0 ∨ x = pageX 1) :
    descOf (moveState x) 0 0 = some (aDesc x) ∧ dRows x = 1 ∧ dInner x = 40 ∧ dCma x + 40 ≤ 0x400000 := by
  rcases h with rfl | rfl | rfl | rfl | rfl | rfl <;> decide +kernel

theorem witness_DescriptorsRun_rows : dDir (rowX 1 0) = 0 ∧ dDir (rowX 1 1) = 1 := by decide +kernel

theorem witness_DescriptorsRun_tcopy : ∀ i < 40, ∀ j < 40, tcopyAt tcopyX 0 i = tcopyAt tcopyX 0 j → i = j := by decide +kernel

theorem rows_served (x : BitVec 512) (h : x = rowX 1 0 ∨ x = rowX 1 1 ∨ x = tcopyX ∨ x = rowX 5 0) :
    ScratchServes (moveState x) (dmaAcc (moveState x) 0 (aDesc x) []) (dDva x) 40 := by
  rcases h with rfl | rfl | rfl | rfl <;> (unfold ScratchServes; decide +kernel)

theorem witness_DescriptorsRun_decode :
    descOf (moveState decodeX) 0 0 = some (aDesc decodeX) ∧ dRows decodeX = 1 ∧ dInner decodeX = 1 ∧
    (moveState decodeX).upsets.book = [] := by decide +kernel

theorem block_served :
    ScratchServes (moveState decodeX) (dmaAcc (moveState decodeX) 0 (aDesc decodeX) []) (decodeFrom decodeX (0, 0))
      (blockBytes (dSfmt decodeX)) := by
  unfold ScratchServes; decide +kernel

/-- The page table entry that both page accesses meet. -/
theorem witness_DescriptorsRun_pages :
    let x := pageX 0
    let T := cmAddr 0 (tableAddr (dP x 0) + 4 * (bits (dP x 1) 0 32 % tableSize (dP x 0)))
    let w := memRead (moveState x).mem T 4
    bits w 31 1 = 1 ∧ psnAny (moveState x).psn T 4 = false ∧
      (dDva x + bits w 0 24 * bits (dP x 2) 0 32 + bits (dP x 3) 0 32) % 2 ^ 48 = scrAt + 0x120 := by decide +kernel

theorem page_served (x : BitVec 512) (h : x = pageX 0 ∨ x = pageX 1) :
    ScratchServes (moveState x) (dmaAcc (moveState x) 0 (aDesc x) []) (scrAt + 0x120) 40 := by
  rcases h with rfl | rfl <;> (unfold ScratchServes; decide +kernel)

/-- A COMMIT of the tree of treeWords. -/
def commitX : BitVec 512 := packet [(0, 7), (32, 0x2000), (36, 16), (44, 2), (48, 1), (56, 0x3000)]
def commitState : State := { dmaState [] [aDesc commitX] with mem := treeWords }

theorem tree_commit : TreeReady commitState 0 (dP commitX 0) (dP commitX 1) (dP commitX 2) (dP commitX 3) := by
  unfold TreeReady; decide +kernel

theorem witness_DescriptorsRun_commit : descOf commitState 0 0 = some (aDesc commitX) ∧ (aDesc commitX).sawPsn = false := by
  decide +kernel

/-! The host port. -/

/-- BAR4 onto the scratch of partition 0, with key slot 0; slot 0's key is the partition's. -/
def barState : State :=
  wf (wf (wf (withScratch servingState (memWrite [] scrAt 32 0x112233445566)) fCmdBar4_key 0) fCmdBar4_part 0) fCmdBar4_base (scrBase / 2 ^ 36)

theorem witness_HostPort_bar4 :
    (bar4Find barState 0 0x400000 8 false).addr = scrAt ∧ (bar4Find barState 0 0x400000 8 false).n = 8 ∧ barState.host.up = true ∧
    recovering barState = false ∧ bar4Bad barState (bar4Find barState 0 0x400000 8 false) 0x400000 = false ∧
    bar4Bad barState (bar4Find barState 0 0x400005 3 true) 0x400005 = false := by decide +kernel

theorem bar4_served :
    (∀ y ∈ piecesFrom scrAt 8, ScratchServes barState (bar4Acc (bar4Find barState 0 0x400000 8 false)) y.1 y.2 ∧
      psnAny barState.psn (y.1 / 256 * 256) 256 = false) ∧
    ScratchServes barState (bar4Acc (bar4Find barState 0 0x400005 3 true)) (scrAt + 5) 3 := by
  unfold ScratchServes; decide +kernel

theorem witness_HostPort_config :
    servingState.host.up = true ∧ queueAt servingState 0 (0x3000 / 0x1000) = some 3 ∧ 0x3000 % 0x1000 = 0 ∧
    vfOffset servingState 16 1020 = none ∧ vfOffset servingState 16 1016 = none := by decide +kernel

/-- A clean line of host memory under an invalidation, and one of another page that is dirty. -/
def invState : State :=
  { servingState with host := { up := true, cache := [⟨7, 0, 14, true, true⟩, ⟨7, 2 ^ 20, 14, true, true⟩] } }.setSlice 3
    { victim := [{ ln := { hostLine with line := hostBase / 256 + 1, pasid := 7, dirty := false } },
      { ln := { hostLine with line := hostBase / 256 + 4096, pasid := 7 } }] }

theorem witness_HostPort_invalidation :
    invBusy invState 7 0 14 = false ∧ 5 ∉ invState.host.invs ∧ rf invState fLnkCasc_topo = 0 ∧ tget [] invState.host.invWait 5 = [] ∧
    (∀ sl ∈ allSlices, ∀ ln ∈ (invState.slice sl).lines, (hostWalk 3 hostBase (2 ^ 14) 7).covers ln.line ln.pasid ln.key = true →
      ln.dirty = false) ∧
    (∃ ln ∈ (invState.slice 3).lines, (hostWalk 3 hostBase (2 ^ 14) 7).covers ln.line ln.pasid ln.key = true) := by decide +kernel

/-! Registers. -/

/-- A counter of a register, met by an increment in the same cycle. -/
theorem witness_WritesFollowAccessTypes_counters :
    (regTable.any fun r => r.fields.any fun f => decide (f.clamp = .none ∧ f.acc = .rw ∧ f.ctr = true)) = true := by decide +kernel

/-- The register values of maintenance over all lines: INVALIDATE, FLUSH, CLEAN_INV; and PURGE_KEY of slot 62. -/
def allV : BitVec 32 := BitVec.ofNat 32 (2 ^ fSbfMaint_all.lo)
def maintState (ln : Option CLine) : State :=
  match ln with
  | some ln => fabricState.setSlice 3 { victim := [{ ln := ln }] }
  | none => fabricState.setSlice 3 { victim := [{ ln := heldLine }] }
def dirtyLine : CLine := { heldLine with dirty := true }

theorem witness_BufferAndRegulationRegisters_walks :
    (∀ k ∈ [1, 2, 3, 4], maintAllowed k 0 = true ∨ k = 4) ∧ rb (maintState none) fSbfMaint_busy = false ∧
    bits allV.toNat 4 3 = 0 ∧ bits allV.toNat fSbfMaint_all.lo fSbfMaint_all.w = 1 ∧
    (allSlices.flatMap fun sl => ((maintState none).slice sl).lines.filter (·.dirty)) = [] ∧
    (allSlices.flatMap fun sl => ((maintState (some dirtyLine)).slice sl).lines.filter (·.dirty)) = [dirtyLine] ∧
    rangeOf (lineAddr dirtyLine.line) = .far ∧ hbmAsleep (maintState (some dirtyLine)) (lineAddr dirtyLine.line) = false := by
  decide +kernel

theorem witness_BufferAndRegulationRegisters_more :
    (∃ v : BitVec 32, maintAllowed 4 (bits v.toNat 4 3) = true) ∧ (∀ x ∈ (maintState none).slices, x.2.out = []) ∧
    rb State.reset fBseBoot_cmd = false ∧ 95 < 96 ∧ 95 ≠ 0 ∧ rf State.reset (fSbfScrgrant_owner 0) ≠ 5 ∧
    (let s := wf (maintState none) (fSecFtgrant_busy 1) 1
     rb s (fSecFtgrant_busy 1) = true ∧ ∀ sl ∈ allSlices, ∀ ln ∈ (s.slice sl).lines,
       (grantWalk 1).covers ln.line ln.pasid ln.key = true → ln.dirty = false) ∧
    State.reset.met.inc = [] := by
  refine ⟨⟨0x20, by decide +kernel⟩, by decide +kernel, by decide +kernel, by decide, by decide, by decide +kernel, by decide +kernel, rfl⟩

end Sys2Proof.Tests
end

section
/-! PROOF. BAR0 offsets where no register and no window is assigned (R7): reads give zero, writes leave the state. -/
namespace Sys2Proof.Machine

theorem exec_registerWrite (s : State) (fn off w : Nat) (v : BitVec 64) :
    exec (.registerWrite fn off w v) s = execRegisterWrite fn off w v s := rfl

/-! Reads. -/

/-- Both halves of BSE_TIME, whose reads move the latch of R276, lie in a register. -/
theorem regAt_bseTime : regAt offBseTime ≠ none ∧ regAt (offBseTime + 4) ≠ none := by decide +kernel

/-- A read away from BSE_TIME changes no state. -/
theorem regRead1_of_ne {off : Nat} (s : State) (hlo : off ≠ offBseTime) (hhi : off ≠ offBseTime + 4) :
    regRead1 s off = (s, regRead32 s off) := by
  rw [regRead1, if_neg hlo, if_neg hhi]

theorem regRead32_of_unassigned {s : State} {off : Nat} (halign : off % 4 = 0) (hreg : regAt off = none)
    (hwin : windowRead s off = none) : regRead32 s off = 0 := by
  have hword : off / 4 * 4 = off := by omega
  simp [regRead32, hword, hreg, hwin]

/-! Writes. -/

/-- The mailbox's send buffer, the one buffer that a write reaches beside the registers, is also a window of reads. -/
theorem not_mailbox_of_windowRead_none {s : State} {off : Nat} (hwin : windowRead s off = none) :
    ¬(0x92100 ≤ off ∧ off + 4 ≤ 0x92140) := by
  rintro ⟨hlo, hhi⟩
  have hmbx : 0x92100 ≤ off ∧ off < 0x92140 := ⟨hlo, by omega⟩
  simp [windowRead, hmbx] at hwin

theorem regWrite1_of_unassigned {s : State} {off : Nat} (fn v : Nat) (hreg : regAt off = none)
    (hwin : windowRead s off = none) : regWrite1 s fn off 4 v = s := by
  rw [regWrite1, if_neg (not_mailbox_of_windowRead_none hwin), hreg]

theorem regWrite_32 (s : State) (fn off v : Nat) :
    regWrite s fn off 32 v = regWrite1 s fn (off / 4 * 4) 4 (v % 2 ^ 32) := rfl

/-- After the end of BASE no write is held (R372). -/
theorem holdsWrite_of_base {s : State} (fn off : Nat) (hbase : rb s fBseBoot_cmd = true) : holdsWrite s fn off = false := by
  simp [holdsWrite, hbase]

/-- A write of PF0 over a link that is up reaches the registers once BASE has ended. -/
theorem exec_registerWrite_pf0 {s : State} (off w : Nat) (v : BitVec 64) (hup : s.host.up = true)
    (hbase : rb s fBseBoot_cmd = true) : exec (.registerWrite 0 off w v) s = .next (regWrite s 0 off w v.toNat) := by
  simp [exec_registerWrite, execRegisterWrite, holdsWrite_of_base 0 off hbase, hup, writeBy]

/-! R7. -/

theorem regRead1_of_unassigned {s : State} {off : Nat} (halign : off % 4 = 0) (hreg : regAt off = none)
    (hwin : windowRead s off = none) : regRead1 s off = (s, 0) := by
  obtain ⟨hlo, hhi⟩ := regAt_bseTime
  have hne : off ≠ offBseTime := fun h => hlo (h ▸ hreg)
  have hne4 : off ≠ offBseTime + 4 := fun h => hhi (h ▸ hreg)
  rw [regRead1_of_ne s hne hne4, regRead32_of_unassigned halign hreg hwin]

theorem regWrite_32_of_unassigned {s : State} {off : Nat} (fn v : Nat) (halign : off % 4 = 0) (hreg : regAt off = none)
    (hwin : windowRead s off = none) : regWrite s fn off 32 v = s := by
  have hword : off / 4 * 4 = off := by omega
  rw [regWrite_32, hword, regWrite1_of_unassigned _ _ hreg hwin]

/-- Settles O49: with no window and no register at the offset, the read is neither half of BSE_TIME and falls through to zero; the
write misses the mailbox's buffer and finds no register. -/
theorem unassignedOffsets : Obligations.UnassignedOffsets := by
  unfold Obligations.UnassignedOffsets
  intro s off v halign hreg hwin
  refine ⟨regRead1_of_unassigned halign hreg hwin, fun hup hbase => ?_⟩
  rw [exec_registerWrite_pf0 off 32 v hup hbase, regWrite_32_of_unassigned _ _ halign hreg hwin]

end Sys2Proof.Machine
end

section
/-! PROOF. The values of floating-point encodings (R26): every one is a whole number of subnormal units, which grows with the bits
below the sign; the limits of Table 2-2 are the values of three encodings. -/
namespace Sys2Proof.Machine

/-- How many units of the subnormal spacing the bits below the sign stand for, with M mantissa bits. -/
def magUnits (M mag : Nat) : Nat := if mag / 2 ^ M = 0 then mag % 2 ^ M else (2 ^ M + mag % 2 ^ M) * 2 ^ (mag / 2 ^ M - 1)

theorem magUnits_of_exp_zero {M mag : Nat} (h : mag / 2 ^ M = 0) : magUnits M mag = mag % 2 ^ M := if_pos h
theorem magUnits_of_exp_succ {M mag e : Nat} (h : mag / 2 ^ M = e + 1) : magUnits M mag = (2 ^ M + mag % 2 ^ M) * 2 ^ e := by
  simp [magUnits, h]

/-- A binade ends where the next one begins. -/
theorem magUnits_le_binade (M mag : Nat) : magUnits M mag ≤ 2 ^ M * 2 ^ (mag / 2 ^ M) := by
  have hm : mag % 2 ^ M < 2 ^ M := Nat.mod_lt _ (by positivity)
  cases he : mag / 2 ^ M with
  | zero => rw [magUnits_of_exp_zero he]; omega
  | succ e =>
    rw [magUnits_of_exp_succ he]
    calc (2 ^ M + mag % 2 ^ M) * 2 ^ e ≤ (2 ^ M * 2) * 2 ^ e := Nat.mul_le_mul_right _ (by omega)
      _ = 2 ^ M * 2 ^ (e + 1) := by ring

theorem magUnits_mono {M a b : Nat} (h : a ≤ b) : magUnits M a ≤ magUnits M b := by
  rcases Nat.lt_or_eq_of_le (Nat.div_le_div_right (c := 2 ^ M) h) with hlt | heq
  · obtain ⟨e, he⟩ : ∃ e, b / 2 ^ M = e + 1 := Nat.exists_eq_succ_of_ne_zero (Nat.ne_zero_of_lt hlt)
    calc magUnits M a ≤ 2 ^ M * 2 ^ (a / 2 ^ M) := magUnits_le_binade M a
      _ ≤ 2 ^ M * 2 ^ e := Nat.mul_le_mul_left _ (Nat.pow_le_pow_right (by omega) (by omega))
      _ ≤ magUnits M b := by rw [magUnits_of_exp_succ he]; exact Nat.mul_le_mul_right _ (by omega)
  · have hm : a % 2 ^ M ≤ b % 2 ^ M := by
      have ha := Nat.div_add_mod a (2 ^ M)
      have hb := Nat.div_add_mod b (2 ^ M)
      rw [heq] at ha
      omega
    cases he : b / 2 ^ M with
    | zero => rw [magUnits_of_exp_zero (heq.trans he), magUnits_of_exp_zero he]; exact hm
    | succ e =>
      rw [magUnits_of_exp_succ (heq.trans he), magUnits_of_exp_succ he]
      exact Nat.mul_le_mul_right _ (by omega)

theorem magUnits_one {M : Nat} (hM : 1 ≤ M) : magUnits M 1 = 1 := by
  have h1 : 1 < 2 ^ M := Nat.one_lt_two_pow (by omega)
  rw [magUnits_of_exp_zero (Nat.div_eq_of_lt h1), Nat.mod_eq_of_lt h1]

theorem magUnits_two_pow (M : Nat) : magUnits M (2 ^ M) = 2 ^ M := by
  have he : 2 ^ M / 2 ^ M = 0 + 1 := Nat.div_self (by positivity)
  rw [magUnits_of_exp_succ he, Nat.mod_self]
  ring

/-- An encoding within the finite range stands for its sign and its units of the subnormal spacing. -/
theorem numOf_decode {f : FFmt} {x : Nat} (hfin : x % f.signBit ≤ f.maxMag) :
    numOf (f.decode x) =
      some ((-1) ^ bit (decide (x / f.signBit % 2 = 1)) * magUnits f.mb (x % f.signBit) * (2 : ℚ) ^ f.qmin) := by
  rw [FFmt.decode]
  dsimp only
  rw [if_pos hfin]
  cases he : x % f.signBit / 2 ^ f.mb with
  | zero => rw [if_pos rfl, numOf, magUnits_of_exp_zero he]
  | succ e =>
    have hexp : f.qmin + ((e + 1 : Nat) : Int) - 1 = e + f.qmin := by push_cast; ring
    rw [if_neg (Nat.succ_ne_zero e), numOf, magUnits_of_exp_succ he, hexp, zpow_add₀ two_ne_zero, zpow_natCast]
    push_cast
    ring_nf

/-- An encoding without a sign. -/
theorem numOf_decode_pos {f : FFmt} {x : Nat} (hsign : x < f.signBit) (hfin : x ≤ f.maxMag) :
    numOf (f.decode x) = some (magUnits f.mb x * (2 : ℚ) ^ f.qmin) := by
  have hmag : x % f.signBit = x := Nat.mod_eq_of_lt hsign
  rw [numOf_decode (by rw [hmag]; exact hfin), hmag, Nat.div_eq_of_lt hsign]
  simp [bit]

/-- A single sign bit as a number. -/
theorem bit_decide_mod_two {s : Nat} (hs : s < 2) : bit (decide (s % 2 = 1)) = s := by
  interval_cases s <;> rfl

/-- No finite encoding exceeds the largest one. -/
theorem numOf_decode_le {f : FFmt} {x : Nat} {v : ℚ} (hfin : x % f.signBit ≤ f.maxMag) (hv : numOf (f.decode x) = some v) :
    v ≤ magUnits f.mb f.maxMag * (2 : ℚ) ^ f.qmin := by
  rw [numOf_decode hfin, Option.some.injEq] at hv
  subst hv
  have hunits : (magUnits f.mb (x % f.signBit) : ℚ) ≤ magUnits f.mb f.maxMag := by exact_mod_cast magUnits_mono hfin
  have hsign : (-1 : ℚ) ^ bit (decide (x / f.signBit % 2 = 1)) ≤ 1 := by
    cases decide (x / f.signBit % 2 = 1) <;> norm_num [bit]
  refine mul_le_mul_of_nonneg_right ?_ (by positivity)
  calc (-1 : ℚ) ^ bit (decide (x / f.signBit % 2 = 1)) * magUnits f.mb (x % f.signBit)
      ≤ 1 * magUnits f.mb (x % f.signBit) := mul_le_mul_of_nonneg_right hsign (Nat.cast_nonneg _)
    _ ≤ magUnits f.mb f.maxMag := by rw [one_mul]; exact hunits

/-- R26: the value of the encoding x with E exponent bits, M mantissa bits and bias b. -/
def ruleValue (E M : Nat) (b : Int) (x : Nat) : ℚ :=
  if x / 2 ^ M % 2 ^ E = 0 then (-1) ^ (x / 2 ^ (E + M)) * (2 : ℚ) ^ (1 - b) * (x % 2 ^ M : Nat) / 2 ^ M
  else (-1) ^ (x / 2 ^ (E + M)) * (2 : ℚ) ^ ((x / 2 ^ M % 2 ^ E : Nat) - b) * (1 + (x % 2 ^ M : Nat) / 2 ^ M)

/-- Sign, exponent and mantissa as R26 reads them give the same number as the units of the subnormal spacing. -/
theorem ruleValue_eq_units (E M : Nat) (b : Int) (x : Nat) :
    ruleValue E M b x = (-1) ^ (x / 2 ^ (E + M)) * magUnits M (x % 2 ^ (E + M)) * (2 : ℚ) ^ (1 - b - M) := by
  have hexp : x % 2 ^ (E + M) / 2 ^ M = x / 2 ^ M % 2 ^ E := by
    rw [Nat.add_comm E M, Nat.pow_add, Nat.mod_mul_right_div_self]
  have hman : x % 2 ^ (E + M) % 2 ^ M = x % 2 ^ M := Nat.mod_mod_of_dvd x (Nat.pow_dvd_pow 2 (Nat.le_add_left M E))
  rw [ruleValue, zpow_sub₀ two_ne_zero (1 - b) M, zpow_natCast]
  cases he : x / 2 ^ M % 2 ^ E with
  | zero =>
    rw [if_pos rfl, magUnits_of_exp_zero (hexp.trans he), hman]
    ring
  | succ e =>
    have hpow : (2 : ℚ) ^ (((e + 1 : Nat) : Int) - b) = 2 ^ e * (2 : ℚ) ^ (1 - b) := by
      rw [← zpow_natCast, ← zpow_add₀ two_ne_zero]
      congr 1
      push_cast
      ring
    rw [if_neg (Nat.succ_ne_zero e), magUnits_of_exp_succ (hexp.trans he), hman, hpow]
    push_cast
    field_simp

/-! Rows of Table 2-2. -/

/-- A format of the model has the fields of its row of Table 2-2: its finite encodings are those that Table 2-3 does not list, and
the row's limits are whole numbers of its subnormal spacing. -/
structure RowFits (f : FFmt) (E M : Nat) (b : Int) (largest : ℚ) (normal subnormal : Int) : Prop where
  exponent : f.eb = E
  mantissa : f.mb = M
  bias : (f.bias : Int) = b
  mantissaPos : 1 ≤ M
  inRange : 2 ^ M ≤ f.maxMag ∧ f.maxMag < 2 ^ (E + M)
  finite : ∀ x, special E M x = false ↔ x % 2 ^ (E + M) ≤ f.maxMag
  largestEq : largest = magUnits M f.maxMag * (2 : ℚ) ^ subnormal
  subnormalEq : subnormal = 1 - b - M
  normalEq : normal = subnormal + M

/-- Where the exponent of all ones is reserved, the finite encodings are those below it. -/
theorem special_of_reserved {E M maxMag : Nat} (hE : E = 5 ∨ E = 8) (hmax : maxMag + 1 = (2 ^ E - 1) * 2 ^ M) (x : Nat) :
    special E M x = false ↔ x % 2 ^ (E + M) ≤ maxMag := by
  have hspecial : special E M x = decide (x / 2 ^ M % 2 ^ E = 2 ^ E - 1) := by
    have h4 : ¬(M = 3 ∧ E = 4) := by omega
    rw [special, if_neg h4, if_pos hE]
  have hexp : x / 2 ^ M % 2 ^ E = x % 2 ^ (E + M) / 2 ^ M := by
    rw [Nat.add_comm E M, Nat.pow_add, Nat.mod_mul_right_div_self]
  have hlt : x / 2 ^ M % 2 ^ E < 2 ^ E := Nat.mod_lt _ (by positivity)
  have hbelow : x % 2 ^ (E + M) / 2 ^ M < 2 ^ E - 1 ↔ x % 2 ^ (E + M) < maxMag + 1 := by
    rw [hmax]; exact Nat.div_lt_iff_lt_mul (by positivity)
  rw [hspecial, decide_eq_false_iff_not]
  omega

/-- FP8-E4M3 reserves the one code with all bits set. -/
theorem special_e4m3 (x : Nat) : special 4 3 x = false ↔ x % 2 ^ (4 + 3) ≤ e4m3.maxMag := by
  have hspecial : special 4 3 x = decide (x % 128 = 0x7F) := rfl
  have hmax : e4m3.maxMag = 0x7E := rfl
  rw [hspecial, hmax, decide_eq_false_iff_not]
  omega

/-- FP6 and FP4 have no special encodings. -/
theorem special_of_narrow {E M maxMag : Nat} (hE : E < 4) (hmax : maxMag + 1 = 2 ^ (E + M)) (x : Nat) :
    special E M x = false ↔ x % 2 ^ (E + M) ≤ maxMag := by
  have hspecial : special E M x = false := by
    have h4 : ¬(M = 3 ∧ E = 4) := by omega
    have h5 : ¬(E = 5 ∨ E = 8) := by omega
    rw [special, if_neg h4, if_neg h5]
  have hlt : x % 2 ^ (E + M) < 2 ^ (E + M) := Nat.mod_lt _ (by positivity)
  exact iff_of_true hspecial (by omega)

theorem rowFits_fp32 : RowFits fp32 8 23 127 ((2 - 2⁻¹ ^ 23) * 2 ^ 127) (-126) (-149) :=
  ⟨rfl, rfl, rfl, by decide, by decide, special_of_reserved (.inr rfl) rfl, by norm_num [fp32, magUnits], rfl, rfl⟩
theorem rowFits_fp16 : RowFits fp16 5 10 15 65504 (-14) (-24) :=
  ⟨rfl, rfl, rfl, by decide, by decide, special_of_reserved (.inl rfl) rfl, by norm_num [fp16, magUnits], rfl, rfl⟩
theorem rowFits_bf16 : RowFits bf16 8 7 127 ((2 - 2⁻¹ ^ 7) * 2 ^ 127) (-126) (-133) :=
  ⟨rfl, rfl, rfl, by decide, by decide, special_of_reserved (.inr rfl) rfl, by norm_num [bf16, magUnits], rfl, rfl⟩
theorem rowFits_e4m3 : RowFits e4m3 4 3 7 448 (-6) (-9) :=
  ⟨rfl, rfl, rfl, by decide, by decide, special_e4m3, by norm_num [e4m3, magUnits], rfl, rfl⟩
theorem rowFits_e5m2 : RowFits e5m2 5 2 15 57344 (-14) (-16) :=
  ⟨rfl, rfl, rfl, by decide, by decide, special_of_reserved (.inl rfl) rfl, by norm_num [e5m2, magUnits], rfl, rfl⟩
theorem rowFits_e3m2 : RowFits e3m2 3 2 3 28 (-2) (-4) :=
  ⟨rfl, rfl, rfl, by decide, by decide, special_of_narrow (by decide) rfl, by norm_num [e3m2, magUnits], rfl, rfl⟩
theorem rowFits_e2m3 : RowFits e2m3 2 3 1 (15 / 2) 0 (-3) :=
  ⟨rfl, rfl, rfl, by decide, by decide, special_of_narrow (by decide) rfl, by norm_num [e2m3, magUnits], rfl, rfl⟩
theorem rowFits_e2m1 : RowFits e2m1 2 1 1 6 0 (-1) :=
  ⟨rfl, rfl, rfl, by decide, by decide, special_of_narrow (by decide) rfl, by norm_num [e2m1, magUnits], rfl, rfl⟩

theorem rowFits_of_mem_layouts {y : FFmt × Nat × Nat × Int × ℚ × Int × Int} (hy : y ∈ layouts) :
    RowFits y.1 y.2.1 y.2.2.1 y.2.2.2.1 y.2.2.2.2.1 y.2.2.2.2.2.1 y.2.2.2.2.2.2 := by
  simp only [layouts, List.mem_cons, List.not_mem_nil, or_false] at hy
  rcases hy with rfl | rfl | rfl | rfl | rfl | rfl | rfl | rfl
  exacts [rowFits_fp32, rowFits_fp16, rowFits_bf16, rowFits_e4m3, rowFits_e5m2, rowFits_e3m2, rowFits_e2m3, rowFits_e2m1]

section
variable {f : FFmt} {E M : Nat} {b : Int} {largest : ℚ} {normal subnormal : Int}
  (h : RowFits f E M b largest normal subnormal)
include h

theorem RowFits.signBit_eq : f.signBit = 2 ^ (E + M) := by rw [FFmt.signBit, h.exponent, h.mantissa]

theorem RowFits.qmin_eq : f.qmin = subnormal := by rw [FFmt.qmin, h.bias, h.mantissa, h.subnormalEq]

theorem RowFits.finite_iff (x : Nat) : special E M x = false ↔ x % f.signBit ≤ f.maxMag := by
  rw [h.signBit_eq]; exact h.finite x

theorem RowFits.largest_eq : (magUnits f.mb f.maxMag * (2 : ℚ) ^ f.qmin) = largest := by
  rw [h.qmin_eq, h.mantissa, h.largestEq]

/-- An encoding that is not special has the value of R26. -/
theorem RowFits.numOf_decode_eq {x : Nat} (hx : x < 2 ^ (1 + E + M)) (hsp : special E M x = false) :
    numOf (f.decode x) = some (ruleValue E M b x) := by
  have hs : x / 2 ^ (E + M) < 2 := by
    rw [Nat.div_lt_iff_lt_mul (by positivity), ← Nat.pow_succ']
    exact hx.trans_eq (by congr 1; omega)
  rw [numOf_decode ((h.finite_iff x).mp hsp), ruleValue_eq_units, h.signBit_eq, bit_decide_mod_two hs, h.mantissa, h.qmin_eq, h.subnormalEq]

theorem RowFits.numOf_decode_le {x : Nat} {v : ℚ} (hsp : special E M x = false) (hv : numOf (f.decode x) = some v) :
    v ≤ largest := by
  rw [← h.largest_eq]
  exact Machine.numOf_decode_le ((h.finite_iff x).mp hsp) hv

theorem RowFits.exists_largest : ∃ x, x < 2 ^ (1 + E + M) ∧ special E M x = false ∧ numOf (f.decode x) = some largest := by
  have hlt := h.inRange.2
  have hsign : f.maxMag < f.signBit := by rw [h.signBit_eq]; exact hlt
  refine ⟨f.maxMag, hlt.trans_le (Nat.pow_le_pow_right (by omega) (by omega)), ?_, ?_⟩
  · rw [h.finite_iff, Nat.mod_eq_of_lt hsign]
  · rw [numOf_decode_pos hsign le_rfl, h.largest_eq]

theorem RowFits.numOf_smallest_normal : numOf (f.decode (2 ^ M)) = some ((2 : ℚ) ^ normal) := by
  obtain ⟨hle, hlt⟩ := h.inRange
  have hsign : 2 ^ M < f.signBit := by rw [h.signBit_eq]; exact hle.trans_lt hlt
  rw [numOf_decode_pos hsign hle, h.mantissa, magUnits_two_pow, h.qmin_eq, h.normalEq, zpow_add₀ two_ne_zero, zpow_natCast, mul_comm]
  push_cast
  rfl

theorem RowFits.numOf_smallest_subnormal : numOf (f.decode 1) = some ((2 : ℚ) ^ subnormal) := by
  obtain ⟨hle, hlt⟩ := h.inRange
  have hone : 1 ≤ f.maxMag := Nat.one_le_two_pow.trans hle
  have hsign : 1 < f.signBit := by rw [h.signBit_eq]; exact hone.trans_lt hlt
  rw [numOf_decode_pos hsign hone, h.mantissa, magUnits_one h.mantissaPos, h.qmin_eq, Nat.cast_one, one_mul]

end

/-- Settles O4: every row of Table 2-2 fits its format of the model, and a row that fits gives the values and the limits. -/
theorem encodingsHaveTheirValue : Obligations.EncodingsHaveTheirValue := by
  unfold Obligations.EncodingsHaveTheirValue
  intro y hy
  have h := rowFits_of_mem_layouts hy
  exact ⟨fun x hx hsp => ⟨h.numOf_decode_eq hx hsp, fun v hv => h.numOf_decode_le hsp hv⟩, h.exists_largest,
    h.numOf_smallest_normal, h.numOf_smallest_subnormal⟩

end Sys2Proof.Machine
end

section
/-! PROOF. The storage-only weight formats: a weight of a CB2 or CB3 block is a codebook sum rounded to FP16 times the scale (R37), a
weight of a TN5 block its ternary value times sub-scale and scale (R39). -/
namespace Sys2Proof.Machine

/-- Where every element of a list gives k results, result j of element g stands at place k * g + j. -/
theorem getElem?_flatMap_of_length_eq {α β : Type} {f : α → List β} {k j : Nat} (hlen : ∀ a, (f a).length = k) (hj : j < k)
    (l : List α) (g : Nat) : (l.flatMap f)[k * g + j]? = l[g]?.bind fun a => (f a)[j]? := by
  induction l generalizing g with
  | nil => simp
  | cons a l ih =>
    rw [List.flatMap_cons]
    cases g with
    | zero =>
      have hin : j < (f a).length := by rw [hlen]; exact hj
      simpa using List.getElem?_append_left hin
    | succ g =>
      have hout : (f a).length ≤ k * (g + 1) + j := by rw [hlen, Nat.mul_succ]; omega
      have hplace : k * (g + 1) + j - (f a).length = k * g + j := by rw [hlen, Nat.mul_succ]; omega
      rw [List.getElem?_append_right hout, hplace, ih g, List.getElem?_cons_succ]

/-! Codebooks (R35 to R37). -/

/-- The block scale of a CB2 or CB3 block of n codebooks, which follows the indices (Table 2-4). -/
def cbScale (n : Nat) (blk : List Nat) : Val := fp16.decode (blk.getD (32 * n) 0 + 256 * blk.getD (32 * n + 1) 0)

/-- Element j of the vector of codebook k that the index of group g names. -/
def cbElem (n : Nat) (blk : List Nat) (book : Nat → Nat) (g j k : Nat) : Val :=
  e4m3.decode (book (bookIndex k (blk.getD (n * g + k) 0) j))

/-- The elements that a group takes from the codebooks through its list of indices are those that the indices name. -/
theorem map_cbElem (n : Nat) (blk : List Nat) (book : Nat → Nat) (g j : Nat) :
    ((List.range n).map fun k =>
      e4m3.decode (book (bookIndex k (((List.range n).map fun i => blk.getD (n * g + i) 0).getD k 0) j))) =
      (List.range n).map (cbElem n blk book g j) := by
  refine List.map_congr_left fun k hk => ?_
  have hidx : ((List.range n).map fun i => blk.getD (n * g + i) 0).getD k 0 = blk.getD (n * g + k) 0 := by
    simp [List.getD_eq_getElem?_getD, List.mem_range.mp hk]
  rw [hidx, cbElem]

theorem decodeCb_weight (n t : Nat) (blk : List Nat) (book : Nat → Nat) (bad : Nat → Bool) {g j : Nat} (hg : g < 32) (hj : j < 8) :
    ((decodeCb n t blk book bad).1[8 * g + j]?).map (·.1) =
      some (toTarget t (mulV (fp16.decode (roundV fp16 (sumV ((List.range n).map (cbElem n blk book g j)))).1) (cbScale n blk)).1) := by
  rw [decodeCb]
  dsimp only
  rw [List.getElem?_map, getElem?_flatMap_of_length_eq (fun a => by simp) hj, List.getElem?_range hg, Option.bind_some,
    List.getElem?_map, List.getElem?_range hj]
  simp only [Option.map_some, map_cbElem, cbScale]

/-! Ternary digits (R38, R39). -/

theorem decodeTn5_weight (t : Nat) (blk : List Nat) {n : Nat} (hn : n < 256) (hdigits : blk.getD (n / 5) 0 < 243) :
    ((decodeTn5 t blk).1[n]?).map (·.1) =
      some (toTarget t (mulV (mulV (valInt ((blk.getD (n / 5) 0 / 3 ^ (n % 5) % 3 : Nat) - 1) 0)
        (e4m3.decode (blk.getD (52 + n / 32) 0))).1 (fp16.decode (blk.getD 60 0 + 256 * blk.getD 61 0))).1) := by
  rw [decodeTn5]
  dsimp only
  rw [List.getElem?_map, List.getElem?_map, List.getElem?_range hn]
  simp only [Option.map_some, if_neg (Nat.not_le.mpr hdigits)]

/-- Settles O7, by finding weight 8g + j as result j of group g, and weight n of a TN5 block as that of its byte and digit. -/
theorem weightsDecodeByTheirRules : Obligations.WeightsDecodeByTheirRules := by
  unfold Obligations.WeightsDecodeByTheirRules
  refine ⟨fun n sf t g j blk book bad hcode hg hj => ?_, fun t n blk book bad hn hdigits => decodeTn5_weight t blk hn hdigits⟩
  have hblock : decodeBlock sf t blk book bad = decodeCb n t blk book bad := by
    rcases hcode with h | h <;> cases h <;> rfl
  rw [hblock]
  exact decodeCb_weight n t blk book bad hg hj

end Sys2Proof.Machine
end

section
/-! PROOF. The line check of a piece (R318): its bits as parities, what it is of an error, and the place of a piece's check in
the check of a line. -/
namespace Sys2Proof.Machine

/-! The two check bits as parities. -/

theorem parityWithout_succ (r n x : Nat) :
    parityWithout r (n + 1) x =
      ((((decide (0 ≠ r) && x.testBit 0) ^^ (decide (1 ≠ r) && x.testBit 1)) ^^ (decide (2 ≠ r) && x.testBit 2)) ^^
        parityWithout r n (x >>> 3)) := by
  simp only [parityWithout, Nat.testBit_eq_decide_div_mod_eq, Nat.shiftRight_eq_div_pow, Bool.bne_eq_xor]

/-- How many of the first n bits of x that the parity without r takes in are set. -/
def keptCount (r n x : Nat) : Nat := (List.range n).countP fun k => decide (k % 3 ≠ r) && x.testBit k

theorem keptCount_succ (r n x : Nat) :
    keptCount r (n + 1) x = keptCount r n x + bit (decide (n % 3 ≠ r) && x.testBit n) := by
  simp only [keptCount, List.range_succ, List.countP_append, List.countP_singleton, bit]

/-- The three lowest bits counted apart from the bits above them. -/
theorem keptCount_add_three (r n x : Nat) : keptCount r (n + 3) x = keptCount r 3 x + keptCount r n (x >>> 3) := by
  induction n with
  | zero => simp [keptCount]
  | succ n ih =>
    have hbit : x.testBit (n + 3) = (x >>> 3).testBit n := by rw [Nat.testBit_shiftRight, Nat.add_comm]
    rw [Nat.add_right_comm, keptCount_succ r (n + 3), ih, keptCount_succ r n, Nat.add_mod_right, hbit, Nat.add_assoc]

theorem bit_xor (a b : Bool) : bit (a ^^ b) = (bit a + bit b) % 2 := by cases a <;> cases b <;> rfl

theorem bit_parityWithout (r n x : Nat) : bit (parityWithout r n x) = keptCount r (3 * n) x % 2 := by
  induction n generalizing x with
  | zero => rfl
  | succ n ih =>
    have hlow : keptCount r 3 x = bit (decide (0 ≠ r) && x.testBit 0) + bit (decide (1 ≠ r) && x.testBit 1) +
        bit (decide (2 ≠ r) && x.testBit 2) := by
      simp only [keptCount_succ, Nat.reduceMod]
      simp [keptCount]
    rw [parityWithout_succ, Nat.mul_succ, keptCount_add_three, hlow, bit_xor, bit_xor, bit_xor, ih]
    omega

/-- The last group of three reaches two places past the piece, where no bit is set. -/
theorem keptCount_piece (r : Nat) (x : BitVec 256) : keptCount r 258 x.toNat = keptCount r 256 x.toNat := by
  have hout (k : Nat) (hk : 256 ≤ k) : x.toNat.testBit k = false := BitVec.getLsbD_of_ge x k hk
  simp [keptCount_succ r 257, keptCount_succ r 256, hout, bit]

theorem pieceCheck_toNat (x : BitVec 256) :
    (pieceCheck x).toNat = bit (parityWithout 1 86 x.toNat) + 2 * bit (parityWithout 0 86 x.toNat) := by
  rw [pieceCheck, BitVec.toNat_ofNat]
  cases parityWithout 1 86 x.toNat <;> cases parityWithout 0 86 x.toNat <;> rfl

theorem pieceCheck_toNat_keptCount (x : BitVec 256) :
    (pieceCheck x).toNat = keptCount 1 256 x.toNat % 2 + 2 * (keptCount 0 256 x.toNat % 2) := by
  rw [pieceCheck_toNat, bit_parityWithout, bit_parityWithout, keptCount_piece, keptCount_piece]

/-! The check of an error. -/

theorem parityWithout_xor (r n x y : Nat) :
    parityWithout r n (x ^^^ y) = (parityWithout r n x ^^ parityWithout r n y) := by
  induction n generalizing x y with
  | zero => rfl
  | succ n ih =>
    simp only [parityWithout_succ, Nat.testBit_xor, Nat.shiftRight_xor_distrib, ih, Bool.and_xor_distrib_left,
      Bool.xor_assoc, Bool.xor_left_comm]

/-- The check is linear: an error changes it by the error's own check. -/
theorem pieceCheck_xor (x y : BitVec 256) : pieceCheck (x ^^^ y) = pieceCheck x ^^^ pieceCheck y := by
  simp only [pieceCheck, BitVec.toNat_xor, parityWithout_xor]
  cases parityWithout 1 86 x.toNat <;> cases parityWithout 0 86 x.toNat <;>
    cases parityWithout 1 86 y.toNat <;> cases parityWithout 0 86 y.toNat <;> rfl

theorem pieceCheck_xor_ne {x e : BitVec 256} (he : pieceCheck e ≠ 0) : pieceCheck (x ^^^ e) ≠ pieceCheck x := by
  rw [pieceCheck_xor]
  simpa using he

theorem keptCount_two_pow_of_le (r : Nat) {n k : Nat} (h : n ≤ k) : keptCount r n (2 ^ k) = 0 := by
  refine List.countP_eq_zero.mpr fun j hj => ?_
  have hne : k ≠ j := by have := List.mem_range.mp hj; omega
  simp [Nat.testBit_two_pow_of_ne hne]

theorem keptCount_two_pow (r : Nat) {n k : Nat} (h : k < n) : keptCount r n (2 ^ k) = bit (decide (k % 3 ≠ r)) := by
  induction n, h using Nat.le_induction with
  | base => simp [keptCount_succ, keptCount_two_pow_of_le]
  | succ n hn ih =>
    have hne : k ≠ n := by omega
    simp [keptCount_succ, ih, Nat.testBit_two_pow_of_ne hne, bit]

/-- The check of one set bit is the residue of its place: the remainders of x^k modulo x² + x + 1 are 1, x and x + 1 in turn. -/
theorem pieceCheck_single {k : Nat} (hk : k < 256) : (pieceCheck (1#256 <<< k)).toNat = k % 3 + 1 := by
  have hbit : (1#256 <<< k).toNat = 2 ^ k := by
    rw [← BitVec.twoPow_eq, BitVec.toNat_twoPow, Nat.mod_eq_of_lt (Nat.pow_lt_pow_right (by decide) hk)]
  rw [pieceCheck_toNat_keptCount, hbit, keptCount_two_pow _ hk, keptCount_two_pow _ hk]
  have hmod : k % 3 = 0 ∨ k % 3 = 1 ∨ k % 3 = 2 := by omega
  rcases hmod with h | h | h <;> rw [h] <;> rfl

theorem pieceCheck_single_ne_zero {k : Nat} (hk : k < 256) : pieceCheck (1#256 <<< k) ≠ 0 := by
  intro h
  have hcheck := pieceCheck_single hk
  rw [h] at hcheck
  exact Nat.succ_ne_zero _ hcheck.symm

/-- Neighbours differ modulo 3, so their checks differ and do not cancel. -/
theorem pieceCheck_adjacent_ne_zero {k : Nat} (hk : k < 255) : pieceCheck (3#256 <<< k) ≠ 0 := by
  have hsplit : 3#256 <<< k = 1#256 <<< k ^^^ 1#256 <<< (k + 1) := by
    rw [Nat.add_comm, BitVec.shiftLeft_add, ← BitVec.shiftLeft_xor_distrib]
    rfl
  have hne : pieceCheck (1#256 <<< k) ≠ pieceCheck (1#256 <<< (k + 1)) := by
    intro h
    have hcheck := congrArg BitVec.toNat h
    rw [pieceCheck_single (Nat.lt_succ_of_lt hk), pieceCheck_single (Nat.succ_lt_succ hk)] at hcheck
    omega
  rw [hsplit, pieceCheck_xor]
  simpa using hne

/-! The check of a line. -/

/-- The number whose base-4 digits, least significant first, are the first n values of c. -/
def base4 (c : Nat → Nat) (n : Nat) : Nat := (List.range n).foldl (fun m i => m + 4 ^ i * c i) 0

theorem base4_succ (c : Nat → Nat) (n : Nat) : base4 c (n + 1) = base4 c n + 4 ^ n * c n := by
  simp [base4, List.range_succ]

theorem base4_lt {c : Nat → Nat} (hc : ∀ i, c i < 4) (n : Nat) : base4 c n < 4 ^ n := by
  induction n with
  | zero => exact Nat.one_pos
  | succ n ih =>
    have hdigit : 4 ^ n * c n ≤ 4 ^ n * 3 := Nat.mul_le_mul_left _ (Nat.le_of_lt_succ (hc n))
    rw [base4_succ, pow_succ]
    omega

theorem base4_digit {c : Nat → Nat} (hc : ∀ i, c i < 4) {i n : Nat} (hi : i < n) : base4 c n / 4 ^ i % 4 = c i := by
  induction n, hi using Nat.le_induction with
  | base =>
    rw [base4_succ, Nat.add_mul_div_left _ _ (by positivity), Nat.div_eq_of_lt (base4_lt hc i), Nat.zero_add,
      Nat.mod_eq_of_lt (hc i)]
  | succ n hn ih =>
    obtain ⟨d, rfl⟩ := Nat.exists_eq_add_of_le hn
    have hpow : 4 ^ (i + 1 + d) * c (i + 1 + d) = 4 ^ i * (4 * (4 ^ d * c (i + 1 + d))) := by ring
    rw [base4_succ, hpow, Nat.add_mul_div_left _ _ (by positivity), Nat.add_mul_mod_self_left, ih]

theorem flitsOf_line_chk (data psn : Nat) :
    (flitsOf 0 256 data psn).chk =
      BitVec.ofNat 16 (base4 (fun i => (pieceCheck (BitVec.ofNat 256 (data / 2 ^ (256 * i)))).toNat) 8) := rfl

theorem bits_line_chk (data psn : Nat) {i : Nat} (hi : i < 8) :
    bits (flitsOf 0 256 data psn).chk.toNat (2 * i) 2 = (pieceCheck (BitVec.ofNat 256 (data / 2 ^ (256 * i)))).toNat := by
  have hdigits (j : Nat) : (pieceCheck (BitVec.ofNat 256 (data / 2 ^ (256 * j)))).toNat < 4 := BitVec.isLt _
  have hfits : base4 (fun i => (pieceCheck (BitVec.ofNat 256 (data / 2 ^ (256 * i)))).toNat) 8 < 2 ^ 16 := base4_lt hdigits 8
  rw [flitsOf_line_chk, BitVec.toNat_ofNat, Nat.mod_eq_of_lt hfits, bits, pow_mul]
  exact base4_digit hdigits hi

/-- Settles O31: a check is linear in its piece, and neither one set bit nor two neighbours have the check 0. -/
theorem lineCheckFindsErrors : Obligations.LineCheckFindsErrors := by
  unfold Obligations.LineCheckFindsErrors
  refine ⟨fun x => ?_, fun x k hk => pieceCheck_xor_ne (pieceCheck_single_ne_zero hk),
    fun x k hk => pieceCheck_xor_ne (pieceCheck_adjacent_ne_zero hk), fun data psn i hi => bits_line_chk data psn hi⟩
  simpa only [keptCount, List.countP_eq_length_filter, BitVec.testBit_toNat] using pieceCheck_toNat_keptCount x

end Sys2Proof.Machine
end
